-- ==== Sys2Proof/Word.lean ====
section
/-!
DEFINITION. The words of the LM4480 (00 R8): byte 8, half-word 16, word 32, double-word 64 and
quad-word 128 bits, and the plainest arithmetic over them: bit fields and little-endian bytes (R7, R9).
-/

namespace Sys2Proof

abbrev Byte := BitVec 8
abbrev Half := BitVec 16
abbrev Word := BitVec 32
abbrev DWord := BitVec 64
abbrev QWord := BitVec 128

/-- Bit `n` of a word (R7). -/
def Word.bit (w : Word) (n : Nat) : Bool := w.getLsbD n

/-- The `len` bits of a word from bit `lo` up, as a number (R7: `[lo+len-1:lo]`). -/
def Word.field (w : Word) (lo len : Nat) : Nat := (w.toNat >>> lo) % 2 ^ len

/-- A word with the `len` bits from `lo` up replaced by the low `len` bits of `v`. -/
def Word.setField (w : Word) (lo len v : Nat) : Word :=
  let m : Word := BitVec.ofNat 32 ((2 ^ len - 1) <<< lo)
  (w &&& ~~~m) ||| (BitVec.ofNat 32 (v <<< lo) &&& m)

/-- A word with bit `n` set to `b`. -/
def Word.setBit (w : Word) (n : Nat) (b : Bool) : Word := w.setField n 1 b.toNat

/-- The mask of `len` bits from `lo` up. -/
def Word.mask (lo len : Nat) : Word := BitVec.ofNat 32 ((2 ^ len - 1) <<< lo)

/-- The `n` low bytes of a number, lowest first (R9). -/
def bytesLE : Nat → Nat → List Byte
  | 0, _ => []
  | n + 1, v => BitVec.ofNat 8 v :: bytesLE n (v / 256)

/-- The number a list of bytes stands for, lowest byte first (R9). -/
def ofBytesLE : List Byte → Nat
  | [] => 0
  | b :: bs => b.toNat + 256 * ofBytesLE bs

/-- The number a list of bytes stands for in wire order, first byte highest. -/
def ofBytesBE (bs : List Byte) : Nat := bs.foldl (fun a b => a * 256 + b.toNat) 0

/-- `n` bytes of a number in wire order, highest first. -/
def bytesBE (n v : Nat) : List Byte := (bytesLE n v).reverse

/-- Byte `i` of a list, zero beyond its end. -/
def byteAt (bs : List Byte) (i : Nat) : Byte := bs.getD i 0

/-- `n` bytes of a list from position `i`, zero beyond its end. -/
def slice (bs : List Byte) (i n : Nat) : List Byte :=
  let t := (bs.drop i).take n
  t ++ List.replicate (n - t.length) 0

/-- The bits of a word that are set, lowest first. -/
def Word.bits (w : Word) : List Nat := (List.range 32).filter fun i => w.getLsbD i

/-- The number `v` read as a two's complement value of `n` bits. -/
def signedOf (n v : Nat) : Int :=
  let u := v % 2 ^ n
  if 2 ^ (n - 1) ≤ u then (u : Int) - (2 ^ n : Nat) else (u : Int)

/-- A signed number as `n` bits. -/
def toBits (n : Nat) (i : Int) : Nat := (i % (2 ^ n : Nat)).toNat

/-- ⌈a / b⌉ for a positive `b`. -/
def ceilDiv (a b : Nat) : Nat := (a + b - 1) / b

/-- The list with element `i` replaced; unchanged beyond its end. -/
def setAt {α : Type} (l : List α) (i : Nat) (v : α) : List α := l.set i v

end Sys2Proof
end

