-- ==== Sys2Proof/Syntax.lean ====
section
/-!
DEFINITION. The commands of the LM4480, one constructor per row of spec/opcode_table.json, with the
operands the row's rule gives it. A command that is a register write carries its sender (05 R135) and the
written word; a command that is an event of a clock, a pin or a network carries what the event brings with
it. `stamp` operands are TIME_NOW of the capture cycle of the event (02 R43).
-/

namespace Sys2Proof

/-- The four channels (01 R25). -/
inductive Ch where
  | ch0 | ch1 | ch2 | ch3
deriving DecidableEq, Repr

/-- The number of a channel. -/
def Ch.num : Ch → Nat
  | .ch0 => 0 | .ch1 => 1 | .ch2 => 2 | .ch3 => 3

/-- The channel of a number, CH3 above 3. -/
def Ch.nth : Nat → Ch
  | 0 => .ch0 | 1 => .ch1 | 2 => .ch2 | _ => .ch3

/-- Ethernet ports A and B, PRP LANs A and B, slotted-bus media A and B. -/
inductive Port where
  | a | b
deriving DecidableEq, Repr

def Port.num : Port → Nat
  | .a => 0 | .b => 1

def Port.other : Port → Port
  | .a => .b | .b => .a

/-- The two CAN controllers, the two token-bus MACs (14 R367, 15 R400). -/
inductive Unit2 where
  | u0 | u1
deriving DecidableEq, Repr

def Unit2.num : Unit2 → Nat
  | .u0 => 0 | .u1 => 1

/-- Who makes an access to a channel, with the sender ID of R135. `vf v` is VF(v+1). -/
inductive Sender where
  | rook | pf | vf (v : Fin 7) | pf4
deriving DecidableEq, Repr

/-- The sender ID the hardware stamps (05 R135). -/
def Sender.id : Sender → Nat
  | .rook => 0 | .pf => 1 | .vf v => 2 + v.val | .pf4 => 9

/-- Every sender but the Rook comes through the host port. -/
def Sender.isHost : Sender → Bool
  | .rook => false | _ => true

/-- The function number f of 05 R144: 0 the PF, 1–7 the VFs. -/
def Sender.ofFn (f : Fin 8) : Sender :=
  if h : f.val = 0 then .pf else .vf ⟨f.val - 1, by omega⟩

/-- A host function of the device (05 R135). -/
inductive HostFn where
  | pf (c : Ch) | vf (c : Ch) (v : Fin 7) | pf4
deriving DecidableEq, Repr

/-- A register page, of a channel (03 R75) or of the device (03 R77). -/
inductive PageRef where
  | chan (c : Ch) (page : Nat)
  | dev (page : Nat)
deriving DecidableEq, Repr

/-- Configuration-space controls of a function that have no command of their own (05 R136, R140, R151, R159, R162): single
bits, the AER uncorrectable error status, a BAR and a VF BAR by number. -/
inductive CfgField where
  | busMaster | d0 | msixEnable | msixFunctionMask | vfEnable | relaxedOrdering | aerStatus
  | bar (i : Fin 6) | vfBar (i : Fin 6)
deriving DecidableEq, Repr

/-- A register that chapter 09 names but lays out at no offset (log entry 8). -/
inductive PawnNamed where
  | ecode (codebase entry : Nat)
  | egroup (gw : Fin 8) (gbase tpin : Nat)
  | eframe (order autox : Bool) (framelen depth : Nat)
  | epace (p1 p2 p3 : Byte)
deriving DecidableEq, Repr

/-- Where a register write goes. -/
inductive RegTarget where
  /-- a channel register page, reached by the Rook or by the channel PF (01 R24, 05 R137) -/
  | chan (c : Ch) (page off : Nat)
  /-- a VF's BAR0 (05 R141) -/
  | vfView (c : Ch) (v : Fin 7) (off : Nat)
  /-- a device page through PF4 (03 R77) -/
  | dev (page off : Nat)
  /-- a word of a function's MSI-X table: entry and word 0–3 (05 R137) -/
  | msix (f : HostFn) (vec word : Nat)
  /-- a configuration-space control (05 R136) -/
  | cfg (f : HostFn) (field : CfgField)
  /-- a byte offset in a function's BAR4: MSI-X table and PBA (05 R137) -/
  | bar4 (f : HostFn) (off : Nat)
  /-- a word of a function's configuration header: identity and BARs (05 R136, R137) -/
  | header (f : HostFn) (off : Nat)
  /-- a Pawn register without an offset (09 R264) -/
  | pawn (c : Ch) (e : Fin 8) (r : PawnNamed)
deriving DecidableEq, Repr

/-- What a register access does: a write, a poisoned write TLP (05 R162), a host read of `n` words (log entry 55). -/
inductive RegOp where
  | write | poisoned
  | read (n : Nat)
deriving DecidableEq, Repr

/-- A register access: sender, target, the ascending words of a write, whether every word is whole and aligned (03 R69),
and what it does. -/
structure RegAccess where
  snd   : Sender
  tgt   : RegTarget
  data  : List Word
  whole : Bool
  op    : RegOp
deriving DecidableEq, Repr

/-- A place in a channel as PF4's windows reach it (05 R139). -/
inductive ChanSpace where
  | regs (page off : Nat)
  | window (off : Nat)
deriving DecidableEq, Repr

/-- A memory-window access (05 R138): a read of n bytes, or a write with a byte enable per byte. -/
inductive MemAcc where
  | read (n : Nat)
  | write (data : List (Option Byte)) (poisoned : Bool)
deriving DecidableEq, Repr

/-- What starts a device reset (04 R99, 18 R493); `rstn` carries the low time in ns. -/
inductive DevCause where
  | powerOn | rstn (ns : Nat) | supply | thermal | devReset
deriving DecidableEq, Repr

/-- A monitored supply (04 R127). -/
inductive Supply where
  | vddCore | vddSd09 | vddSd18 | vddOtp18 | vddio (bank : Fin 17)
deriving DecidableEq, Repr

/-- What a debugger does on JTAG (04 R129, 07 R222). -/
inductive JtagOp where
  | idcode
  | read (c : Ch) (off : Nat)
  | write (c : Ch) (off : Nat) (v : Word)
deriving DecidableEq, Repr

/-- The end of a host read the DMA issued (05 R149). -/
inductive ReadResult where
  | data (bytes : List Byte)
  | ur | ca | poison
deriving DecidableEq, Repr

/-- Memories that ECC covers (06 R191). -/
inductive MemKind where
  | sram | iram | dtcm
deriving DecidableEq, Repr

/-- A frame on a CAN bus, in the terms of 14 R374. -/
structure CanFrame where
  fmt : Nat
  ide : Bool
  rtr : Bool
  brs : Bool
  esi : Bool
  sec : Bool
  dlen : Nat
  sdt : Byte
  id : Nat
  af : Word
  vcid : Byte
  data : List Byte
deriving DecidableEq, Repr

/-- What a port receives: the first byte of a frame, which fixes the configuration that judges it (11 R293, R306, R307), or
a frame whole, from the destination to the FCS. A frame without its first byte before it is judged by the configuration it
meets. -/
inductive EthRx where
  | first
  | whole (frame : List Byte)
deriving DecidableEq, Repr

/-- An error a receiver finds on a CAN bus (14 R368, R398). -/
inductive CanRxErr where
  | bit | stuff | form | crc
deriving DecidableEq, Repr

/-- What a CAN controller receives: a frame valid on the bus (14 R373), or a frame that ends in an
error: which one, whether in an XL data phase (R390), and how many further errors by which ISO 11898-1 raises the receive
counter by 8. -/
inductive CanRx where
  | frame (f : CanFrame)
  | error (e : CanRxErr) (xlData : Bool) (more : Nat)
deriving DecidableEq, Repr

/-- How an attempt on a CAN bus ends (14 R382). -/
inductive CanEnd where
  | success | lostArbitration | bitErr | stuffErr | formErr | crcErr | ackErr
deriving DecidableEq, Repr

/-- The end of an attempt as the bus and the transmitter saw it: how, whether an error lies in the data phase, and the loop
delay measured before that phase in CAN cycles (14 R372, R390). -/
structure CanOver where
  how   : CanEnd
  data  : Bool
  delay : Nat
deriving DecidableEq, Repr

/-- A read of the DMA on the host that is open: of a ring's next descriptor, or of its oldest item that reads (05 R149). -/
structure RingRead where
  ring  : Fin 8
  fetch : Bool
deriving DecidableEq, Repr

/-- An access by its offset in a page, and whether it reads. -/
structure PageAcc where
  off : Nat
  rd  : Bool
deriving DecidableEq, Repr

/-- The start of an Elof transaction: the chip select that falls and the mode SCK selects (05 R153). -/
structure ElofStart where
  hcs   : Fin 5
  mode3 : Bool
deriving DecidableEq, Repr

/-- A medium of a channel's slotted bus. -/
structure SlbPlace where
  chan   : Ch
  medium : Port
deriving DecidableEq, Repr

/-- What a token-bus MAC reads on RXD up to the end of a frame (15 R403): the samples since the last command that brought
any, its own transmissions apart, and TIME_NOW at the first start bit. -/
structure TpbRx where
  samples : List Bool
  stamp : DWord
deriving DecidableEq, Repr

/-- What a medium of the slotted bus brings up to the end of a frame (16 R433): the samples of RXD, 8 per bit time, from an idle
bus on; when the first of them was taken, in microticks after the start of the cycle by the node's own schedule; and TIME_NOW
then. -/
structure SlbRx where
  samples : List Bool
  at0 : Int
  stamp : DWord
deriving DecidableEq, Repr

/-- The commands of spec/opcode_table.json. -/
inductive Instr where
  -- register access and events (03)
  | registerWrite (a : RegAccess)
  | unmappedPageAccess (snd : Sender) (p : PageRef) (acc : PageAcc)
  | pgFaultClear (snd : Sender) (p : PageRef)
  | blkreset (snd : Sender) (p : PageRef) (v : Word)
  | blockResetEnd (c : Ch) (page : Nat)
  | enableWrite (snd : Sender) (p : PageRef) (v : Word)
  | msixUnmask (f : HostFn) (vec : Nat)
  | evtRookpendClear (snd : Sender) (c : Ch) (hi : Bool) (v : Word)
  | evtHostpendClear (snd : Sender) (c : Ch) (hi : Bool) (v : Word)
  | vfevPendClear (c : Ch) (vf : Fin 7) (hi : Bool) (v : Word)
  | devevtPendClear (hi : Bool) (v : Word)
  -- grants (01)
  | mgmtRead (c : Ch) (sp : ChanSpace) (n : Nat)
  | pf4ChannelWrite (c : Ch) (sp : ChanSpace)
  | chctlGrantWrite (snd : Sender) (c : Ch) (v : Word)
  -- received frames (01, 11, 14)
  | ethRxFrame (c : Ch) (p : Port) (r : EthRx) (phyErr : Bool) (stamp : DWord)
  | canRxFrame (c : Ch) (n : Unit2) (r : CanRx) (stamp : DWord)
  -- whistle and time base (02)
  | whistle (c : Ch)
  | whistleEn (snd : Sender) (c : Ch) (v : Word)
  | whistleStep (snd : Sender) (c : Ch) (v : Word)
  | realign (snd : Sender) (c : Ch) (v : Word)
  | armall (snd : Sender) (c : Ch) (v : Word)
  | arm (snd : Sender) (c : Ch) (page : Nat) (v : Word)
  | ledgerMark (snd : Sender) (c : Ch) (v : Word)
  | timeAdjWrite (snd : Sender) (c : Ch) (v : Word)
  | timeNowHiWrite (snd : Sender) (c : Ch) (v : Word)
  | timeNowLoWrite (snd : Sender) (c : Ch) (v : Word)
  | timeNowLoRead (snd : Sender) (c : Ch)
  | whistleCountLoRead (snd : Sender) (c : Ch)
  | whistleTimeLoRead (snd : Sender) (c : Ch)
  | timeCtrlWrite (snd : Sender) (c : Ch) (v : Word)
  | servoReferenceEvent (c : Ch) (src : Nat) (stamp : DWord)
  | referenceInstantMissed (c : Ch)
  -- resets, power, OTP, boot (04)
  | deviceReset (cause : DevCause)
  | deviceResetEnd (hostsel : Option Bool)
  | managementStart (otpOk : Bool)
  | hostPortReady
  | pwrOn (c : Ch)
  | channelRailGood (c : Ch)
  | pwrOnRailTimeout (c : Ch)
  | pllLock (c : Ch)
  | pwrOff (c : Ch)
  | chReset (c : Ch)
  | channelResetDrainEnd (c : Ch)
  | channelResetScrubEnd (c : Ch)
  | chctlRstreq (snd : Sender) (c : Ch) (v : Word)
  | loadBegin (c : Ch)
  | bootLoadwinWrite (off : Nat) (v : Word)
  | loadEnd (c : Ch)
  | bootKept (c : Ch)
  | bootVerifyEnd (c : Ch)
  | otpMinver (c : Ch)
  | otpKey (c : Ch)
  | otpRevoke (c : Ch)
  | otpLock (c : Ch)
  | otpProgrammingDone
  | devReset (c : Ch)
  | supervisionTimerExpiry
  | rstSupvkick (v : Word)
  | refclkLoss (c : Ch)
  | refclkReturn (c : Ch)
  | channelPowerFault (c : Ch)
  | thermWarn (tj : Half)
  | thermCrit (tj : Half)
  | thermalShutdown (tj : Half)
  | thermalShutdownRelease (tj : Half)
  | supplyWindowExit (s : Supply) (mv : Half)
  | jtagAttach
  | jtagAccess (op : JtagOp)
  -- host port (05)
  | memoryWindowAccess (c : Ch) (off : Nat) (acc : MemAcc)
  | elofRead (hcs : Fin 5) (mode3 : Bool) (cmd : Byte) (addr : BitVec 24) (tsck wait cycles : Nat)
  | elofWrite (hcs : Fin 5) (mode3 : Bool) (cmd : Byte) (addr : BitVec 24) (data : List Byte) (nibble : Bool)
  | elofStatusRead (hcs : Fin 5) (mode3 : Bool)
  | numvfsWrite (c : Ch) (v : Half)
  | functionLevelReset (f : HostFn)
  | busMasterEnableClear (f : HostFn)
  | d3hotEntry (f : HostFn)
  | vfEnableClear (c : Ch)
  | hostPortReset
  | pcieLinkDown
  | pcieLinkUp (gen width : Nat)
  | dmaRingprodWrite (snd : Sender) (c : Ch) (f r : Fin 8) (v : Word)
  | dmaDescriptorFetch (c : Ch) (f r : Fin 8) (desc : Option (List Byte))
  | dmaReadCompletion (c : Ch) (f r : Fin 8) (res : ReadResult)
  | dmaCompletionTimeout (c : Ch) (f : Fin 8) (r : RingRead)
  | dmaDeadline (c : Ch) (f r : Fin 8) (idx : Nat)
  | dmaItemCompletion (c : Ch) (f r : Fin 8)
  | dmaRingEnable (snd : Sender) (c : Ch) (f r : Fin 8) (v : Word)
  | dmaRingDisable (snd : Sender) (c : Ch) (f r : Fin 8) (v : Word)
  | dmaStoppedClear (snd : Sender) (c : Ch) (f r : Fin 8)
  | dmaDropsRead (snd : Sender) (c : Ch) (f r : Fin 8)
  -- memory ownership and mailboxes (06)
  | memownBankWrite (snd : Sender) (c : Ch) (bank : Fin 16) (v : Word)
  | handoverEnd (c : Ch) (bank : Fin 16)
  | eccWriteback (c : Ch) (k : MemKind) (addr : Nat)
  | memownCecntRead (snd : Sender) (c : Ch)
  | mbInWrite (snd : Sender) (c : Ch) (word : Fin 16) (v : Word)
  | send (snd : Sender) (c : Ch)
  | mbInack (snd : Sender) (c : Ch) (v : Word)
  | mbOutWrite (snd : Sender) (c : Ch) (i : Fin 9) (word : Fin 16) (v : Word)
  | mbOutsend (snd : Sender) (c : Ch) (v : Word)
  | free (snd : Sender) (c : Ch)
  | commonWrite (snd : Sender) (c : Ch) (t : Fin 4) (word : Fin 16) (v : Word)
  | tokenClaim (snd : Sender) (c : Ch) (t : Fin 4)
  | tokenRelease (snd : Sender) (c : Ch) (t : Fin 4) (v : Word)
  | mbTokforce (snd : Sender) (c : Ch) (v : Word)
  | dbRing (snd : Sender) (c : Ch) (v : Word)
  | mbHdbRing (snd : Sender) (c : Ch) (i : Fin 9) (v : Word)
  | doorbellClear (snd : Sender) (c : Ch) (v : Word)
  | doorbellMaskWrite (snd : Sender) (c : Ch) (v : Word)
  -- Rook (07, 08)
  | bundleIssue (c : Ch)
  | eventEntry (c : Ch)
  | impreciseFaultEntry (c : Ch)
  | waitEnd (c : Ch)
  | fabricLoadReturn (c : Ch)
  | storeBufferAccept (c : Ch)
  | halt (snd : Sender) (c : Ch)
  | resume (snd : Sender) (c : Ch)
  | debugStep (snd : Sender) (c : Ch)
  | rdataAccess (snd : Sender) (c : Ch) (j : Fin 4) (w : Option Word)
  | spillbaseWrite (snd : Sender) (c : Ch) (v : Word)
  -- Pawn (09)
  | pawnEngineStep (c : Ch) (e : Fin 8) (balls : List (BitVec 24))
  | pawnGo (snd : Sender) (c : Ch) (v : Word)
  | pawnStop (snd : Sender) (c : Ch) (v : Word)
  | pawnTxfPush (snd : Sender) (c : Ch) (e : Fin 8) (v : Word)
  | pawnRxfPop (snd : Sender) (c : Ch) (e : Fin 8)
  | pawnIrqset (snd : Sender) (c : Ch) (v : Word)
  | pawnIrqClear (snd : Sender) (c : Ch) (v : Word)
  | pawnDrainWord (c : Ch) (e : Fin 8)
  | pawnFillWord (c : Ch) (e : Fin 8)
  | pawnDrainResume (snd : Sender) (c : Ch) (e : Fin 8)
  -- Die units and carry check (10)
  | dieStart (snd : Sender) (c : Ch) (u : Fin 8)
  | dieFeed8 (snd : Sender) (c : Ch) (u : Fin 8) (v : Word)
  | dieFeed16 (snd : Sender) (c : Ch) (u : Fin 8) (v : Word)
  | dieFeed32 (snd : Sender) (c : Ch) (u : Fin 8) (ws : List Word)
  | dieStateWrite (snd : Sender) (c : Ch) (u : Fin 8) (v : Word)
  | dieMark (snd : Sender) (c : Ch) (u : Fin 8)
  | carryProbe (snd : Sender) (c : Ch) (v : Word)
  | probeEnd (c : Ch)
  | carryRetag (snd : Sender) (c : Ch) (v : Word)
  | carryFailcntRead (snd : Sender) (c : Ch)
  -- Ethernet (11)
  | ethTransmitStart (c : Ch) (p : Port)
  | ethTransmitEnd (c : Ch) (p : Port) (stamp : DWord)
  | ethRxtsRead (snd : Sender) (c : Ch) (p : Port)
  | ethTxtsRead (snd : Sender) (c : Ch) (p : Port)
  | linkChange (c : Ch) (p : Port) (up : Bool) (speed : Fin 3)
  | mdioStart (snd : Sender) (c : Ch) (v : Word)
  | mdioDone (c : Ch) (data : Half)
  | prpLanTimeout (c : Ch) (p : Port)
  -- classifier (12)
  | walkStart (c : Ch)
  | walkEnd (c : Ch)
  | clsExcconsWrite (snd : Sender) (c : Ch) (v : Word)
  | clsBuffree (snd : Sender) (c : Ch) (v : Word)
  | clsExccfgEn (snd : Sender) (c : Ch) (v : Word)
  | clsPoolcfgEn (snd : Sender) (c : Ch) (v : Word)
  -- scheduling and shaping (13)
  | shapeTxprodWrite (snd : Sender) (c : Ch) (p : Port) (k : Fin 8) (v : Word)
  | txRingFetch (c : Ch) (p : Port) (k : Fin 8)
  | txEntryCompletion (c : Ch) (p : Port) (k : Fin 8)
  | txDeadline (c : Ch) (p : Port) (k : Fin 8) (idx : Nat)
  | gateEntry (c : Ch) (p : Port)
  | shapeTxcfgEn (snd : Sender) (c : Ch) (p : Port) (k : Fin 8) (v : Word)
  | txStoppedClear (snd : Sender) (c : Ch) (p : Port) (k : Fin 8)
  -- CAN (14)
  | canTxreq (snd : Sender) (c : Ch) (n : Unit2) (v : Word)
  | canTxabort (snd : Sender) (c : Ch) (n : Unit2) (v : Word)
  | canAttemptStart (c : Ch) (n : Unit2) (stamp : DWord)
  | canAttemptEnd (c : Ch) (n : Unit2) (r : CanOver)
  | canDeadline (c : Ch) (n : Unit2) (slot : Fin 32)
  | recover (snd : Sender) (c : Ch) (n : Unit2)
  | busOffRecoveryEnd (c : Ch) (n : Unit2)
  | objectHeaderRead (snd : Sender) (c : Ch) (n : Unit2) (i : Nat)
  | objectLastWordRead (snd : Sender) (c : Ch) (n : Unit2) (i : Nat)
  | objunlock (snd : Sender) (c : Ch) (n : Unit2) (v : Word)
  | canRqack (snd : Sender) (c : Ch) (n : Unit2) (v : Word)
  | abdStart (snd : Sender) (c : Ch) (n : Unit2) (v : Word)
  | abdDwellExpiry (c : Ch) (n : Unit2)
  | referenceMessageRequest (c : Ch) (n : Unit2)
  | ttTimeout (c : Ch) (n : Unit2)
  | canModeChange (c : Ch) (n : Unit2)
  -- token bus (15)
  | tpbFrameRx (c : Ch) (n : Unit2) (f : TpbRx)
  | tpbRawCharacter (c : Ch) (n : Unit2) (before bits stop : List Bool) (stamp : DWord)
  | tpbRawRunClose (c : Ch) (n : Unit2)
  | tpbTxprodWrite (snd : Sender) (c : Ch) (n : Unit2) (r : Fin 2) (v : Word)
  | tpbAttemptStart (c : Ch) (n : Unit2)
  | tpbAttemptEnd (c : Ch) (n : Unit2) (echo : Option Nat)
  | tpbSlotTimerExpiry (c : Ch) (n : Unit2)
  | tpbDeadline (c : Ch) (n : Unit2) (r : Fin 2)
  | tpbAnswer (c : Ch) (n : Unit2)
  | tokenPass (c : Ch) (n : Unit2)
  | tpbTokenClaim (c : Ch) (n : Unit2)
  | tpbBackoffEnd (c : Ch) (n : Unit2) (silent : Bool)
  | tpbBreak (c : Ch) (n : Unit2)
  | tpbRqack (snd : Sender) (c : Ch) (n : Unit2) (v : Word)
  | tpbStoppedClear (snd : Sender) (c : Ch) (n : Unit2) (r : Fin 2)
  -- slotted bus (16)
  | run (snd : Sender) (c : Ch) (v : Word)
  | sleep (snd : Sender) (c : Ch) (v : Word)
  | wakeup (snd : Sender) (c : Ch) (v : Word)
  | stop (snd : Sender) (c : Ch) (v : Word)
  | wakeupPatternEnd (at_ : SlbPlace)
  | wakeupPatternDetect (c : Ch) (m : Port)
  | slbFrameRx (c : Ch) (m : Port) (f : SlbRx)
  | slbActionPoint (c : Ch)
  | slbMinislotEnd (c : Ch) (m : Port)
  | slbStaticSlotEnd (c : Ch)
  | slbOffsetRateCorrection (c : Ch)
  | slbCyclePairEnd (c : Ch)
  | slbCycleStart (c : Ch)
  | slbListenTimerExpiry (c : Ch)
  | slbColdstartWaitEnd (c : Ch) (silent : Bool)
  | cyclePoint (c : Ch) (i : Fin 8)
  | slbTxready (snd : Sender) (c : Ch) (i : Fin 4) (v : Word)
  | slbTxabort (snd : Sender) (c : Ch) (i : Fin 4) (v : Word)
  | slbDeadline (c : Ch) (b : Fin 128)
  | slbEmptyRead (snd : Sender) (c : Ch) (j : Fin 512)
  -- pins and 1PPS (18)
  | bankDrop (k : Fin 17)
  | bankReturn (k : Fin 17)
  | ppsInEdge (c : Ch) (rising : Bool)
  | ppsOutRise (c : Ch)
  | ppsOutFall (c : Ch)
  | timePpsinLoRead (snd : Sender) (c : Ch)
  | ttmarkLoRead (snd : Sender) (c : Ch) (n : Unit2)
  | busIntegration (c : Ch) (n : Unit2)
  | elofHeaderMalformed (t : ElofStart) (hcsLow : Nat) (reservedOp : Bool)
deriving DecidableEq, Repr

end Sys2Proof
end

