-- ==== Sys2Proof/Decode.lean ====
section
/-!
DEFINITION. The commands that table words spell: spec/opcode_table.json gives no row any bits, since the LM4480 takes
register accesses and events, not instruction words.
-/

namespace Sys2Proof

/-- The command a table word spells: none has one. -/
def decodeTableWord (_nbits _w : Nat) : Option Instr := none

end Sys2Proof
end

