-- ==== Sys2Proof/Config.lean ====
section
/-!
DEFINITION. What the specification leaves open, and what one part fixes.
`Config.freeValue` numbers the free values of the model (log entry 4): it has no body, so nothing can be
proved of a value it gives.
`Config.vendorId` is the PCI Vendor ID of the maker (05 R136).
`Config.stepping` is the silicon stepping that MGMT_ID shows (04 R131).
-/

namespace Sys2Proof

/-- The n-th free value: a value the specification does not fix (log entry 4). -/
opaque Config.freeValue : Nat → DWord

/-- The Vendor ID of Osevenko Microsystems, which the specification does not number (05 R136, log entry 55). -/
opaque Config.vendorId : Half

/-- The silicon stepping, MGMT_ID bits [23:16] (04 R131, log entry 6). -/
opaque Config.stepping : Byte

end Sys2Proof
end

