-- ==== Sys2Proof/Machine/State.lean ====
section
/-!
DEFINITION. The state of the LM4480: everything the specification gives the machine, as plain data.

A register the specification places at a page and offset lives in a register file (`Channel.regs`, the shadow
set in `Channel.shadow`, the device pages in `Device.dregs`), keyed by page × 0x1000 + offset (01 R24), a list
in which an unlisted register holds its Reset value; a field the hardware moves on its own lives in a named
field below and is read through it. INVENTORY.md lists both.
-/

namespace Sys2Proof.Machine

/-- A sparse map in canonical form: keys strictly rising, no entry equal to what an unlisted key holds. -/
abbrev SMap (α : Type) := List (Nat × α)

/-- Byte memory: (address, byte); what an unlisted address reads as is `Mem.blank` (Ops.lean). -/
abbrev Mem := List Host.Cell

/-- Registers by page × 0x1000 + offset. -/
abbrev RegFile := SMap Word

/-! ## Why a step can stop -/

/-- The faults of the model. The specification leaves no behaviour open (00 R2) and answers every access and
every event with an effect, so no command ends in one. -/
inductive Fault where
deriving DecidableEq, Repr

/-- The refusals of the model. -/
inductive Refusal where
  /-- Raised by an arm of `exec` whose command has no meaning yet; safe: the run stops. -/
  | notModelled (mnemonic : String)
deriving DecidableEq, Repr

/-! ## Memory -/

/-- Errors the ECC of a channel would meet (06 R191, 10 R279): quad-word addresses per memory, block numbers for
the tag array, MBOX page offsets for mailbox words; `ue` uncorrectable, `ce` correctable; `wb` the corrected
words that wait to be written back. -/
structure Ecc where
  ue     : List (MemKind × Nat)
  ce     : List (MemKind × Nat)
  ueTag  : List Nat
  ceTag  : List Nat
  ueMail : List Nat
  ceMail : List Nat
  wb     : List (MemKind × Nat)
deriving DecidableEq, Repr

/-- An access held by a handover until its bank changes owner (06 R170). -/
structure Held where
  snd  : Sender
  addr : Nat
  acc  : MemAcc
deriving DecidableEq, Repr

/-- A running handover of a bank (06 R170). -/
structure Handover where
  bank     : Nat
  newOwner : Nat
  shared   : Bool
  held     : List Held
deriving DecidableEq, Repr

/-! ## Power, reset, boot (04) -/

inductive Pwr where
  | off | ramp | on
deriving DecidableEq, Repr

/-- BOOT_CHSTAT.STATE (04 R132). -/
inductive Boot where
  | off | reset | loadwait | loading | verify | run | fail | clklost
deriving DecidableEq, Repr

/-- Causes of a channel reset, in the order of 04 R119. -/
inductive RstCause where
  | powerOn | refclk | mgmt | pf | rook
deriving DecidableEq, Repr

/-- The sequence a channel is in the middle of (04 R104–R106): `drain` with the power-off that follows it or not. -/
inductive Seq where
  | idle | rail | lock
  | drain (cause : RstCause) (thenOff : Bool)
  | scrub (cause : RstCause)
deriving DecidableEq, Repr

/-! ## Time base and whistle (02) -/

inductive Lock where
  | free | acquiring | locked | holdover
deriving DecidableEq, Repr

/-- The time base in units of 2⁻²⁴ ns (02 R43), its latches (R68), the servo (R45) and PPS_OUT (18 R498). -/
structure TimeBase where
  acc     : BitVec 88
  stage   : Word
  nowHi   : Word
  lock    : Lock
  good    : Nat
  missed  : Nat
  instant : Nat
  ppsIn   : DWord
  ppsHi   : Word
  ppsOut  : Bool
  ppsRise : Nat
deriving DecidableEq, Repr

/-- The whistle unit: counters and latches (02 R67), the next boundary in ns, the instant a changed period has anchored the
boundaries to (R58; none where WHISTLE_PHASE places them), a pending REALIGN, the fabric cycles since the last whistle
(R48), slips counted, and whether the running interval has been changed. -/
structure Whistle where
  count   : DWord
  time    : DWord
  countHi : Word
  timeHi  : Word
  next    : Nat
  anchor  : Option Nat
  realign : Bool
  elapsed : Nat
  slips   : Nat
  slipNow : Bool
deriving DecidableEq, Repr

/-- The tick ledger (02 R53, R54). -/
structure Ledger where
  used    : Nat
  last    : Nat
  debt    : Nat
  idle    : Nat
  done    : Bool
  budget  : Word
  lastOvr : Bool
  cause   : Nat
  ovrCnt  : Nat
deriving DecidableEq, Repr

/-! ## Rook (07) -/

/-- A posted fabric store. -/
structure Store where
  addr : Word
  data : List Byte
deriving DecidableEq, Repr

/-- The Rook. `frames` holds the sizes of the resident frames older than the current one, oldest first;
`issued` the syllables of a bundle whose fabric load is outstanding, `loadTick` the whistle count and done mark under which
it was charged; `bpSkip` lets the bundle that RESUME continues with pass its own breakpoint. -/
structure Rook where
  running  : Bool
  pc       : Word
  cm       : Bool
  ie       : Bool
  exl      : Bool
  sp       : Word
  fp       : Word
  link     : Word
  wb       : Nat
  resbase  : Nat
  frames   : List Nat
  spillPtr : Word
  file     : SMap QWord
  sb       : List Store
  issued   : List Word
  loadTick : Option (DWord × Bool)
  waiting  : Bool
  halted   : Bool
  fatal    : Bool
  why      : Nat
  haltReq  : Bool
  step     : Bool
  bpSkip   : Bool
  impr     : Option (Nat × Word)
  lastPc   : Word
  lastCm   : Bool
deriving DecidableEq, Repr

/-! ## Pawn (09) -/

/-- One Pawn engine (09 R247), with the registers chapter 09 names at no offset (log entry 8): GW, GBASE, TPIN
(EGROUP), ORDER, AUTOX, FRAMELEN, DEPTH (EFRAME), P1–P3 (EPACE). `delay` counts the extra steps to come, `prev` holds the
pin levels of the previous step and `stepped` whether there has been one since GO, `entered` whether the instruction at
PC has done its first part, `div` the divider's accumulator after the last step. -/
structure Engine where
  run      : Bool
  pc       : Nat
  a        : Word
  s        : Word
  c0       : Half
  c1       : Half
  n        : Nat
  fresh    : Bool
  f        : Bool
  delay    : Nat
  prev     : BitVec 24
  stepped  : Bool
  entered  : Bool
  div      : Nat
  tx       : List Word
  rx       : List Word
  halted   : Bool
  illegal  : Bool
  txovf    : Bool
  rxunf    : Bool
  rxovf    : Bool
  stall    : Bool
  gw       : Nat
  gbase    : Nat
  tpin     : Nat
  order    : Bool
  autox    : Bool
  framelen : Nat
  depth    : Nat
  p1       : Nat
  p2       : Nat
  p3       : Nat
deriving DecidableEq, Repr

/-- The Pawn block: engines, latches, the levels of the pins in the last PAWN cycle and in the two before it, which are the
stages of the input synchroniser (09 R250), EVSTAT as last judged (09 R262). -/
structure Pawn where
  eng    : Vector Engine 8
  outL   : BitVec 24
  dirL   : BitVec 24
  pins   : BitVec 24
  sync1  : BitVec 24
  sync2  : BitVec 24
  evPrev : Word
deriving DecidableEq, Repr

/-! ## Classifier, Ethernet, scheduler (11, 12, 13) -/

/-- An action of a rule or of CLS_DEFACT (12 R318). -/
structure Action where
  dest    : Nat
  port    : Port
  cls     : Nat
  polen   : Bool
  policer : Nat
  func    : Nat
  ring    : Nat
  excode  : Nat
deriving DecidableEq, Repr

/-- A frame stage 7 has written to the receive pool (12 R313–R315). -/
structure RxFrame where
  buf   : Nat
  len   : Nat
  port  : Port
  stamp : DWord
  win   : List Byte
  dei   : Bool
deriving DecidableEq, Repr

/-- How a walk ended (12 R319, R326, R337): an action with its REASON, or an exception. -/
inductive WalkEnd where
  | act (a : Action) (reason : Nat)
  | exc (reason code status faddr : Nat)
deriving DecidableEq, Repr

/-- The configuration set a walk keeps from its start to its end (12 R322); `kmask` holds the key masks by profile. -/
structure WalkCfg where
  root   : Nat
  except : Bool
  graph  : Nat
  rules  : Nat
  defact : Action
  kmask  : List (List Byte)
deriving DecidableEq, Repr

/-- Where a walk stands (12 R315, R326): the node to visit next, cursor, key, visits made, last node visited, whether its
frame is a fragment and which table entry its end stores. -/
structure WalkAt where
  node   : Nat
  cur    : Nat
  key    : List Byte
  visits : Nat
  last   : Nat
  frag   : Bool
  store  : Option (List Byte)
deriving DecidableEq, Repr

/-- The walk in the walker (12 R320): its frame, version tag, configuration, place, whether a commit has made its set the old
one, and how it has ended, if its last visit is made. -/
structure Walk where
  frame : RxFrame
  ver   : Nat
  cfg   : WalkCfg
  pos   : WalkAt
  old   : Bool
  res   : Option WalkEnd
deriving DecidableEq, Repr

/-- An entry of the fragment table (12 R325). -/
structure FragEntry where
  key    : List Byte
  act    : Action
  reason : Nat
  ver    : Nat
  born   : DWord
deriving DecidableEq, Repr

structure Classifier where
  backlog : List RxFrame
  walk    : Option Walk
  free    : List Nat
  fwHeld  : List Nat
  frags   : List FragEntry
  version : Nat
  oldBusy : Bool
  excused : Nat
  dropNow : Bool
  dropOld : Bool
deriving DecidableEq, Repr

/-- A frame in a class queue (13 R343): from the classifier, from the other port, or from a
transmit ring: 16 × its entry + its class. A frame on a wire whose entry or receive buffer has ended without it has none
(17 R472). A frame from the other port carries the tags of its 64-byte blocks computed at receive (11 R295). -/
inductive QSrc where
  | classifier | pass (rx : Port) (bytes : List Byte) (tags : List Word) | ring (idx : Nat) | ended
deriving DecidableEq, Repr

structure QFrame where
  src  : QSrc
  addr : Nat
  len  : Nat
deriving DecidableEq, Repr

/-- An open entry of a transmit ring (13 R346, R347); `fire` is the whistle count at which its deadline fires. -/
structure TxItem where
  idx     : Nat
  addr    : Nat
  len     : Nat
  tick    : Bool
  free    : Bool
  fire    : Option Nat
  queued  : Bool
  outcome : Option Byte
deriving DecidableEq, Repr

/-- A transmit ring: open entries in ring order, next index to fetch, whistle counts of the PROD writes that posted
what is not fetched yet. -/
structure TxRing where
  items  : List TxItem
  fetch  : Nat
  posted : List (Nat × Nat)
deriving DecidableEq, Repr

/-- A time-stamp FIFO entry (11 R299). -/
structure TsEntry where
  time : DWord
  seq  : Nat
  msg  : Nat
  dom  : Nat
deriving DecidableEq, Repr

/-- The frame a MAC is sending (11 R292): its class and source, its bytes with FCS, whether it is the LAN B copy of
port A's frame, whether it is one of the two copies of a pair (R301). -/
structure TxFrame where
  cls   : Nat
  q     : QFrame
  bytes : List Byte
  copy  : Bool
  pair  : Bool
deriving DecidableEq, Repr

/-- A frame in reception: the registers, and the swaps of the PRP page so far, when its first byte arrived (11 R293, R306,
R307). -/
structure RxOpen where
  regs  : RegFile
  swaps : Nat
deriving DecidableEq, Repr

/-- A port: its time-stamp FIFOs, the bytes its receive buffer holds, the frame on its wire, the frame in reception. -/
structure EthPort where
  rxTs   : List TsEntry
  txTs   : List TsEntry
  rxUsed : Nat
  tx     : Option TxFrame
  rx     : Option RxOpen
deriving DecidableEq, Repr

/-- The gates of a port in force (13 R351, R363): open classes, current list entry, whether an invalid entry holds them
until the next whistle. -/
structure Gates where
  classes : BitVec 8
  entry   : Nat
  failed  : Bool
deriving DecidableEq, Repr

/-- A policer's buckets in units of 2⁻²⁴/8 000 000 byte, which 1 kbit/s fills at one in each unit of the time base, so that
nothing is rounded (13 R353), and the time base at the last judgement. -/
structure Bucket where
  tc   : Nat
  tp   : Nat
  last : Nat
deriving DecidableEq, Repr

/-- A pair transmission (11 R301): the frame's item and the outcomes of its copies so far. -/
structure PairTx where
  cls  : Nat
  q    : QFrame
  outA : Option Byte
  outB : Option Byte
  body : List Byte
deriving DecidableEq, Repr

/-- An entry of the duplicate table (11 R302, R303); `gen` counts the swaps of the PRP page before its frame (R306). -/
structure DupEntry where
  sa    : Nat
  seq   : Nat
  time  : Nat
  check : Word
  gen   : Nat
deriving DecidableEq, Repr

/-- The PRP unit: the duplicate table, when each LAN last sent a valid trailer, the pair on the wires, the swaps of its page
(R306). -/
structure Prp where
  dup   : List DupEntry
  lastA : Nat
  lastB : Nat
  pair  : Option PairTx
  swaps : Nat
deriving DecidableEq, Repr

/-! ## DMA (05) -/

/-- An open DMA item (05 R144–R149): `asked` counts the bytes whose read requests have been issued, `tries` the retries of
the oldest of them; `buf` is the pool buffer that its record frees (12 R314). -/
structure DmaItem where
  idx     : Nat
  haddr   : Nat
  saddr   : Nat
  len     : Nat
  irq     : Bool
  tick    : Bool
  fence   : Bool
  tag     : Word
  fire    : Option Nat
  started : Bool
  asked   : Nat
  done    : Nat
  tries   : Nat
  retries : Nat
  info    : Nat
  more    : Bool
  buf     : Option Nat
  outcome : Option Byte
deriving DecidableEq, Repr

/-- A frame that waits for its ring's posted descriptors to be fetched (05 R148). -/
structure DmaFrame where
  addr : Nat
  len  : Nat
  info : Nat
deriving DecidableEq, Repr

/-- A ring pair: open items in descriptor order, next index to fetch, PHASE of the pass, whether a function reset has
ended what stands between CONS and PROD (05 R159), the retries of the descriptor fetch under way, frames that wait for
posted descriptors. -/
structure DmaRing where
  items : List DmaItem
  fetch : Nat
  phase : Bool
  dead  : Bool
  tries : Nat
  wait  : List DmaFrame
deriving DecidableEq, Repr

/-! ## CAN (14) -/

/-- The controller's bits of a receive object (14 R376): LOCK, and PENDING with how many frames came during the lock and
the header bytes of the last of them. -/
structure CanObj where
  lock  : Bool
  count : Nat
  hdr   : List Byte
deriving DecidableEq, Repr

/-- An open transmit item (14 R379): the descriptor's frame words, its data, and how far it has come. `again` says that
the next attempt is a retry. -/
structure CanItem where
  slot    : Nat
  words   : List Word
  addr    : Nat
  tick    : Bool
  retry   : Nat
  retries : Nat
  again   : Bool
  fire    : Option Nat
  fired   : Bool
  aborted : Bool
  txts    : DWord
deriving DecidableEq, Repr

/-- What is on the bus: a slot's frame or the reference message. -/
inductive CanBus where
  | quiet | slot (s : Nat) | reference
deriving DecidableEq, Repr

inductive CanErr where
  | active | passive | busOff | integrating
deriving DecidableEq, Repr

/-- One CAN controller (14): receive objects by number, open items by slot, what it has on the bus with its data and SOF
stamp, error state and counters, a RECOVER write that waits, a MODE that waits for bus idle (R392), rate detection
(R386), and the time master or slave (R387–R389): `refArm` says a reference message is due TTOFS after its whistle,
`refPend` that it is requested and not sent, `refOld` that a new period has begun with it on the bus, `refNext` that the next
one is requested meanwhile. -/
structure Can where
  objs    : SMap CanObj
  items   : List CanItem
  bus     : CanBus
  txData  : List Byte
  txTs    : DWord
  state   : CanErr
  tec     : Nat
  rxErr   : Nat
  lec     : Nat
  recover : Bool
  newMode : Option Nat
  abdRun  : Bool
  abdFound : Bool
  abdFail : Bool
  abdIdx  : Nat
  abdOk   : Bool
  abdGood : Nat
  abdRound : Nat
  ttValid : Bool
  ttCycle : Nat
  ttMark  : DWord
  ttHi    : Word
  refArm  : Bool
  refPend : Bool
  refOld  : Bool
  refNext : Bool
deriving DecidableEq, Repr

/-! ## Token bus (15) -/

/-- The open item of a token-bus ring (15 R410): `again` says that its next attempt is a retry, `fired` that its deadline
has fired during an exchange. -/
structure TpbItem where
  idx     : Nat
  da      : Nat
  fc      : Nat
  len     : Nat
  addr    : Nat
  rsp     : Nat
  rspMax  : Nat
  tick    : Bool
  irq     : Bool
  fire    : Option Nat
  fired   : Bool
  started : Bool
  again   : Bool
  retries : Nat
  ts      : DWord
deriving DecidableEq, Repr

/-- What the MAC has on the wire or waits for (15 R411–R418, R422): an item's frame, its slot timer, the token sent to an
address for the first or second time or as a gap probe, a back-off. -/
inductive TpbPhase where
  | quiet | sending | slotWait | passing (tgt tries : Nat) (probe : Bool) | backoff
deriving DecidableEq, Repr

/-- A request that waits for its answer: the requester, its FC, and the response buffer as it then was (15 R414). -/
structure TpbReq where
  dest  : Nat
  fc    : Nat
  base  : Nat
  len   : Nat
  valid : Bool
deriving DecidableEq, Repr

/-- The receiver of a token-bus MAC (15 R403, R404, R409): samples of the character under way (0: it hunts), the last sample,
samples left of a stop bit in which any 0 starts a character, ones among the three deciding samples of the bit, bits decided,
samples since the last stop bit was decided, samples in a row that read 1; `deaf` after an invalid frame until the bus has been
idle, `skip` for a character that began deaf. -/
structure TpbSamp where
  pos   : Nat
  prev  : Bool
  armed : Nat
  votes : Nat
  bits  : List Bool
  gap   : Nat
  ones  : Nat
  deaf  : Bool
  skip  : Bool
deriving DecidableEq, Repr

/-- What goes out on a token-bus wire: an item's or a token's frame, an answer. -/
inductive TpbWire where
  | quiet | frame | answer
deriving DecidableEq, Repr

/-- One token-bus MAC (15): the item of each ring and when the entries not fetched yet were posted; the exchange; the
token: held, nothing sent yet in this visit, ring 0 served in it, a gap probed in it, when it was taken and last
received (ns), the last rotation in bit times, the visits and the gap address last probed (R417, R418); the request to
answer; the characters last sent; the open run of MODE 0 (R416); an episode of break (R425); what is on the wire; a retry that
goes next (R411); the token received or claimed since ENABLE (R419); the receiver. -/
structure Tpb where
  ring0   : Option TpbItem
  ring1   : Option TpbItem
  posted0 : List (Nat × Nat)
  posted1 : List (Nat × Nat)
  phase   : TpbPhase
  cur     : Nat
  hold    : Bool
  fresh   : Bool
  served  : Bool
  probed  : Bool
  holdAt  : Nat
  receipt : Nat
  trr     : Nat
  visits  : Nat
  gapLast : Nat
  answer  : Option TpbReq
  wire    : List Byte
  raw     : List Byte
  rawErr  : Bool
  rawTs   : DWord
  inBreak : Bool
  out     : TpbWire
  redo    : Bool
  joined  : Bool
  samp    : TpbSamp
deriving DecidableEq, Repr

/-! ## Slotted bus (16) -/

inductive SlbSt where
  | config | listen | integrate | coldstart | active | passive | sleep
deriving DecidableEq, Repr

/-- The controller's state of a message buffer (16 R449, R451): READY, its slot taken, its deadline, the media it has been
sent on, SEQ. -/
structure SlbBuf where
  ready : Bool
  taken : Bool
  fire  : Option Nat
  sentA : Bool
  sentB : Bool
  seq   : Nat
deriving DecidableEq, Repr

/-- A sync measurement: slot, deviation per medium (16 R439). -/
structure SlbMeas where
  slot : Nat
  dA   : Option Int
  dB   : Option Int
deriving DecidableEq, Repr

/-- What a medium has received in the current slot (16 R451, R452): a valid frame or an invalid one, and when its FES ended, in
microticks after the start of the cycle (R438). -/
structure SlbSeen where
  valid   : Bool
  invalid : Bool
  null    : Bool
  fes     : Int
  cycle   : Nat
  payload : List Byte
  stamp   : DWord
deriving DecidableEq, Repr

/-- A medium: slot counter, minislots gone by, what it has received in this slot, the buffer taken for it with its
payload, the frame sent in it, whether that carried data, whether it was read back valid (R452), the time of its TSS (R449); a
valid frame in this cycle pair, LIVE (16 R438, R455); a wake-up pattern on the wire (R447). -/
structure SlbMed where
  slot : Nat
  mini : Nat
  seen : SlbSeen
  pend : Option Nat
  pay  : List Byte
  tx   : List Byte
  data : Bool
  back : Bool
  time : DWord
  had  : Bool
  live : Bool
  wake : Bool
deriving DecidableEq, Repr

/-- The slotted-bus controller (16): state, schedule, media; the sync measurements of the pair and whether another node's
sync frame was seen in it; ALONE, the pairs counted (R442, R445), a clamp, a pair that does not count yet; a coldstart
wait, a SLEEP that waits; corrections, the RATE in force and the one from the next even cycle on (R441). -/
structure Slb where
  state    : SlbSt
  sched    : Bool
  freeRun  : Bool
  cycle    : Nat
  dynamic  : Bool
  medA     : SlbMed
  medB     : SlbMed
  measEven : List SlbMeas
  measOdd  : List SlbMeas
  other    : Bool
  alone    : Bool
  pairs    : Nat
  passed   : Nat
  clamped  : Bool
  first    : Bool
  cold     : Bool
  sleepReq : Bool
  offset   : Int
  rate     : Int
  rateNext : Int
  cntEven  : Nat
  cntOdd   : Nat
  bufs     : SMap SlbBuf
deriving DecidableEq, Repr

/-! ## A channel -/

/-- A probe or re-tag of the carry check (10 R282). -/
structure CarryOp where
  snd   : Sender
  retag : Bool
  block : Nat
deriving DecidableEq, Repr

/-- A channel (01 R25, R26). `tagDiff` holds the carry tags (10 R274) as the stored tag XOR the CRC-32C of the
block's data, by block number, an unlisted block agreeing: an incremental update keeps that difference (R279).
`snap` holds what the scoreboard counters read at the last whistle (02 R49). -/
structure Channel where
  -- power, reset, boot (04)
  pwr       : Pwr
  boot      : Boot
  seq       : Seq
  refclk    : Bool
  suspended : Option Seq
  resume    : Boot
  cause     : Nat
  kept      : Bool
  devkey    : Bool
  code      : Nat
  keepReq   : Bool
  loadN     : Nat
  -- registers
  regs      : RegFile
  shadow    : RegFile
  snap      : RegFile
  -- memory (06, 07, 10)
  sram      : Mem
  iram      : Mem
  dtcm      : Mem
  iramStale : List Host.Cell
  tagDiff   : SMap Word
  ecc       : Ecc
  handovers : List Handover
  carryOps  : List CarryOp
  -- mailboxes (06)
  inLast    : Vector Byte 9
  dbMask    : Vector Word 9
  -- time (02, 18)
  tb        : TimeBase
  wh        : Whistle
  led       : Ledger
  -- engines
  rook      : Rook
  pawn      : Pawn
  ethA      : EthPort
  ethB      : EthPort
  prp       : Prp
  cls       : Classifier
  queues    : Vector (List QFrame) 16
  txRings   : Vector TxRing 16
  gatesA    : Gates
  gatesB    : Gates
  buckets   : SMap Bucket
  dma       : SMap DmaRing
  can0      : Can
  can1      : Can
  tpb0      : Tpb
  tpb1      : Tpb
  slb       : Slb
deriving DecidableEq, Repr

/-! ## The device domain -/

inductive DevPhase where
  | held | otp | mgmt | ready
deriving DecidableEq, Repr

/-- The fuses (04 R103, R133). -/
structure Otp where
  secure  : Bool
  dbglock : Bool
  err     : Bool
  minver  : Nat
  revoke  : BitVec 4
  prog    : BitVec 4
  keys    : Vector (BitVec 256) 4
deriving DecidableEq, Repr

/-- A management command in progress: OP, channel, argument (04 R103). -/
structure MgmtCmd where
  op  : Nat
  ch  : Ch
  arg : Word
deriving DecidableEq, Repr

/-- Configuration-space controls of a function (05 R136, R159), and its AER uncorrectable error status (R162). -/
structure FnCfg where
  bme      : Bool
  d3hot    : Bool
  msixEn   : Bool
  msixMask : Bool
  ro       : Bool
  aer      : Word
deriving DecidableEq, Repr

/-- A completion to a host read (05 R151): data, Completer Abort, or data of a register word. -/
structure Completion where
  f    : HostFn
  ok   : Bool
  data : List Byte
deriving DecidableEq, Repr

/-- A transaction in the link transmit queue (05 R151): an MSI-X message, a write to host memory, a read request, a
completion to a host read. -/
inductive Upstream where
  | msix (f : HostFn) (vec : Nat) (addr : Nat) (data : Word)
  | write (f : HostFn) (addr : Nat) (data : List Byte) (ro : Bool)
  | readReq (f : HostFn) (addr len : Nat)
  | cpl (x : Completion)
deriving DecidableEq, Repr

/-- The Elof target (05 R153–R156): per chip select the status of the first failed write (0 OK), the bytes driven
in the last transaction. -/
structure Elof where
  status : Vector Byte 5
  out    : List Byte
deriving DecidableEq, Repr

/-- The host port as the channels reach it (05 R134, R135): the port in use, configuration controls by function
number, SR-IOV, the BARs (key: function number × 16 + number of the BAR, from 8 up the VF BARs of a PF), the MSI-X tables
(key: function number × 256 + entry × 4 + word) and pending bits (function number × 256 + entry), the link, the link
transmit queue in the order of the link, and the channel whose turn comes next at the arbiter (01 R35). -/
structure HostPort where
  elofSel  : Bool
  fns      : SMap FnCfg
  numVfs   : Vector Nat 4
  vfEnable : Vector Bool 4
  bars     : SMap Word
  msix     : SMap Word
  msixPend : List Nat
  linkUp   : Bool
  trained  : Bool
  upstream : List Upstream
  turn     : Ch
deriving DecidableEq, Repr

structure Device where
  phase    : DevPhase
  cause    : Nat
  thermal  : Bool
  dregs    : RegFile
  cmd      : Option MgmtCmd
  otp      : Otp
  supv     : Nat
  host     : HostPort
  elof     : Elof
  jtag     : Bool
  jtagOut  : Word
deriving DecidableEq, Repr

/-- The whole machine: four channels, the device domain, the waiting commands, and the model's own counter of
free values (log entry 4). -/
structure State where
  ch0     : Channel
  ch1     : Channel
  ch2     : Channel
  ch3     : Channel
  dev     : Device
  freeCtr : Nat
  pending : List Instr
deriving DecidableEq, Repr

/-! ## Reset -/

def Ecc.reset : Ecc := ⟨[], [], [], [], [], [], []⟩

def TimeBase.reset : TimeBase := ⟨0, 0, 0, .free, 0, 0, 0, 0, 0, false, 0⟩

def Whistle.reset : Whistle := ⟨0, 0, 0, 0, 0, none, false, 0, 0, false⟩

def Ledger.reset : Ledger := ⟨0, 0, 0, 0, false, 0, false, 0, 0⟩

/-- The Rook before an image starts it (07 R226 Reset column). -/
def Rook.reset : Rook :=
  { running := false, pc := 0, cm := false, ie := false, exl := false, sp := 0, fp := 0, link := 0, wb := 0,
    resbase := 0, frames := [], spillPtr := 0x0013C000, file := [], sb := [], issued := [],
    loadTick := none, waiting := false, halted := false, fatal := false, why := 0,
    haltReq := false, step := false, bpSkip := false, impr := none, lastPc := 0, lastCm := false }

def Engine.reset : Engine :=
  { run := false, pc := 0, a := 0, s := 0, c0 := 0, c1 := 0, n := 0, fresh := false, f := false, delay := 0,
    prev := 0, stepped := false, entered := false, div := 0, tx := [], rx := [], halted := false, illegal := false,
    txovf := false, rxunf := false, rxovf := false, stall := false, gw := 0, gbase := 0, tpin := 0,
    order := false, autox := false, framelen := 0, depth := 0, p1 := 0, p2 := 0, p3 := 0 }

def Pawn.reset : Pawn := ⟨Vector.replicate 8 Engine.reset, 0, 0, 0, 0, 0, 0⟩

def Classifier.reset : Classifier := ⟨[], none, [], [], [], 0, false, 0, false, false⟩

def TxRing.reset : TxRing := ⟨[], 0, []⟩

def EthPort.reset : EthPort := ⟨[], [], 0, none, none⟩

def Prp.reset : Prp := ⟨[], 0, 0, none, 0⟩

/-- With GATECNT = 0 every gate is open (13 R351). -/
def Gates.reset : Gates := ⟨0xFF, 0, false⟩

def Can.reset : Can :=
  { objs := [], items := [], bus := .quiet, txData := [], txTs := 0, state := .integrating, tec := 0, rxErr := 0,
    lec := 0, recover := false, newMode := none, abdRun := false, abdFound := false, abdFail := false, abdIdx := 0,
    abdOk := false, abdGood := 0, abdRound := 0, ttValid := false, ttCycle := 0, ttMark := 0, ttHi := 0,
    refArm := false, refPend := false, refOld := false, refNext := false }

def TpbSamp.reset : TpbSamp := ⟨0, false, 0, 0, [], 0, 0, false, false⟩

def Tpb.reset : Tpb :=
  { ring0 := none, ring1 := none, posted0 := [], posted1 := [], phase := .quiet, cur := 0, hold := false,
    fresh := false, served := false, probed := false, holdAt := 0, receipt := 0, trr := 0, visits := 0, gapLast := 0,
    answer := none, wire := [], raw := [], rawErr := false, rawTs := 0, inBreak := false, out := .quiet, redo := false,
    joined := false, samp := TpbSamp.reset }

def SlbSeen.reset : SlbSeen := ⟨false, false, false, 0, 0, [], 0⟩

def SlbMed.reset : SlbMed := ⟨0, 0, SlbSeen.reset, none, [], [], false, false, 0, false, false, false⟩

def Slb.reset : Slb :=
  { state := .config, sched := false, freeRun := false, cycle := 0, dynamic := false, medA := SlbMed.reset,
    medB := SlbMed.reset, measEven := [], measOdd := [], other := false, alone := false, pairs := 0,
    passed := 0, clamped := false, first := false, cold := false, sleepReq := false, offset := 0,
    rate := 0, rateNext := 0, cntEven := 0, cntOdd := 0, bufs := [] }

/-- A channel right after device reset: OFF, every register at its Reset value (04 R99, R102). -/
def Channel.reset : Channel :=
  { pwr := .off, boot := .off, seq := .idle, refclk := true, suspended := none, resume := .off, cause := 0, kept := false, devkey := false,
    code := 0, keepReq := false, loadN := 0, regs := [], shadow := [], snap := [], sram := [], iram := [], dtcm := [],
    iramStale := [], tagDiff := [], ecc := Ecc.reset, handovers := [], carryOps := [],
    inLast := Vector.replicate 9 0, dbMask := Vector.replicate 9 0, tb := TimeBase.reset,
    wh := Whistle.reset, led := Ledger.reset, rook := Rook.reset, pawn := Pawn.reset, ethA := EthPort.reset,
    ethB := EthPort.reset, prp := Prp.reset, cls := Classifier.reset, queues := Vector.replicate 16 [],
    txRings := Vector.replicate 16 TxRing.reset, gatesA := Gates.reset, gatesB := Gates.reset, buckets := [],
    dma := [], can0 := Can.reset, can1 := Can.reset, tpb0 := Tpb.reset, tpb1 := Tpb.reset, slb := Slb.reset }

/-- Unprogrammed fuses (log entry 6). -/
def Otp.blank : Otp := ⟨false, false, false, 0, 0, 0, Vector.replicate 4 0⟩

def FnCfg.reset : FnCfg := ⟨false, false, false, false, false, 0⟩

def HostPort.reset : HostPort :=
  { elofSel := false, fns := [], numVfs := Vector.replicate 4 0, vfEnable := Vector.replicate 4 false, bars := [],
    msix := [], msixPend := [], linkUp := false, trained := false, upstream := [], turn := .ch0 }

def Device.reset : Device :=
  { phase := .held, cause := 0, thermal := false, dregs := [],
    cmd := none, otp := Otp.blank, supv := 0, host := HostPort.reset, elof := ⟨Vector.replicate 5 0, []⟩,
    jtag := false, jtagOut := 0 }

/-- The machine held in power-on reset: every channel OFF, the device waiting for the end of device reset
(04 R99, R102, 18 R492; log entry 5). -/
def State.reset : State :=
  { ch0 := Channel.reset, ch1 := Channel.reset, ch2 := Channel.reset, ch3 := Channel.reset,
    dev := Device.reset, freeCtr := 0, pending := [] }

/-! ## Channels by number -/

/-- The channel of a number. -/
def State.ch (s : State) : Ch → Channel
  | .ch0 => s.ch0 | .ch1 => s.ch1 | .ch2 => s.ch2 | .ch3 => s.ch3

/-- The state with a channel replaced. -/
def State.setCh (s : State) : Ch → Channel → State
  | .ch0, k => { s with ch0 := k } | .ch1, k => { s with ch1 := k }
  | .ch2, k => { s with ch2 := k } | .ch3, k => { s with ch3 := k }

/-- The state with one channel changed. -/
def State.onCh (s : State) (c : Ch) (g : Channel → Channel) : State := s.setCh c (g (s.ch c))

def Channel.can (k : Channel) : Unit2 → Can
  | .u0 => k.can0 | .u1 => k.can1

def Channel.setCan (k : Channel) : Unit2 → Can → Channel
  | .u0, x => { k with can0 := x } | .u1, x => { k with can1 := x }

def Channel.tpb (k : Channel) : Unit2 → Tpb
  | .u0 => k.tpb0 | .u1 => k.tpb1

def Channel.setTpb (k : Channel) : Unit2 → Tpb → Channel
  | .u0, x => { k with tpb0 := x } | .u1, x => { k with tpb1 := x }

def Channel.eth (k : Channel) : Port → EthPort
  | .a => k.ethA | .b => k.ethB

def Channel.setEth (k : Channel) : Port → EthPort → Channel
  | .a, x => { k with ethA := x } | .b, x => { k with ethB := x }

def Channel.gates (k : Channel) : Port → Gates
  | .a => k.gatesA | .b => k.gatesB

def Channel.setGates (k : Channel) : Port → Gates → Channel
  | .a, x => { k with gatesA := x } | .b, x => { k with gatesB := x }

/-! ## The view of one channel

What a channel's blocks can reach: the channel, the host port, and the device events they raise (01 R26). An operation
written over a `Node` cannot touch another channel or the rest of the device domain. -/

structure Node where
  c    : Ch
  k    : Channel
  host : HostPort
  evs  : List Nat
  ctr  : Nat
  lock : Bool
  down : List Nat
deriving DecidableEq, Repr

/-- The I/O banks that are down: MON_BANKOK 0 (18 R487, R509). -/
def Device.banksDown (d : Device) : List Nat :=
  let w := ((d.dregs.find? fun e => e.1 = 0x4060).map Prod.snd).getD 0
  (List.range 17).filter fun k => !w.getLsbD k

/-- Channel `c` of a state as its blocks see it; `evs` are the device events it raises, `ctr` counts free
values, `lock` is the OTP debug lock (04 R128), `down` the I/O banks without supply (18 R486). -/
def State.node (s : State) (c : Ch) : Node :=
  ⟨c, s.ch c, s.dev.host, [], s.freeCtr, s.dev.otp.dbglock || s.dev.otp.err, s.dev.banksDown⟩

/-- The answer to a memory access: its bytes, refused by ownership or region rules (06 R190), or an uncorrectable ECC
error (06 R191). -/
inductive MemRes where
  | ok (bytes : List Byte) | denied | ecc
deriving DecidableEq, Repr

/-- How the arbiter answers an access: granted, refused, held by a handover (06 R166, R170). -/
inductive Grant where
  | ok | refused | held
deriving DecidableEq, Repr

/-- The access codes of a register field (00 R21). -/
inductive Acc where
  | rw | ro | w1c | w1s | wo | sh
deriving DecidableEq, Repr

/-- A field of a register: its bits, its access code, and which values a write may give it in a channel (00 R19),
judged with the whole written word. -/
structure Field where
  lo  : Nat
  len : Nat
  acc : Acc
  ok  : Channel → Word → Nat → Bool := fun _ _ _ => true

/-- A register: Reset value and fields (00 R21, R22). -/
structure Reg where
  reset  : Word
  fields : List Field

end Sys2Proof.Machine
end

