-- ==== Sys2Proof/Machine/Regs.lean ====
section
/-!
DEFINITION. The register map: which registers a page has, the fields of each with their access codes, legal values
and Reset values (00 R18–R22, 03 R71, R75, R77 and the Registers section of every chapter). A bit no field covers is
reserved: it reads 0 and a write to it is ignored (R18). Fields that the hardware moves on its own are listed RO here
and are read through the block that owns them.
-/

namespace Sys2Proof.Machine

/-! ## Pages (03 R75, R77) -/

def pgCHCTL : Nat := 0x00
def pgWHISTLE : Nat := 0x01
def pgEVT : Nat := 0x02
def pgMEMOWN : Nat := 0x03
def pgREGION : Nat := 0x04
def pgMBOX : Nat := 0x05
def pgDIE : Nat := 0x06
def pgROOKDBG : Nat := 0x08
def pgPAWN : Nat := 0x10
def pgETHA : Nat := 0x20
def pgETHB : Nat := 0x21
def pgPRP : Nat := 0x22
def pgCLS : Nat := 0x28
def pgSHAPE : Nat := 0x30
def pgPOLICE : Nat := 0x31
def pgCAN0 : Nat := 0x40
def pgCAN1 : Nat := 0x41
def pgTPB0 : Nat := 0x48
def pgTPB1 : Nat := 0x49
def pgSLB : Nat := 0x50
def pgDMA : Nat := 0x60
def pgTIME : Nat := 0x70
def pgCARRY : Nat := 0xF0

def pgEth (p : Port) : Nat := pgETHA + p.num
def pgCan (n : Unit2) : Nat := pgCAN0 + n.num
def pgTpb (n : Unit2) : Nat := pgTPB0 + n.num

/-- The channel pages that exist (03 R75). -/
def chanPages : List Nat :=
  [0x00, 0x01, 0x02, 0x03, 0x04, 0x05, 0x06, 0x08, 0x10, 0x20, 0x21, 0x22, 0x28, 0x30, 0x31, 0x40, 0x41, 0x48,
   0x49, 0x50, 0x60, 0x70, 0xF0]

/-- The shadowed pages (03 R75). -/
def shadowedPages : List Nat := [0x01, 0x22, 0x28, 0x30, 0x31]

def isShadowed (page : Nat) : Bool := shadowedPages.contains page

/-- The pages that a block reset does not reach (03 R73). -/
def noBlkReset : List Nat := [0x00, 0x01, 0x02, 0x03, 0x04, 0xF0, 0x70]

def dvMGMT : Nat := 0x00
def dvPWR : Nat := 0x01
def dvRST : Nat := 0x02
def dvBOOT : Nat := 0x03
def dvMON : Nat := 0x04
def dvDEVEVT : Nat := 0x05
def dvOTP : Nat := 0x06
def dvHOSTP : Nat := 0x07
def dvDBG : Nat := 0x08

/-- The device pages are 0x00–0x08 (03 R77). -/
def isDevPage (page : Nat) : Bool := page < 9

/-- The key of a register in a register file (01 R24). -/
def regKey (page off : Nat) : Nat := page * 0x1000 + off

/-- The internal address of a register (01 R24). -/
def regAddr (page off : Nat) : Word := BitVec.ofNat 32 (0x08000000 + page * 0x1000 + off)

/-! ## Fields -/

def fRW (lo len : Nat) : Field := ⟨lo, len, .rw, fun _ _ _ => true⟩
def fRO (lo len : Nat) : Field := ⟨lo, len, .ro, fun _ _ _ => true⟩
def fC (lo len : Nat) : Field := ⟨lo, len, .w1c, fun _ _ _ => true⟩
def fS (lo len : Nat) : Field := ⟨lo, len, .w1s, fun _ _ _ => true⟩
def fWO (lo len : Nat) : Field := ⟨lo, len, .wo, fun _ _ _ => true⟩
def fSH (lo len : Nat) : Field := ⟨lo, len, .sh, fun _ _ _ => true⟩

/-- A RW field that takes only the values of a test. -/
def fRWif (lo len : Nat) (p : Nat → Bool) : Field := ⟨lo, len, .rw, fun _ _ v => p v⟩

/-- A SH field that takes only the values of a test. -/
def fSHif (lo len : Nat) (p : Nat → Bool) : Field := ⟨lo, len, .sh, fun _ _ v => p v⟩

/-- A register with Reset value 0. -/
def reg0 (fs : List Field) : Option Reg := some ⟨0, fs⟩

/-- A register with the Reset value given. -/
def regR (r : Nat) (fs : List Field) : Option Reg := some ⟨BitVec.ofNat 32 r, fs⟩

/-- The index of an offset in an array of registers: `cnt` elements `stride` apart from `base`, each `w` bytes. -/
def arr (off base stride cnt : Nat) (w : Nat := 4) : Option (Nat × Nat) :=
  if base ≤ off ∧ off < base + stride * cnt ∧ (off - base) % stride < w then
    some ((off - base) / stride, (off - base) % stride)
  else none

/-- Whether an offset lies in an array of words. -/
def inWords (off base cnt : Nat) : Bool := base ≤ off && off < base + 4 * cnt && off % 4 == 0

/-! ## The value of a register -/

/-- The value of a key, or none where the key is not listed. -/
def SMap.get? {α : Type} : SMap α → Nat → Option α
  | [], _ => none
  | (a, v) :: m, x => if x = a then some v else SMap.get? m x

/-- The map without a key. -/
def SMap.del {α : Type} : SMap α → Nat → SMap α
  | [], _ => []
  | (a, v) :: m, x => if x = a then SMap.del m x else (a, v) :: SMap.del m x

/-- The map with a key listed at a value. -/
def SMap.ins {α : Type} : SMap α → Nat → α → SMap α
  | [], x, y => [(x, y)]
  | (a, v) :: m, x, y =>
    if x = a then (a, y) :: m else if x < a then (x, y) :: (a, v) :: m else (a, v) :: SMap.ins m x y

/-- A key set to a value, in canonical form: a key at what an unlisted key holds is not listed. -/
def SMap.put {α : Type} [DecidableEq α] (blank : α) (m : SMap α) (x : Nat) (y : α) : SMap α :=
  if y = blank then SMap.del m x else SMap.ins m x y

/-- The keys rise strictly from above `lo`, and no entry equals what its key holds unlisted. -/
def SMap.wfFrom {α : Type} [DecidableEq α] (blank : Nat → α) : Nat → SMap α → Bool
  | _, [] => true
  | lo, (a, v) :: m => decide (lo ≤ a) && decide (v ≠ blank a) && SMap.wfFrom blank (a + 1) m

/-- The canonical form of a map. -/
def SMap.wf {α : Type} [DecidableEq α] (blank : Nat → α) (m : SMap α) : Bool := SMap.wfFrom blank 0 m

/-! ## Channel pages -/

/-- The common header (03 R71, R94, 02 R66). -/
def headerReg (page off : Nat) : Option Reg :=
  match off with
  | 0x000 => reg0 [fRO 0 32]
  | 0x004 => reg0 [fRO 0 3, fRO 16 16]
  | 0x008 => reg0 (if isShadowed page then [fRW 0 1, fRW 1 1, fS 2 1] else [fRW 1 1, fS 2 1])
  | 0x00C => reg0 [fRO 0 8, fRO 8 8, fRO 16 4, fC 31 1]
  | 0x010 => reg0 [fRO 0 32]
  | 0x014 => reg0 [fC 0 32]
  | 0x018 => reg0 [fRW 0 32]
  | 0x01C => if isShadowed page then reg0 [fS 0 1, fRW 1 1, fRO 2 1, fRO 8 8] else none
  | _ => none

/-- CHCTL (01 R41, 03 R96, 04 R130). -/
def chctlReg (off : Nat) : Option Reg :=
  match off with
  | 0x040 => reg0 [fRO 0 2, fRO 8 8]
  | 0x044 => reg0 [fRW 0 1]
  | 0x048 => reg0 [fC 0 32]
  | 0x04C => reg0 [fC 0 32]
  | 0x050 => reg0 [fWO 0 1]
  | 0x054 => reg0 [fRO 0 3]
  | 0x058 => reg0 [fRO 0 32]
  | 0x05C => reg0 [fRO 0 7, fRO 8 1]
  | _ => none

/-- WHISTLE (02 R67, limits R57). -/
def whistleReg (off : Nat) : Option Reg :=
  match off with
  | 0x040 => reg0 [fRW 0 1, fRW 1 1, fS 2 1, fS 3 1, fS 4 1]
  | 0x044 => regR 1000000 [fSHif 0 32 fun v => 25000 ≤ v && v ≤ 10000000]
  | 0x048 => reg0 [fRW 0 32]
  | 0x04C => reg0 [fRO 0 2, fC 2 1, fRO 8 8]
  | 0x050 | 0x054 | 0x058 | 0x05C => reg0 [fRO 0 32]
  | 0x060 => reg0 [fSH 0 32]
  | 0x064 | 0x068 => reg0 [fRO 0 32]
  | 0x06C => reg0 [fRO 0 24]
  | 0x070 => reg0 [fWO 0 32]
  | 0x074 => reg0 [fRO 0 4, fRO 16 16]
  | 0x078 => reg0 [fRO 0 32]
  | 0x07C => reg0 [fRW 0 1, fRW 13 19]
  | 0x080 => reg0 [fRO 0 32]
  | _ => none

/-- The FUNC of EVT_ROUTEk in force after a write of `w`, and whether `vec` is one of its vectors (03 R86). -/
def routeVecOk (key : Nat) (k : Channel) (w : Word) (vec : Nat) : Bool :=
  let kept := (SMap.get? k.regs key).getD 0x4
  let wf := w.field 2 4
  let f := if 1 ≤ wf ∧ wf ≤ 8 then wf else kept.field 2 4
  if f = 1 then vec ≤ 15 else vec ≤ 3

/-- EVT (03 R95, R86). -/
def evtReg (off : Nat) : Option Reg :=
  match off with
  | 0x040 | 0x048 => reg0 [fC 0 32]
  | 0x044 | 0x04C => reg0 [fC 0 16]
  | _ =>
    if inWords off 0x060 8 then reg0 [fRO 0 32]
    else if inWords off 0x100 48 then
      regR 0x4 [fRW 0 1, fRW 1 1, fRWif 2 4 fun v => 1 ≤ v && v ≤ 8,
                ⟨6, 4, .rw, routeVecOk (regKey pgEVT off)⟩]
    else none

/-- MEMOWN (06 R194); a bank register is written by `memownBankWrite`. -/
def memownReg (off : Nat) : Option Reg :=
  if inWords off 0x040 16 then reg0 [fRO 0 3, fRO 8 5]
  else if off = 0x080 then reg0 [fRO 0 16] else none

/-- REGION (06 R195). -/
def regionReg (off : Nat) : Option Reg :=
  if off = 0x040 then reg0 [fRO 0 5, fRO 8 1]
  else if inWords off 0x100 (18 * 32) then
    if off % 8 = 0 then reg0 [fRW 0 3, fRW 6 26] else reg0 [fRW 6 26]
  else none

/-- MBOX (06 R196, R197), the Rook region; every write has its own rule. -/
def mboxReg (off : Nat) : Option Reg :=
  if off = 0x054 then reg0 [fRW 0 32]
  else if inWords off 0x058 4 then regR 0xFFFFFFFF [fRW 0 32]
  else reg0 [fRO 0 32]

/-- DMA (05 R163); ring registers are written by the ring operations. -/
def dmaReg (off : Nat) : Option Reg :=
  if off = 0x040 then regR 1 [fRW 0 2, fRW 4 1]
  else if off = 0x044 then reg0 [fC 0 8]
  else if inWords off 0x100 512 then
    match off % 0x20 with
    | 0x00 => reg0 [fRW 5 27]
    | 0x08 => reg0 [fRW 4 28]
    | 0x04 | 0x0C => reg0 [fRW 0 32]
    | 0x10 => regR 0x40 [fRW 0 1, fRWif 1 2 fun v => v ≤ 2, fRWif 4 4 fun v => 4 ≤ v && v ≤ 12]
    | 0x14 => reg0 [fRW 0 12]
    | 0x18 => reg0 [fRO 0 12]
    | _ => reg0 [fC 0 1, fC 1 1, fRO 8 8, fRO 16 16]
  else none

/-- TIME (02 R68, R57, 18 R510). -/
def timeReg (off : Nat) : Option Reg :=
  match off with
  | 0x040 => reg0 [fRWif 0 3 fun v => v ≤ 5]
  | 0x044 => regR 0x02800000 [fRWif 0 32 fun v => 0x027FAE15 ≤ v && v ≤ 0x028051EB]
  | 0x048 | 0x04C => reg0 [fRO 0 32]
  | 0x050 => reg0 [fWO 0 32]
  | 0x054 => regR 1000000000 [fRWif 0 32 fun v => 25000 ≤ v && v ≤ 1000000000]
  | 0x058 => reg0 [fRW 0 32]
  | 0x05C => regR 100 [fRW 0 16]
  | 0x060 => reg0 [fRO 0 2]
  | 0x064 => reg0 [fRO 0 32]
  | 0x070 => regR 0x6400 [fRW 0 1, fRW 1 1, fRW 2 1, fRWif 8 8 fun v => v ≠ 0]
  | 0x074 | 0x078 => reg0 [fRO 0 32]
  | _ => none

/-- The width of a Die unit's STATE (10 R272, R283) and its SEED width. -/
def dieWidth : Nat → Nat
  | 0 => 32 | 1 => 32 | 2 => 16 | 3 => 16 | 4 => 8 | 5 => 24 | 6 => 8 | _ => 16

/-- The SEED reset value of a Die unit (10 R272). -/
def dieSeed : Nat → Nat
  | 0 => 0xFFFFFFFF | 1 => 0xFFFFFFFF | _ => 0

/-- DIE (10 R289). -/
def dieReg (off : Nat) : Option Reg :=
  if off = 0x040 then reg0 [fC 0 8]
  else if off = 0x044 then reg0 [fRO 0 8]
  else if 0x100 ≤ off ∧ off < 0x300 then
    let u := (off - 0x100) / 0x40
    match (off - 0x100) % 0x40 with
    | 0x00 => reg0 [fS 0 1, fS 1 1]
    | 0x04 => regR (dieSeed u) [fRW 0 (dieWidth u)]
    | 0x08 => regR (dieSeed u) [fRW 0 (if u = 7 then 25 else dieWidth u)]
    | 0x0C => reg0 [fRO 0 32]
    | 0x10 => reg0 [fRO 0 32]
    | 0x20 | 0x24 | 0x28 | 0x2C => reg0 [fWO 0 32]
    | 0x30 => reg0 [fWO 0 16]
    | 0x34 => reg0 [fWO 0 8]
    | _ => none
  else none

/-- CARRY (10 R290). -/
def carryReg (off : Nat) : Option Reg :=
  match off with
  | 0x040 => reg0 [fRO 0 5, fRO 8 3]
  | 0x044 => reg0 [fRO 0 32]
  | 0x048 => reg0 [fWO 6 26]
  | 0x04C => reg0 [fRO 0 4]
  | 0x050 | 0x054 => reg0 [fRO 0 32]
  | 0x058 => reg0 [fWO 6 26]
  | _ => none

/-- Whether `size` bytes at an address lie in SRAM (01 R31). -/
def inSram (a size : Nat) : Bool := 0x01000000 ≤ a && a + size ≤ 0x01400000

/-- Whether `size` bytes at an address lie in DTCM (07 R199). -/
def inDtcm (a size : Nat) : Bool := 0x00100000 ≤ a && a + size ≤ 0x00140000

/-- A stored register, `d` where it holds its Reset value. -/
def kreg (k : Channel) (page off d : Nat) : Word := (SMap.get? k.regs (regKey page off)).getD (BitVec.ofNat 32 d)

/-- A base address field from bit `lo` up: a table of `size` bytes lies wholly in SRAM, aligned to `al` (R19). -/
def fBase (acc : Acc) (lo : Nat) (size al : Channel → Nat) : Field :=
  ⟨lo, 32 - lo, acc, fun k _ v => inSram (v * 2 ^ lo) (size k) && v * 2 ^ lo % al k == 0⟩

/-- ROOKDBG_RSEL.INDEX is judged against the SPACE in force after the write (07 R226). -/
def rselIndexOk (k : Channel) (w : Word) (v : Nat) : Bool :=
  let sp := if w.field 9 2 ≤ 2 then w.field 9 2 else (kreg k pgROOKDBG 0x070 0).field 9 2
  v ≤ (if sp = 0 then 63 else if sp = 1 then 3 else 511)

/-- ROOKDBG (07 R226, R215); VEC, SPLIM and the spill registers, the debug group apart (07 R222). -/
def rookdbgReg (off : Nat) : Option Reg :=
  match off with
  | 0x040 => reg0 [fS 0 1, fS 1 1, fS 2 1, fRW 3 1]
  | 0x044 | 0x048 | 0x04C => reg0 [fRO 0 32]
  | 0x050 => reg0 [fRW 0 1, fRW 10 22]
  | 0x054 => regR 0x00100000 [⟨4, 28, .rw, fun _ _ v => inDtcm (v * 16) 16⟩]
  | 0x058 => regR 0x0013C000 [⟨4, 28, .rw, fun k _ v =>
      inDtcm (v * 16) 16 && v * 16 ≤ (kreg k pgROOKDBG 0x05C 0x0013FFF0).toNat⟩]
  | 0x05C => regR 0x0013FFF0 [⟨4, 28, .rw, fun k _ v =>
      inDtcm (v * 16) 16 && (kreg k pgROOKDBG 0x058 0x0013C000).toNat ≤ v * 16⟩]
  | 0x060 => regR 0x0013C000 [fRO 4 28]
  | 0x064 | 0x068 => reg0 [fRO 0 32]
  | 0x070 => reg0 [⟨0, 9, .rw, rselIndexOk⟩, fRWif 9 2 fun v => v ≤ 2]
  | 0x080 | 0x084 | 0x088 | 0x08C => reg0 [fRO 0 32]
  | 0x0A0 | 0x0A4 | 0x0A8 | 0x0AC => reg0 [fRW 0 1, fRW 2 30]
  | 0x0C0 | 0x0C8 => reg0 [fRW 0 32]
  | 0x0C4 | 0x0CC => regR 0x40 [fRW 0 3, fRWif 4 4 fun v => 2 ≤ v && v ≤ 12]
  | _ => none

/-- The size of a drain ring (09 R263). -/
def drainSize (log2 : Nat) : Nat := 2 ^ (if log2 = 0 then 16 else log2)

/-- PAWN (09 R270, R271, R263). -/
def pawnReg (off : Nat) : Option Reg :=
  match off with
  | 0x040 => reg0 [fS 0 8, fS 8 8]
  | 0x044 => reg0 [fRO 0 8]
  | 0x048 => reg0 [fRW 0 8]
  | 0x04C => reg0 [fC 0 8]
  | 0x050 => reg0 [fS 0 8]
  | 0x054 => reg0 [fRO 0 32]
  | 0x058 => reg0 [fRW 0 32]
  | 0x060 | 0x064 | 0x068 => regR 0xFFFFFFFF [fRW 0 32]
  | 0x06C => reg0 [fRW 0 24]
  | 0x070 => reg0 [fRO 0 24]
  | _ =>
    if inWords off 0x800 256 then reg0 [fRW 0 32]
    else if 0x100 ≤ off ∧ off < 0x300 then
      match (off - 0x100) % 0x40 with
      | 0x00 => regR 0x07E00000 [fRW 0 9, fRW 9 6, fRW 15 6, fRW 21 6]
      | 0x04 => regR 0x100 [fRW 0 8, fRW 8 16]
      | 0x08 => reg0 [fRW 0 5, fRW 5 5, fRW 10 5, fRW 15 3, fRW 18 5, fRWif 23 5 fun v => v ≤ 23]
      | 0x0C => regR 3 [fRW 0 4, fRW 4 5, fRW 9 5, fRW 14 1, fRW 15 1, fRWif 16 5 fun v => v ≤ 16,
                        fRWif 21 5 fun v => v ≤ 16]
      | 0x10 => reg0 [fRO 0 10, fC 10 1, fC 11 1, fC 12 1, fRO 13 12]
      | 0x14 => reg0 [fWO 0 32]
      | 0x18 | 0x1C | 0x20 => reg0 [fRO 0 32]
      | 0x24 => regR 0x18 [fRW 0 1, fRW 1 1, fRWif 2 4 fun v => v = 0 || 6 ≤ v,
                 ⟨6, 26, .rw, fun k w v =>
                   let l := w.field 2 4
                   let z := drainSize (if l = 0 || 6 ≤ l then l else (kreg k pgPAWN off 0x18).field 2 4)
                   inSram (v * 64) z && v * 64 % z == 0⟩]
      | 0x28 => reg0 [fRO 0 16]
      | 0x2C => reg0 [fRWif 0 16 fun v => v % 4 = 0]
      | 0x30 => reg0 [fC 0 1, fRO 8 2]
      | _ => none
    else none

/-- ETHA, ETHB (11 R310, R305); MDIO and PHY control on ETHA only. -/
def ethReg (page off : Nat) : Option Reg :=
  match off with
  | 0x040 => regR (1518 * 65536 + 12) [fRWif 0 2 fun v => v ≤ 1, fRW 2 2, fRW 4 1, fRW 5 1, fRW 6 1, fRW 7 1,
                                       fRWif 16 14 fun v => 1518 ≤ v && v ≤ 9018]
  | 0x044 => reg0 [fRO 0 3]
  | 0x048 => reg0 [fRW 0 32]
  | 0x04C => reg0 [fRW 0 16]
  | 0x050 | 0x054 => reg0 [fRW 0 32]
  | 0x058 => reg0 [fRW 0 16, fRW 16 16]
  | 0x05C => reg0 [fRW 0 3]
  | 0x060 => reg0 [fRW 0 4]
  | 0x064 => reg0 [fRO 0 3, fRO 4 3, fC 8 1, fC 9 1]
  | 0x068 | 0x06C | 0x070 | 0x078 | 0x07C | 0x080 => reg0 [fRO 0 32]
  | 0x090 => if page = pgETHA then reg0 [fRW 0 16, fRW 16 5, fRW 21 5, fRW 26 2, fRW 28 1, fS 31 1] else none
  | 0x094 => if page = pgETHA then regR (79 * 256) [fRW 0 1, fRWif 8 8 fun v => 79 ≤ v] else none
  | _ => if inWords off 0x100 16 then reg0 [fRO 0 32] else none

/-- PRP (11 R311, R305). -/
def prpReg (off : Nat) : Option Reg :=
  match off with
  | 0x040 => regR 4 [fSHif 0 2 fun v => v ≤ 2, fSH 2 1]
  | 0x044 => reg0 [fRO 0 2]
  | 0x048 => regR 400 [fRWif 0 16 fun v => 1 ≤ v]
  | 0x04C => regR 2000 [fRWif 0 16 fun v => 1 ≤ v]
  | 0x050 => reg0 [fRO 0 16]
  | 0x060 => reg0 [fRO 0 16, fC 31 1]
  | 0x064 => reg0 [fRO 0 32]
  | 0x068 => reg0 [fRO 0 16]
  | _ =>
    if inWords off 0x100 16 then reg0 [fRO 0 32]
    else if 0x200 ≤ off ∧ off < 0x600 then
      match (off - 0x200) % 0x40 with
      | 0x00 => reg0 [fSH 0 32]
      | 0x04 => reg0 [fSH 0 16, fSH 16 1]
      | 0x08 => reg0 [fSH 0 16]
      | o => if inWords o 0x0C 8 then
               reg0 [fSHif 0 14 fun v => v ≤ 9017, fSHif 16 14 fun v => v ≤ 9018]
             else none
    else none

/-- Bytes of the exception ring and of the receive pool as configured (12 R331). -/
def excSize (k : Channel) : Nat := 32 * 2 ^ (kreg k pgCLS 0x070 0x40).field 4 4
def poolBufSize (k : Channel) : Nat := 2048 * 2 ^ (kreg k pgCLS 0x080 0x400).field 1 2
def poolCount (k : Channel) : Nat := 2 ^ (kreg k pgCLS 0x080 0x400).field 8 4

/-- CLS (12 R341, R331). -/
def clsReg (off : Nat) : Option Reg :=
  match off with
  | 0x040 => reg0 [fSH 0 8, fSH 8 1]
  | 0x044 => reg0 [fBase .sh 12 (fun _ => 4096) (fun _ => 4096)]
  | 0x048 => reg0 [fBase .sh 17 (fun _ => 131072) (fun _ => 131072)]
  | 0x04C | 0x050 => reg0 [fSH 0 32]
  | 0x054 => regR 64 [fSH 0 10]
  | 0x058 => regR 8 [fRWif 0 8 fun v => 1 ≤ v]
  | 0x05C => regR 192 [fRWif 0 9 fun v => 1 ≤ v && v ≤ 256]
  | 0x060 => reg0 [fRO 0 8]
  | 0x064 => reg0 [fRO 0 32]
  | 0x068 => reg0 [fRO 0 32]
  | 0x06C => reg0 [fBase .rw 5 excSize excSize]
  | 0x070 => regR 0x40 [fRW 0 1, fRWif 4 4 fun v => 4 ≤ v && v ≤ 12]
  | 0x074 => reg0 [fRO 0 12]
  | 0x078 => reg0 [fRW 0 12]
  | 0x07C => reg0 [fBase .rw 11 (fun k => poolCount k * poolBufSize k) poolBufSize]
  | 0x080 => regR 0x400 [fRW 0 1, fRW 1 2, fRWif 8 4 fun v => 4 ≤ v && v ≤ 11]
  | 0x084 => reg0 [fRO 0 12]
  | 0x088 => reg0 [fWO 0 32]
  | _ =>
    if inWords off 0x100 16 then reg0 [fRO 0 32]
    else if inWords off 0x200 64 then reg0 [fSH 0 32]
    else none

/-- SHAPE (13 R364, R358); TXPROD and TXCFG are written by the ring operations. -/
def shapeReg (off : Nat) : Option Reg :=
  match off with
  | 0x040 | 0x044 => regR 0xFF14 [fSH 0 6, fSH 8 8, fSHif 16 7 fun v => v ≤ 64]
  | 0x048 | 0x04C => reg0 [fRW 0 24, fRW 24 3]
  | 0x050 | 0x054 | 0x058 | 0x05C => reg0 [fRW 0 16, fRW 16 1]
  | 0x060 => reg0 [fRO 0 32]
  | _ =>
    if inWords off 0x100 128 then
      match off % 0x20 with
      | 0x00 => reg0 [fSH 0 24, fSH 31 1]
      | 0x04 => reg0 [fSH 0 24]
      | 0x08 => reg0 [fRO 0 32]
      | 0x0C => reg0 [fRO 0 7]
      | 0x10 => reg0 [fBase .rw 4 (fun k => 16 * 2 ^ (kreg k pgSHAPE (off + 4) 0x40).field 4 4)
                                  (fun k => 16 * 2 ^ (kreg k pgSHAPE (off + 4) 0x40).field 4 4)]
      | 0x14 => regR 0x40 [fRW 0 1, fRWif 4 4 fun v => 4 ≤ v && v ≤ 10]
      | 0x18 => reg0 [fRW 0 10]
      | _ => reg0 [fRO 0 10, fC 16 1]
    else if inWords off 0x300 128 then reg0 [fSH 0 24, fSH 24 8]
    else if inWords off 0x500 32 then reg0 [fRO 0 32]
    else none

/-- The registers of one policer (13 R365), and of the POLICE page. -/
def policeReg (off : Nat) : Option Reg :=
  match off with
  | 0x040 => reg0 [fRW 0 8]
  | 0x044 => regR 0x20 [fSH 0 1, fSH 1 1, fSHif 2 2 fun v => v ≤ 2, fSHif 4 2 fun v => v ≤ 2, fSH 6 3, fSH 9 1]
  | 0x048 | 0x04C | 0x050 | 0x054 => reg0 [fSH 0 24]
  | 0x058 | 0x05C => reg0 [fRO 0 32]
  | _ => if inWords off 0x400 768 then reg0 [fRO 0 32] else none

/-- The place of a policer's register in the register files: pages from 0x100 up hold the policers. -/
def polKey (p off : Nat) : Nat := 0x100000 + p * 0x80 + off

/-! CAN timing sets (14 R371) -/

/-- A set is valid: SJW within both segments, the bit time at least `m` CAN cycles. -/
def timingOk (brp t1 t2 sjw m : Nat) : Bool :=
  sjw ≤ t2 && sjw ≤ t1 && m ≤ (brp + 1) * (1 + (t1 + 1) + (t2 + 1))

def nbtOk (w : Word) : Bool := timingOk (w.field 0 8) (w.field 8 8) (w.field 16 7) (w.field 23 7) 80
def dbtOk (w : Word) (m : Nat) : Bool := timingOk (w.field 0 5) (w.field 8 5) (w.field 16 4) (w.field 24 4) m

def nbtFields : List Field :=
  [⟨0, 8, .rw, fun _ w _ => nbtOk w⟩, ⟨8, 8, .rw, fun _ w _ => nbtOk w⟩, ⟨16, 7, .rw, fun _ w _ => nbtOk w⟩,
   ⟨23, 7, .rw, fun _ w _ => nbtOk w⟩]

def dbtFields (m : Nat) : List Field :=
  [⟨0, 5, .rw, fun _ w _ => dbtOk w m⟩, ⟨8, 5, .rw, fun _ w _ => dbtOk w m⟩,
   ⟨16, 4, .rw, fun _ w _ => dbtOk w m⟩, ⟨24, 4, .rw, fun _ w _ => dbtOk w m⟩]

/-- The bit time of a data-phase set in CAN cycles (14 R371). -/
def dataBitTime (w : Word) : Nat := (w.field 0 5 + 1) * (1 + (w.field 8 5 + 1) + (w.field 16 4 + 1))

/-- XLCFG and XBT agree: with TMS, EFDI is set and a PWM symbol is one XBT bit (14 R390). -/
def xlOk (xlcfg xbt : Word) : Bool :=
  !xlcfg.bit 0 || (xlcfg.bit 1 && xlcfg.field 8 6 + xlcfg.field 16 6 == dataBitTime xbt)

/-- An XLCFG setting agrees with the XBT in force; with TMS both PWM times lie in their range (14 R390, R391). -/
def xlcfgOk (page : Nat) (k : Channel) (w : Word) : Bool :=
  xlOk w (kreg k page 0x04C 0) && (!w.bit 0 || (w.field 8 6 ≠ 0 && w.field 16 6 ≠ 0))

/-- A valid XBT that agrees with the XLCFG in force (14 R371, R390). -/
def xbtOk (page : Nat) (k : Channel) (w : Word) : Bool := dbtOk w 4 && xlOk (kreg k page 0x054 0) w

def xbtFields (page : Nat) : List Field :=
  [⟨0, 5, .rw, fun k w _ => xbtOk page k w⟩, ⟨8, 5, .rw, fun k w _ => xbtOk page k w⟩,
   ⟨16, 4, .rw, fun k w _ => xbtOk page k w⟩, ⟨24, 4, .rw, fun k w _ => xbtOk page k w⟩]

/-- The number of receive objects and the data slot size as configured (14 R376, R391). -/
def canObjN (k : Channel) (page : Nat) : Nat := (kreg k page 0x060 0x06400000).field 4 10
def canSlotSize (k : Channel) (page : Nat) : Nat :=
  match (kreg k page 0x060 0x06400000).field 16 2 with
  | 0 => 8 | 1 => 64 | 2 => 256 | _ => 2048
def canQEntry (k : Channel) (page : Nat) : Nat := 2 ^ (kreg k page 0x060 0x06400000).field 24 4
def canQCount (k : Channel) (page : Nat) : Nat := 2 ^ (kreg k page 0x060 0x06400000).field 20 4

/-- CAN0, CAN1 (14 R398, R391); CFG.MODE, TXREQ, TXABORT and RQACK have their own rules. -/
def canReg (page off : Nat) : Option Reg :=
  match off with
  | 0x040 => regR 5 [fRW 0 2, fRW 2 1, fRW 3 1, fRW 4 1, fRW 5 1, fRW 6 1, fRW 7 1]
  | 0x044 => reg0 nbtFields
  | 0x048 => reg0 (dbtFields 10)
  | 0x04C => reg0 (xbtFields page)
  | 0x050 => reg0 [fRW 0 7, fRW 7 1, fRW 16 7, fRW 23 1]
  | 0x054 => reg0 [⟨0, 1, .rw, fun k w _ => xlcfgOk page k w⟩, ⟨1, 1, .rw, fun k w _ => xlcfgOk page k w⟩,
                   ⟨8, 6, .rw, fun k w v => xlcfgOk page k w && v ≠ 0⟩,
                   ⟨16, 6, .rw, fun k w v => xlcfgOk page k w && v ≠ 0⟩]
  | 0x058 => regR 3 [fRO 0 32]
  | 0x05C => reg0 [fS 0 1]
  | 0x060 => regR 0x06400000 [fRWif 0 2 fun v => v ≤ 2, fRWif 4 10 fun v => v ≤ 512, fRW 16 2,
                              fRWif 20 4 fun v => 4 ≤ v && v ≤ 7, fRWif 24 4 fun v => 6 ≤ v && v ≤ 12]
  | 0x064 => reg0 [fBase .rw 0 (fun k => 32 * canObjN k page) (fun _ => 32)]
  | 0x068 => reg0 [fBase .rw 0 (fun k => 2 * canObjN k page * canSlotSize k page) (fun k => canSlotSize k page)]
  | 0x06C => reg0 [fBase .rw 0 (fun k => canQCount k page * canQEntry k page) (fun k => canQEntry k page)]
  | 0x070 => reg0 [fRO 0 7]
  | 0x074 => reg0 [fRW 0 7]
  | 0x078 => reg0 [fWO 0 9]
  | 0x080 => reg0 [fBase .rw 11 (fun _ => 2048) (fun _ => 2048)]
  | 0x084 | 0x08C => reg0 [fS 0 32]
  | 0x088 => reg0 [fRO 0 32]
  | 0x090 => reg0 [fC 0 32]
  | 0x0A0 => reg0 [fS 0 1, fRW 8 8, fRW 16 8]
  | 0x0A4 => reg0 [fRO 0 8]
  | 0x0A8 => regR 100 [fRWif 0 16 fun v => 1 ≤ v]
  | 0x140 => regR 0x01010000 [fRWif 0 2 fun v => v ≤ 2, fRW 8 6, fRWif 16 8 fun v => 1 ≤ v,
                              fRWif 24 4 fun v => 1 ≤ v && v ≤ 8]
  | 0x144 | 0x148 => reg0 [fRW 0 29, fRW 29 1]
  | 0x14C => reg0 [fRW 0 24]
  | 0x150 => reg0 [fRW 0 32]
  | 0x154 => reg0 [fRW 0 32]
  | 0x158 => reg0 [fRO 0 1, fRO 8 6]
  | 0x15C | 0x160 => reg0 [fRO 0 32]
  | 0x164 => regR 0xFFFFFFFF [fRO 0 32]
  | 0x168 => reg0 [fRWif 0 16 fun v => 1 ≤ v]
  | _ =>
    if inWords off 0x0C0 32 then
      match off % 16 with
      | 0 => reg0 nbtFields
      | 4 => reg0 (dbtFields 10)
      | 8 => reg0 (dbtFields 4)
      | _ => reg0 [fRW 0 7, fRW 7 1, fRW 16 7, fRW 23 1]
    else if inWords off 0x180 8 then reg0 [fRO 0 32]
    else if inWords off 0x200 16 then reg0 [fRO 0 32]
    else if inWords off 0x800 512 then reg0 [fRW 0 29, fRW 29 1, fRW 30 1, fRW 31 1]
    else none

/-- A rate lies in the range of a character format (15 R402, R420). -/
def tpbRateOk (baud : Word) (fmt : Nat) : Bool :=
  let d := 16 * baud.field 0 12 + baud.field 12 4
  if fmt = 0 then 16 ≤ d && d ≤ 20000 else 5000 ≤ d && d ≤ 40000

/-- INT and FRAC give a rate of the format in force. -/
def tpbBaudOk (page : Nat) (k : Channel) (w : Word) : Bool := tpbRateOk w ((kreg k page 0x040 0x20000).field 2 2)

/-- A FMT by itself: 3 is reserved, and the rate in force lies in its range (15 R402). -/
def tpbFmtOk (page : Nat) (k : Channel) (fmt : Nat) : Bool := fmt ≠ 3 && tpbRateOk (kreg k page 0x044 1250) fmt

/-- MODE 1–3 need FMT 0 (15 R401): the FMT written, or the one that stays where that is reserved. -/
def tpbModeOk (page : Nat) (k : Channel) (w : Word) : Bool :=
  w.field 0 2 = 0 ||
  (if tpbFmtOk page k (w.field 2 2) then w.field 2 2 else (kreg k page 0x040 0x20000).field 2 2) = 0

/-- TPBn_TIMING at reset (15 R426). -/
def tpbTiming : Nat := 100 + 33 * 4096 + 2 ^ 18 + 2 ^ 22 + 11 * 2 ^ 26

/-- TPB0, TPB1 (15 R426, R420). -/
def tpbReg (page off : Nat) : Option Reg :=
  match off with
  | 0x040 => regR 0x20000 [⟨0, 2, .rw, fun k w _ => tpbModeOk page k w⟩,
                           ⟨2, 2, .rw, fun k w v => tpbFmtOk page k v && (w.field 0 2 = 0 || v = 0)⟩,
                           fRWif 4 2 fun v => v ≤ 2, fRWif 6 7 fun v => v ≤ 125, fRW 13 3, fRW 16 1, fRW 17 1]
  | 0x044 => regR 1250 [⟨0, 12, .rw, fun k w _ => tpbBaudOk page k w⟩, ⟨12, 4, .rw, fun k w _ => tpbBaudOk page k w⟩]
  | 0x048 => regR tpbTiming
      [fRWif 0 12 fun v => 16 ≤ v, fRWif 12 6 fun v => 3 ≤ v, fRW 18 4, fRW 22 4,
       ⟨26, 6, .rw, fun k w v =>
         1 ≤ v && v < (if 16 ≤ w.field 0 12 then w.field 0 12 else (kreg k page 0x048 tpbTiming).field 0 12)⟩]
  | 0x04C => reg0 [fRWif 0 24 fun v => 1 ≤ v]
  | 0x050 => reg0 [fRO 0 7, fRW 8 8]
  | 0x054 | 0x058 | 0x05C | 0x060 => reg0 [fRW 0 32]
  | 0x064 => reg0 [fRO 0 24]
  | 0x068 => regR (0x0A + 20 * 65536) [fRW 0 8, fRW 8 1, fRW 16 8]
  | 0x06C => reg0 [fRO 0 3]
  | 0x080 | 0x090 => reg0 [fBase .rw 5 (fun k => 32 * 2 ^ (kreg k page (off + 4) 0x40).field 4 4)
                                       (fun k => 32 * 2 ^ (kreg k page (off + 4) 0x40).field 4 4)]
  | 0x084 | 0x094 => regR 0x40 [fRW 0 1, fRWif 4 4 fun v => 4 ≤ v && v ≤ 10]
  | 0x088 | 0x098 => reg0 [fRW 0 10]
  | 0x08C | 0x09C => reg0 [fRO 0 10, fC 16 1]
  | 0x0A0 => reg0 [fBase .rw 6 (fun k => 2 ^ ((kreg k page 0x0A4 0x640).field 4 4 + (kreg k page 0x0A4 0x640).field 8 4))
                               (fun k => 2 ^ (kreg k page 0x0A4 0x640).field 8 4)]
  | 0x0A4 => regR 0x640 [fRW 0 1, fRWif 4 4 fun v => 4 ≤ v && v ≤ 10, fRWif 8 4 fun v => 6 ≤ v && v ≤ 9]
  | 0x0A8 => reg0 [fRO 0 10]
  | 0x0AC => reg0 [fRW 0 10]
  | _ =>
    if inWords off 0x0C0 16 then
      if off % 8 = 0 then reg0 [⟨0, 32, .rw, fun _ w _ => inSram w.toNat 1⟩]
      else reg0 [fRWif 0 8 fun v => v ≤ 246, fRW 8 1]
    else if inWords off 0x200 16 then reg0 [fRO 0 32]
    else none

/-- SLB (16 R465, R466); the ranges of 16 R456 are checked by RUN (16 R457). -/
def slbReg (off : Nat) : Option Reg :=
  match off with
  | 0x040 => regR 0x50000 [fRWif 0 2 fun v => v ≤ 2, fRW 2 1, fRW 3 1, fRW 4 1, fRW 5 1, fRW 6 10, fRW 16 4, fRW 20 1]
  | 0x044 => regR 0x20050 [fRW 0 9, fRW 16 6]
  | 0x048 => regR 0x40002 [fRW 0 10, fRW 16 10]
  | 0x04C => regR 0x1020000 [fRW 0 13, fRW 16 6, fRW 24 6]
  | 0x050 => regR 1000 [fRW 0 16, fRW 16 8]
  | 0x054 => regR 80 [fRW 0 16, fRW 16 16]
  | 0x058 => regR (400 + 100 * 65536) [fRW 0 16, fRW 16 16]
  | 0x05C => reg0 [fRW 0 8, fRW 8 16]
  | 0x060 => regR 2 [fRW 0 6, fRW 8 1, fRW 9 1]
  | 0x064 => reg0 [fS 0 4]
  | 0x068 => reg0 [fRO 0 32]
  | 0x06C => reg0 [fC 0 1, fC 1 1, fC 2 1, fC 3 1, fC 4 1]
  | 0x070 => reg0 [fRO 0 24, fC 31 1]
  | 0x074 | 0x078 | 0x07C => reg0 [fRO 0 24]
  | 0x080 | 0x084 | 0x088 | 0x08C => reg0 [fS 0 32]
  | 0x090 | 0x094 | 0x098 | 0x09C => reg0 [fWO 0 32]
  | 0x0A0 | 0x0A4 | 0x0A8 | 0x0AC => reg0 [fC 0 32]
  | 0x0B0 => reg0 [fC 0 8]
  | 0x0B4 => reg0 [fRW 6 26]
  | _ =>
    if inWords off 0x100 8 then reg0 [fRW 0 16, fRW 16 6, fRW 22 3, fRW 31 1]
    else if inWords off 0x200 32 then reg0 [fRO 0 32]
    else if inWords off 0x400 256 then
      if off % 8 = 0 then
        reg0 [fRW 0 11, fRW 11 1, fRW 12 1, fRW 13 1, fRW 14 6, fRWif 20 3 fun v => v ≤ 6, fRW 23 1, fRW 24 1, fRW 31 1]
      else reg0 [fRW 0 8, fRW 8 8]
    else if inWords off 0x800 512 then reg0 [fRO 0 32]
    else none

/-- The register of a channel page and offset, if the manual defines one (00 R20). -/
def chanReg (page off : Nat) : Option Reg :=
  if 0x100 ≤ page then policeReg (off % 0x80)
  else if off < 0x40 then headerReg page off
  else match page with
  | 0x00 => chctlReg off
  | 0x01 => whistleReg off
  | 0x02 => evtReg off
  | 0x03 => memownReg off
  | 0x04 => regionReg off
  | 0x05 => mboxReg off
  | 0x06 => dieReg off
  | 0x08 => rookdbgReg off
  | 0x10 => pawnReg off
  | 0x20 => ethReg 0x20 off
  | 0x21 => ethReg 0x21 off
  | 0x22 => prpReg off
  | 0x28 => clsReg off
  | 0x30 => shapeReg off
  | 0x31 => policeReg off
  | 0x40 => canReg 0x40 off
  | 0x41 => canReg 0x41 off
  | 0x48 => tpbReg 0x48 off
  | 0x49 => tpbReg 0x49 off
  | 0x50 => slbReg off
  | 0x60 => dmaReg off
  | 0x70 => timeReg off
  | 0xF0 => carryReg off
  | _ => none

/-- What an unlisted register of a channel holds: its Reset value. -/
def chanBlank (key : Nat) : Word :=
  match chanReg (key / 0x1000) (key % 0x1000) with
  | some r => r.reset
  | none => 0

/-! ## Device pages (03 R77; 03 R96, 04 R131–R133, 05 R164, 18 R509) -/

/-- The register of a device page and offset. -/
def devReg (page off : Nat) : Option Reg :=
  if off < 0x40 then headerReg 0 off
  else match page, off with
  | 0x00, 0x040 => reg0 [fRO 0 32]
  | 0x00, 0x044 => reg0 [fRO 0 1]
  | 0x00, 0x048 => reg0 [fWO 0 10]
  | 0x00, 0x04C => reg0 [fRW 0 32]
  | 0x00, 0x050 => reg0 [fRO 0 16]
  | 0x01, 0x040 => reg0 [fC 2 1, fC 6 1, fC 10 1, fC 14 1]
  | 0x02, 0x040 => regR 0xF0 [fRW 0 4, fRW 4 4]
  | 0x02, 0x044 => reg0 [fRWif 0 16 fun v => 1 ≤ v, fRW 31 1]
  | 0x02, 0x048 => reg0 [fWO 0 32]
  | 0x02, 0x04C => reg0 [fRO 0 3]
  | 0x03, 0x054 => reg0 [fRWif 0 22 fun v => v % 0x800 = 0]
  | 0x04, 0x040 => reg0 [fRO 0 16]
  | 0x04, 0x044 => regR (110 * 16) [fRW 0 16]
  | 0x04, 0x048 => regR (120 * 16) [fRW 0 16]
  | 0x04, 0x04C => reg0 [fRW 0 4]
  | 0x04, 0x050 => regR 800 [fRO 0 16]
  | 0x04, 0x054 => regR 900 [fRO 0 16]
  | 0x04, 0x058 | 0x04, 0x05C => regR 1800 [fRO 0 16]
  | 0x04, 0x060 => reg0 [fRO 0 17]
  | 0x05, 0x040 | 0x05, 0x044 => reg0 [fC 0 32]
  | 0x05, o => if inWords o 0x100 64 then reg0 [fRW 0 1, fRW 1 5, fRW 6 4] else none
  | 0x06, 0x040 => reg0 [fRO 0 23]
  | 0x06, o => if inWords o 0x060 8 then reg0 [fWO 0 32]
               else if inWords o 0x100 32 then reg0 [fRO 0 32] else none
  | 0x07, 0x040 => reg0 [fRO 0 6]
  | 0x07, 0x044 => reg0 [fRO 0 16]
  | 0x07, 0x048 => reg0 [fRO 0 16, fC 31 1]
  | 0x07, 0x04C => reg0 [fRO 0 32]
  | 0x03, o => if inWords o 0x040 4 then reg0 [fRO 0 16] else if inWords o 0x800 512 then reg0 [fWO 0 32] else none
  | _, _ => none

/-- What an unlisted device register holds. -/
def devBlank (key : Nat) : Word :=
  match devReg (key / 0x1000) (key % 0x1000) with
  | some r => r.reset
  | none => 0

end Sys2Proof.Machine
end

