-- ==== Sys2Proof/Machine/Ops.lean ====
section
/-!
DEFINITION. The named operations every block shares: registers, PG_FAULT, the event router and MSI-X, device events,
memory under ownership, region, ECC and carry-tag rules, and how a block's view is put back into the machine.
-/

namespace Sys2Proof.Machine

/-- The outcome type of a command. -/
abbrev Out := Host.Outcome State Fault Refusal

/-! ## Registers -/

/-- The value of a register: what is listed, or its Reset value. -/
def Channel.reg (k : Channel) (page off : Nat) : Word :=
  (SMap.get? k.regs (regKey page off)).getD (chanBlank (regKey page off))

def Channel.setReg (k : Channel) (page off : Nat) (v : Word) : Channel :=
  { k with regs := SMap.put (chanBlank (regKey page off)) k.regs (regKey page off) v }

/-- The shadow set's value of a register (02 R51). -/
def Channel.shad (k : Channel) (page off : Nat) : Word :=
  (SMap.get? k.shadow (regKey page off)).getD (chanBlank (regKey page off))

def Channel.setShad (k : Channel) (page off : Nat) (v : Word) : Channel :=
  { k with shadow := SMap.put (chanBlank (regKey page off)) k.shadow (regKey page off) v }

def Node.reg (n : Node) (page off : Nat) : Word := n.k.reg page off

/-- Whether an I/O bank has its supply: an input of a bank that has none reads 0 (18 R486, R487). -/
def Node.bankUp (n : Node) (b : Nat) : Bool := !n.down.contains b

/-- The channel's FIELD bank, 4c + 2, has its supply (18 R485). -/
def Node.fieldUp (n : Node) : Bool := n.bankUp (4 * n.c.num + 2)

/-- Samples of an RXD of the FIELD bank as a receiver reads them: without supply it reads 0 (18 R486). -/
def Node.rxd (n : Node) (bs : List Bool) : List Bool := if n.fieldUp then bs else bs.map fun _ => false

def Node.onK (n : Node) (g : Channel → Channel) : Node := { n with k := g n.k }

def Node.setReg (n : Node) (page off : Nat) (v : Word) : Node := n.onK fun k => k.setReg page off v

/-- A field of a register set to a number. -/
def Node.setField (n : Node) (page off lo len v : Nat) : Node :=
  n.setReg page off ((n.reg page off).setField lo len v)

/-- A counter that wraps (00 R21 counters). -/
def Node.count (n : Node) (page off : Nat) : Node := n.setReg page off (n.reg page off + 1)

/-- A counter raised by an amount, wrapping. -/
def Node.countBy (n : Node) (page off a : Nat) : Node := n.setReg page off (n.reg page off + BitVec.ofNat 32 a)

/-- A counter of `len` bits at `lo` that stops at its highest value. -/
def Node.countSat (n : Node) (page off lo len : Nat) : Node :=
  let v := (n.reg page off).field lo len
  if v + 1 < 2 ^ len then n.setField page off lo len (v + 1) else n

/-- PG_CTRL.ENABLE of a page. -/
def Channel.enabled (k : Channel) (page : Nat) : Bool := (k.reg page 0x008).bit 1

/-- PG_STAT.BUSY: a block reset is in progress (03 R73). -/
def Channel.busy (k : Channel) (page : Nat) : Bool := (k.reg page 0x004).bit 1

/-! ## Events (03 R78–R84) -/

/-- The page and PG_EVENTS bit of channel event k (03 R78). -/
def evtHome : Nat → Nat × Nat
  | 0 => (0x01, 0) | 1 => (0x01, 1) | 2 => (0x01, 2) | 3 => (0x01, 3)
  | 4 => (0x70, 0) | 5 => (0x70, 1) | 6 => (0x70, 2)
  | 7 => (0x00, 0) | 8 => (0x00, 1) | 9 => (0x02, 0)
  | 10 => (0x03, 0) | 11 => (0x03, 1) | 12 => (0x03, 2) | 13 => (0x04, 0) | 14 => (0xF0, 0)
  | 15 => (0x05, 0) | 16 => (0x05, 1) | 17 => (0x05, 2) | 18 => (0x05, 3) | 19 => (0x06, 0) | 20 => (0x10, 0)
  | 21 => (0x20, 0) | 22 => (0x20, 1) | 23 => (0x21, 0) | 24 => (0x21, 1) | 25 => (0x22, 0) | 26 => (0x22, 1)
  | 27 => (0x28, 0) | 28 => (0x28, 1) | 29 => (0x28, 2) | 30 => (0x28, 3) | 31 => (0x30, 0) | 32 => (0x31, 0)
  | 33 => (0x40, 0) | 34 => (0x40, 1) | 35 => (0x40, 2) | 36 => (0x41, 0) | 37 => (0x41, 1) | 38 => (0x41, 2)
  | 39 => (0x48, 0) | 40 => (0x48, 1) | 41 => (0x49, 0) | 42 => (0x49, 1)
  | 43 => (0x50, 0) | 44 => (0x50, 1) | 45 => (0x50, 2) | 46 => (0x60, 0) | _ => (0x60, 1)

def evWHISTLE : Nat := 0
def evLEDGER_OVERRUN : Nat := 1
def evWHISTLE_SLIP : Nat := 2
def evSCORE_FAIL : Nat := 3
def evTIME_LOCK : Nat := 4
def evTIME_UNLOCK : Nat := 5
def evTIME_PPS : Nat := 6
def evCH_GRANT_DENY : Nat := 7
def evDEV_FWD : Nat := 8
def evPAGE_FAULT : Nat := 9
def evMEM_ECC_CE : Nat := 10
def evMEM_FAULT : Nat := 11
def evMEM_HANDOVER : Nat := 12
def evREGION_DENY : Nat := 13
def evCARRY_FAIL : Nat := 14
def evMBOX_IN : Nat := 15
def evMBOX_OUT_FREE : Nat := 16
def evDOORBELL : Nat := 17
def evTOKEN_FREE : Nat := 18
def evDIE_DONE : Nat := 19
def evPAWN : Nat := 20
def evEthLink (p : Port) : Nat := 21 + 2 * p.num
def evEthTs (p : Port) : Nat := 22 + 2 * p.num
def evCOPY_MISMATCH : Nat := 25
def evPRP_LAN : Nat := 26
def evCLS_EXCEPTION : Nat := 27
def evCLS_WALK_FAULT : Nat := 28
def evCLS_COMMIT : Nat := 29
def evADMIT_DROP : Nat := 30
def evGATE_ERR : Nat := 31
def evPOLICE_RED : Nat := 32
def evCanRx (u : Unit2) : Nat := 33 + 3 * u.num
def evCanTx (u : Unit2) : Nat := 34 + 3 * u.num
def evCanErr (u : Unit2) : Nat := 35 + 3 * u.num
def evTpb (u : Unit2) : Nat := 39 + 2 * u.num
def evTpbErr (u : Unit2) : Nat := 40 + 2 * u.num
def evSLB_CYCLE : Nat := 43
def evSLB_BUF : Nat := 44
def evSLB_SYNC : Nat := 45
def evDMA_DONE : Nat := 46
def evDMA_ERR : Nat := 47

/-! ### MSI-X (05 R143) -/

/-- The PCIe function number (05 R135). -/
def fnNum : HostFn → Nat
  | .pf c => c.num
  | .vf c v => 8 + 8 * c.num + v.val
  | .pf4 => 4

/-- Function f of channel c: 0 the PF, v the virtual function VFv (05 R144). -/
def chFn (c : Ch) (f : Nat) : HostFn :=
  if f = 0 then .pf c else .vf c ⟨(f - 1) % 7, by omega⟩

/-- The channel of a function, none for PF4. -/
def fnChan : HostFn → Option Ch
  | .pf c => some c
  | .vf c _ => some c
  | .pf4 => none

/-- The function a transaction belongs to. -/
def Upstream.fn : Upstream → HostFn
  | .msix f _ _ _ => f
  | .write f _ _ _ => f
  | .readReq f _ _ => f
  | .cpl x => x.f

def nextCh : Ch → Ch
  | .ch0 => .ch1 | .ch1 => .ch2 | .ch2 => .ch3 | .ch3 => .ch0

/-- The channels in the arbiter's order, from the one whose turn it is (01 R35). -/
def rrOrder (c : Ch) : List Ch := [c, nextCh c, nextCh (nextCh c), nextCh (nextCh (nextCh c))]

/-- A transaction passes the arbiter into the link transmit queue; the turn goes to the channel after its own (01 R35). -/
def HostPort.send (h : HostPort) (u : Upstream) : HostPort :=
  { h with upstream := h.upstream ++ [u], turn := match fnChan u.fn with | some c => nextCh c | none => h.turn }

/-- A word of the MSI-X table; vector control starts masked, as PCI Express resets it. -/
def msixBlank (key : Nat) : Word := if key % 4 = 3 then 1 else 0

def HostPort.msixWord (h : HostPort) (f : HostFn) (vec w : Nat) : Word :=
  let key := fnNum f * 256 + vec * 4 + w
  (SMap.get? h.msix key).getD (msixBlank key)

def HostPort.fn (h : HostPort) (f : HostFn) : FnCfg := (SMap.get? h.fns (fnNum f)).getD FnCfg.reset

def HostPort.setFn (h : HostPort) (f : HostFn) (x : FnCfg) : HostPort :=
  { h with fns := SMap.put FnCfg.reset h.fns (fnNum f) x }

/-- Whether a function's vector may send a message now. -/
def HostPort.vecOpen (h : HostPort) (f : HostFn) (vec : Nat) : Bool :=
  let x := h.fn f
  x.msixEn && !x.msixMask && x.bme && !x.d3hot && !(h.msixWord f vec 3).bit 0

/-- A message on a vector: sent, or its pending bit set while the vector is masked (03 R82). -/
def HostPort.msi (h : HostPort) (f : HostFn) (vec : Nat) : HostPort :=
  if h.elofSel then h
  else if h.vecOpen f vec then
    h.send (.msix f vec ((h.msixWord f vec 1).toNat * 2 ^ 32 + (h.msixWord f vec 0).toNat) (h.msixWord f vec 2))
  else
    let key := fnNum f * 256 + vec
    if h.msixPend.contains key then h else { h with msixPend := h.msixPend ++ [key] }

/-- The pending messages of open vectors go out. -/
def HostPort.flush (h : HostPort) (f : HostFn) : HostPort :=
  (List.range 36).foldl (fun h vec =>
    let key := fnNum f * 256 + vec
    if h.msixPend.contains key && h.vecOpen f vec then
      ({ h with msixPend := h.msixPend.filter (· ≠ key) } : HostPort).msi f vec
    else h) h

def Node.msi (n : Node) (f : HostFn) (vec : Nat) : Node := { n with host := n.host.msi f vec }

/-- A transaction of the channel goes upstream (05 R151). -/
def Node.upstream (n : Node) (u : Upstream) : Node := { n with host := n.host.send u }

/-- A device event raised by this channel (03 R79), by bit number. -/
def Node.devEvent (n : Node) (e : Nat) : Node := { n with evs := n.evs ++ [e] }

/-- The offset and bit of event k in a pair of pending registers. -/
def pendOff (base k : Nat) : Nat := if k < 32 then base else base + 4

/-- A bit of a register set. -/
def Node.setBit (n : Node) (page off b : Nat) : Node := n.setReg page off ((n.reg page off).setBit b true)

/-- EVT_ROUTEk (03 R96). -/
def Node.route (n : Node) (k : Nat) : Word := n.reg pgEVT (0x100 + 4 * k)

/-- An unmasked event sets its EVT_ROOKPEND bit where its route says so (03 R81). -/
def Node.rookPend (n : Node) (k : Nat) : Node :=
  if (n.route k).bit 0 then n.setBit pgEVT (pendOff 0x040 k) (k % 32) else n

/-- An unmasked event sets its EVT_HOSTPEND bit where its route says so, and a bit that was 0 sends the route's message
(03 R82). -/
def Node.hostPend (n : Node) (k : Nat) : Node :=
  if !(n.route k).bit 1 then n
  else if (n.reg pgEVT (pendOff 0x048 k)).bit (k % 32) then n
  else (n.setBit pgEVT (pendOff 0x048 k) (k % 32)).msi (chFn n.c ((n.route k).field 2 4 - 1)) ((n.route k).field 6 4)

/-- What an event whose PG_EVENTS bit is set does next: nothing while PG_EVMASK masks it (03 R80). -/
def Node.notify (n : Node) (page bit k : Nat) : Node :=
  if (n.reg page 0x018).bit bit then (n.rookPend k).hostPend k else n

/-- An occurrence of channel event k (03 R80, R82). -/
def Node.raise (n : Node) (k : Nat) : Node :=
  (n.setBit (evtHome k).1 0x014 (evtHome k).2).notify (evtHome k).1 (evtHome k).2 k

def Node.raiseIf (n : Node) (b : Bool) (k : Nat) : Node := if b then n.raise k else n

/-! ## PG_FAULT (03 R92–R94) -/

def cRSVD : Nat := 0x01
def cWIDTH : Nat := 0x02
def cSENDER : Nat := 0x03
def cSTATE : Nat := 0x04
def cBUSY : Nat := 0x05
def cGRANT : Nat := 0x06
def cUNMAPPED : Nat := 0x07

/-- A fault of a page: latched as the first, or counted (03 R92); `info` is the block's information register and its
value, written with the first fault. -/
def Node.faultInfo (n : Node) (page code snd : Nat) (addr : Word) (info : Option (Nat × Word)) : Node :=
  let r := n.reg page 0x00C
  if r.bit 31 then n.countSat page 0x00C 8 8
  else
    let n := n.setReg page 0x00C (BitVec.ofNat 32 (code + 0x100 + snd * 0x10000 + 0x80000000))
    let n := n.setReg page 0x010 addr
    let n := match info with
      | some (off, v) => n.setReg page off v
      | none => n
    n.raise evPAGE_FAULT

def Node.fault (n : Node) (page code snd : Nat) (addr : Word) : Node := n.faultInfo page code snd addr none

/-- A fault of a register access: the address is the register's (03 R94). -/
def Node.regFault (n : Node) (snd : Sender) (page off code : Nat) : Node :=
  n.fault page code snd.id (regAddr page off)

/-! ## Memory (06 R165–R173, R190, R191; 10 R278–R281) -/

def SRAM0 : Nat := 0x01000000

/-- An unlisted byte of memory reads 0: a channel's memories are scrubbed to zero (04 R105, log entry 7). -/
def Mem.blank (_ : Nat) : Byte := 0

def Mem.get (m : Mem) (a : Nat) : Byte := (SMap.get? m a).getD 0

def Mem.put (m : Mem) (a : Nat) (b : Byte) : Mem := SMap.put 0 m a b

/-- The canonical form of memory: addresses strictly rising, no zero listed. -/
def Memory.wf (m : Mem) : Bool := SMap.wf Mem.blank m

/-- `n` bytes from an address up. -/
def Mem.read (m : Mem) : Nat → Nat → List Byte
  | _, 0 => []
  | a, n + 1 => m.get a :: Mem.read m (a + 1) n

/-- Bytes written from an address up; a `none` leaves its byte. -/
def Mem.write (m : Mem) : Nat → List (Option Byte) → Mem
  | _, [] => m
  | a, none :: bs => Mem.write m (a + 1) bs
  | a, some b :: bs => Mem.write (m.put a b) (a + 1) bs

def bankOf (a : Nat) : Nat := (a - SRAM0) / 0x40000

/-- MEMOWN_BANKn as stored: MODE, BUSY, HELD, OWNER (06 R194). -/
def Channel.bank (k : Channel) (b : Nat) : Word := k.reg pgMEMOWN (0x040 + 4 * b)

/-- A region of a master covers the blocks of `lo` to `hi` and carries the right (06 R171). -/
def Channel.regionGrants (k : Channel) (m lo hi : Nat) (wr : Bool) : Bool :=
  m < 18 && (List.range 16).any fun r =>
    let b := k.reg pgREGION (0x100 + 0x80 * m + 8 * r)
    let l := k.reg pgREGION (0x104 + 0x80 * m + 8 * r)
    b.bit 0 && (if wr then b.bit 2 else b.bit 1) && b.field 6 26 ≤ lo / 64 && hi / 64 ≤ l.field 6 26

/-- How a bank answers an access of master m to the bytes `lo` to `hi` in it (06 R166, R167, R170, R171). -/
def Channel.bankGrant (k : Channel) (m b lo hi : Nat) (wr : Bool) : Grant :=
  let w := k.bank b
  let owner := w.field 8 5
  if w.bit 2 then .refused
  else match k.handovers.find? (fun h => h.bank = b) with
    | some h =>
      if h.shared then (if m = owner then .refused else .held)
      else if m = h.newOwner then .held else .refused
    | none =>
      if w.bit 0 then (if k.regionGrants m lo hi wr then .ok else .refused)
      else if m = owner then .ok else .refused

/-- The same with an access that a handover holds judged as at its end: under the regions in force where the bank becomes
shared, granted where it becomes the master's own (06 R170). -/
def Channel.bankSettled (k : Channel) (m b lo hi : Nat) (wr : Bool) : Grant :=
  match k.bankGrant m b lo hi wr with
  | .ok => .ok
  | .refused => .refused
  | .held => if (k.handovers.any fun h => h.bank = b && h.shared) && !k.regionGrants m lo hi wr then .refused else .ok

/-- The answer to an access of `len` bytes of SRAM at `a`, of the answers `g` of the banks it touches. -/
def joinGrants (a len : Nat) (g : Nat → Nat → Nat → Grant) : Grant :=
  if !inSram a len then .refused
  else
    let last := a + len - 1
    let gs := (List.range 16).filterMap fun b =>
      let lo := max a (SRAM0 + b * 0x40000)
      let hi := min last (SRAM0 + b * 0x40000 + 0x3FFFF)
      if lo ≤ hi then some (g b lo hi) else none
    if gs.contains .refused then .refused else if gs.contains .held then .held else .ok

/-- How the channel answers an access of master m to `len` bytes of SRAM at `a`. -/
def Channel.grant (k : Channel) (m a len : Nat) (wr : Bool) : Grant :=
  joinGrants a len fun b lo hi => k.bankGrant m b lo hi wr

/-- How it answers an access that no handover delays any more. -/
def Channel.settled (k : Channel) (m a len : Nat) (wr : Bool) : Grant :=
  joinGrants a len fun b lo hi => k.bankSettled m b lo hi wr

/-- A refused access (06 R190). -/
def Node.deny (n : Node) (m snd a : Nat) (wr : Bool) : Node :=
  (n.faultInfo pgREGION 0x10 snd (BitVec.ofNat 32 a)
    (some (0x040, BitVec.ofNat 32 (m + (if wr then 0x100 else 0))))).raise evREGION_DENY

/-- An uncorrectable ECC error (06 R191). -/
def Node.eccUe (n : Node) (snd a : Nat) : Node :=
  (n.fault pgMEMOWN 0x10 snd (BitVec.ofNat 32 a)).raise evMEM_FAULT

/-- A corrected ECC error (06 R191). -/
def Node.eccCe (n : Node) : Node := (n.countSat pgMEMOWN 0x080 0 16).raise evMEM_ECC_CE

def Node.onEcc (n : Node) (g : Ecc → Ecc) : Node := n.onK fun k => { k with ecc := g k.ecc }

/-- Entries of an error list inside the quad-words of `len` bytes at `a`. -/
def eccIn (l : List (MemKind × Nat)) (kind : MemKind) (a len : Nat) : List (MemKind × Nat) :=
  l.filter fun e => e.1 = kind && a / 16 * 16 ≤ e.2 && e.2 < a + len

/-- The correctable errors of a range are corrected and wait for their write-back. -/
def Node.correct (n : Node) (kind : MemKind) (a len : Nat) : Node :=
  (eccIn n.k.ecc.ce kind a len).foldl (fun n e =>
    (n.onEcc fun x => { x with ce := x.ce.filter (· ≠ e), wb := x.wb ++ [e] }).eccCe) n

/-- The 64-byte blocks of `len` bytes at an SRAM address, by number. -/
def blocksOf (a len : Nat) : List Nat :=
  if len = 0 then []
  else (List.range ((a + len - 1) / 64 - a / 64 + 1)).map fun i => a / 64 + i - SRAM0 / 64

/-- A read of SRAM that ownership does not gate: ECC acts (06 R191). -/
def Node.sramFetch (n : Node) (snd a len : Nat) : Node × MemRes :=
  match eccIn n.k.ecc.ue .sram a len with
  | e :: _ => (n.eccUe snd (max a e.2), .ecc)
  | [] =>
    let n := n.correct .sram a len
    (n, .ok (n.k.sram.read a len))

/-- A read of SRAM by master m. An access a handover would hold is judged and performed as at its end (log entry 12). -/
def Node.sramRead (n : Node) (m snd a len : Nat) : Node × MemRes :=
  if n.k.settled m a len false = .refused then (n.deny m snd a false, .denied) else n.sramFetch snd a len

/-- Whether all of `len` bytes at `a` are written by data that starts at `base`. -/
def covers (base : Nat) (data : List (Option Byte)) (a len : Nat) : Bool :=
  base ≤ a && a + len ≤ base + data.length && ((data.drop (a - base)).take len).all Option.isSome

/-- The quad-words that data touches. -/
def quadsOf (a len : Nat) : List Nat :=
  if len = 0 then [] else (List.range ((a + len - 1) / 16 - a / 16 + 1)).map fun i => (a / 16 + i) * 16

/-- A write of SRAM that ownership does not gate. `entry` marks an entry master, whose whole-block writes create
the tag (10 R278); every other write keeps a block's disagreement (10 R279). -/
def Node.sramStore (n : Node) (snd a : Nat) (data : List (Option Byte)) (entry : Bool) : Node × MemRes :=
  let len := data.length
  let whole := fun b => entry && covers a data (SRAM0 + b * 64) 64
  match (eccIn n.k.ecc.ue .sram a len).find? (fun e => !covers a data e.2 16) with
  | some e => (n.eccUe snd (max a e.2), .ecc)
  | none =>
    match (blocksOf a len).find? (fun b => n.k.ecc.ueTag.contains b && !whole b) with
    | some b => (n.eccUe snd (max a (SRAM0 + b * 64)), .ecc)
    | none =>
      let full := (quadsOf a len).filter fun q => covers a data q 16
      let n := n.onEcc fun x =>
        { x with ue := x.ue.filter (fun e => !(e.1 = .sram && full.contains e.2)),
                 ce := x.ce.filter (fun e => !(e.1 = .sram && full.contains e.2)) }
      let n := n.correct .sram a len
      let newTag := (blocksOf a len).filter whole
      let ceTags := (blocksOf a len).filter fun b => n.k.ecc.ceTag.contains b
      let n := (ceTags.filter fun b => !newTag.contains b).foldl (fun n _ => n.eccCe) n
      let n := n.onEcc fun x =>
        { x with ueTag := x.ueTag.filter (fun b => !newTag.contains b), ceTag := x.ceTag.filter (fun b => !ceTags.contains b) }
      let n := n.onK fun k =>
        { k with sram := k.sram.write a data, tagDiff := newTag.foldl (fun t b => SMap.put 0 t b 0) k.tagDiff }
      (n, .ok [])

/-- A write of SRAM by master m. -/
def Node.sramWrite (n : Node) (m snd a : Nat) (data : List (Option Byte)) (entry : Bool) : Node × MemRes :=
  if n.k.settled m a data.length true = .refused then (n.deny m snd a true, .denied) else n.sramStore snd a data entry

/-- The sender ID a master's access carries: a host function's own, 0 for the channel's blocks (03 R94, 06 R165). -/
def senderOf (m : Nat) : Nat := if 1 ≤ m && m ≤ 8 then m else 0

/-- A write of bytes by a master. -/
def Node.put (n : Node) (m a : Nat) (bs : List Byte) (entry : Bool := false) : Node × MemRes :=
  n.sramWrite m (senderOf m) a (bs.map some) entry

/-- A read by a master. -/
def Node.get (n : Node) (m a len : Nat) : Node × MemRes := n.sramRead m (senderOf m) a len

/-! ### Carry check at exit (10 R280, R281, R288) -/

/-- A mismatch: counted, recorded with an address, raised. `site`: 1 MAC transmit, 2 CAN transmit, 3 DMA read, 4 probe. -/
def Node.carryMissAt (n : Node) (m site : Nat) (addr : Word) (snd : Nat) : Node :=
  let n := n.countSat pgCARRY 0x044 0 32
  (n.faultInfo pgCARRY 0x10 snd addr (some (0x040, BitVec.ofNat 32 (m + site * 256)))).raise evCARRY_FAIL

/-- A mismatch of an SRAM block (10 R288). -/
def Node.carryMiss (n : Node) (m site blk snd : Nat) : Node :=
  n.carryMissAt m site (BitVec.ofNat 32 (SRAM0 + blk * 64)) snd

/-- How an exit verification ended. -/
def Node.exitBlocks (n : Node) (m site : Nat) (blks : List Nat) : Node × Bool × Bool :=
  blks.foldl (fun (acc : Node × Bool × Bool) b =>
    let (n, miss, ecc) := acc
    if !(eccIn n.k.ecc.ue .sram (SRAM0 + b * 64) 64).isEmpty || n.k.ecc.ueTag.contains b then
      (n.eccUe (senderOf m) (SRAM0 + b * 64), miss, true)
    else
      let n := n.correct .sram (SRAM0 + b * 64) 64
      let n := if n.k.ecc.ceTag.contains b then
          (n.onEcc fun x => { x with ceTag := x.ceTag.filter (· ≠ b) }).eccCe
        else n
      if (SMap.get? n.k.tagDiff b).getD 0 ≠ 0 then (n.carryMiss m site b (senderOf m), true, ecc) else (n, miss, ecc))
    (n, false, false)

/-- An exit master takes bytes: every block it touches is verified. The bytes are there whatever the verification
says; the flags are a mismatch and an uncorrectable error. -/
def Node.exitRead (n : Node) (m site a len : Nat) : Node × MemRes × Bool :=
  if n.k.settled m a len false = .refused then (n.deny m (senderOf m) a false, .denied, false)
  else
    let (n, miss, ecc) := n.exitBlocks m site (blocksOf a len)
    if ecc then (n, .ecc, miss) else (n, .ok (n.k.sram.read a len), miss)

/-! ### IRAM and DTCM (06 R191, 07 R199, R221) -/

def Channel.coreMem (k : Channel) : MemKind → Mem
  | .iram => k.iram | .dtcm => k.dtcm | .sram => k.sram

def Node.coreRead (n : Node) (kind : MemKind) (snd a len : Nat) : Node × MemRes :=
  match eccIn n.k.ecc.ue kind a len with
  | e :: _ => (n.eccUe snd (max a e.2), .ecc)
  | [] =>
    let n := n.correct kind a len
    (n, .ok ((n.k.coreMem kind).read a len))

def Channel.setCore (k : Channel) (kind : MemKind) (m : Mem) : Channel :=
  match kind with
  | .iram => { k with iram := m }
  | .dtcm => { k with dtcm := m }
  | .sram => { k with sram := m }

def Node.coreWrite (n : Node) (kind : MemKind) (snd a : Nat) (data : List (Option Byte)) : Node × MemRes :=
  match (eccIn n.k.ecc.ue kind a data.length).find? (fun e => !covers a data e.2 16) with
  | some e => (n.eccUe snd (max a e.2), .ecc)
  | none =>
    let full := (quadsOf a data.length).filter fun q => covers a data q 16
    let n := n.onEcc fun x =>
      { x with ue := x.ue.filter (fun e => !(e.1 = kind && full.contains e.2)),
               ce := x.ce.filter (fun e => !(e.1 = kind && full.contains e.2)) }
    let n := n.correct kind a data.length
    (n.onK fun k => k.setCore kind ((k.coreMem kind).write a data), .ok [])

/-! ## Status codes (17 R471) -/

def stOK : Byte := 0x00
def stTIMEOUT : Byte := 0x01
def stLATE : Byte := 0x02
def stCH_RESET : Byte := 0x03
def stBAD_DESC : Byte := 0x04
def stCARRY_FAIL : Byte := 0x05
def stECC_FAIL : Byte := 0x06
def stDOWN : Byte := 0x07
def stABORTED : Byte := 0x08
def stPOLICED : Byte := 0x09
def stBUS_OFF : Byte := 0x0B
def stNAK : Byte := 0x0C
def stWALK_FAULT : Byte := 0x0D

/-- Masters of channel SRAM (06 R165). -/
def mROOK : Nat := 0
def mPF : Nat := 1
def mETH : Nat := 9
def mCLS : Nat := 10
def mCan (u : Unit2) : Nat := 11 + u.num
def mTpb (u : Unit2) : Nat := 13 + u.num
def mSLB : Nat := 15
def mPAWN : Nat := 16
def mWHISTLE : Nat := 17

/-- A little-endian word of memory bytes. -/
def wordAt (bs : List Byte) (i : Nat) : Word := BitVec.ofNat 32 (ofBytesLE (slice bs i 4))

/-! ## Time (02 R43, R53) -/

/-- TIME_NOW: the integer nanoseconds of the time base. -/
def Channel.now (k : Channel) : DWord := BitVec.ofNat 64 (k.tb.acc.toNat / 2 ^ 24)

/-- The whistle count at which a deadline of d whistles fires: the d-th whistle after the next (05 R149, log
entry 20); none where d is 0. -/
def Channel.fireAt (k : Channel) (d : Nat) : Option Nat :=
  if d = 0 then none else some (k.wh.count.toNat + 1 + d)

/-- Whether a deadline is due: its whistle has come, and whistles fire (R149). -/
def Channel.due (k : Channel) (fire : Option Nat) : Bool :=
  match fire with
  | some w => (k.reg pgWHISTLE 0x040).bit 0 && w ≤ k.wh.count.toNat
  | none => false

/-- A channel has its clock: powered, locked and not in CLKLOST (04 R98, R125). -/
def Channel.clocked (k : Channel) : Bool := k.pwr = .on && k.boot ≠ .clklost && k.boot ≠ .off

/-- A channel in RUN (04 R113). -/
def Channel.running (k : Channel) : Bool := k.boot = .run

/-- A block that works: its channel runs, ENABLE is 1 and no block reset is in progress (03 R73, R74). -/
def Channel.live (k : Channel) (page : Nat) : Bool := k.running && k.enabled page && !k.busy page

/-! ## The device domain -/

/-- The value of a device register. -/
def Device.reg (d : Device) (page off : Nat) : Word :=
  (SMap.get? d.dregs (regKey page off)).getD (devBlank (regKey page off))

def Device.setReg (d : Device) (page off : Nat) (v : Word) : Device :=
  { d with dregs := SMap.put (devBlank (regKey page off)) d.dregs (regKey page off) v }

def State.dreg (s : State) (page off : Nat) : Word := s.dev.reg page off

/-- VDDIO of bank k holds and its drivers are released: MON_BANKOK (18 R487, R509). -/
def State.bankUp (s : State) (k : Nat) : Bool := (s.dreg dvMON 0x060).bit k

def State.setDreg (s : State) (page off : Nat) (v : Word) : State := { s with dev := s.dev.setReg page off v }

def State.setDfield (s : State) (page off lo len v : Nat) : State :=
  s.setDreg page off ((s.dreg page off).setField lo len v)

/-- The state with its host port replaced. -/
def State.setHost (s : State) (h : HostPort) : State := { s with dev := { s.dev with host := h } }

/-- The state with its host port changed. -/
def State.onHost (s : State) (g : HostPort → HostPort) : State := s.setHost (g s.dev.host)

/-- The state with its device domain changed. -/
def State.onDev (s : State) (g : Device → Device) : State := { s with dev := g s.dev }

/-- A channel that answers: powered and not in reset (04 R132, 05 R147). -/
def Channel.up (k : Channel) : Bool := k.pwr = .on && k.boot ≠ .off && k.boot ≠ .reset

/-! ## Back into the machine -/

/-- The state with a channel's view put back; the device events it raised are not routed yet. -/
def State.put (s : State) (c : Ch) (n : Node) : State := { (s.setCh c n.k).setHost n.host with freeCtr := n.ctr }

/-- A value the specification leaves open, for a channel's block (log entry 4). -/
def Node.free (n : Node) : DWord × Node := (Config.freeValue n.ctr, { n with ctr := n.ctr + 1 })

/-- A device event forwarded to a channel: CHCTL_DEVFWD and EVT_DEV_FWD, unless it is down or in reset (03 R84). -/
def Node.devFwd (n : Node) (e : Nat) : Node :=
  if !n.k.up then n
  else
    let off := if e < 32 then 0x048 else 0x04C
    (n.setReg pgCHCTL off ((n.reg pgCHCTL off).setBit (e % 32) true)).raise evDEV_FWD

/-- The DEVEVT_PEND register of device event e. -/
def devPendOff (e : Nat) : Nat := if e < 32 then 0x040 else 0x044

/-- PG_EVENTS of the DEVEVT page records the device events that its 32 bits name, 192 to 223 (03 R71, R79, R94). -/
def State.devRecord (s : State) (e : Nat) : State :=
  if e < 32 then s.setDreg dvDEVEVT 0x014 ((s.dreg dvDEVEVT 0x014).setBit e true) else s

/-- DEVEVT_PEND of device event e set (03 R84: whatever PG_EVMASK of the page holds, log entry 53). -/
def State.devLatch (s : State) (e : Nat) : State :=
  (s.devRecord e).setDreg dvDEVEVT (devPendOff e) ((s.dreg dvDEVEVT (devPendOff e)).setBit (e % 32) true)

/-- The route of device event e (03 R96). -/
def State.devRoute (s : State) (e : Nat) : Word := s.dreg dvDEVEVT (0x100 + 4 * e)

/-- The message of a device event whose pending bit was 0 (03 R84). -/
def State.devMsi (s : State) (e : Nat) : State :=
  if (s.devRoute e).bit 0 then s.onHost fun h => h.msi .pf4 ((s.devRoute e).field 1 5) else s

/-- A device event forwarded to a channel its route names. -/
def State.devForward (s : State) (e : Nat) (c : Ch) : State :=
  if (s.devRoute e).bit (6 + c.num) then s.put c ((s.node c).devFwd e) else s

/-- A device event, by bit number n − 192 (03 R84). The messages of the channels it is forwarded to reach the link in the
arbiter's order (01 R35). -/
def State.raiseDev (s : State) (e : Nat) : State :=
  (rrOrder s.dev.host.turn).foldl (fun s c => s.devForward e c)
    (if (s.dreg dvDEVEVT (devPendOff e)).bit (e % 32) then s.devLatch e else (s.devLatch e).devMsi e)

/-- An operation on one channel, put back, with the device events it raised routed. -/
def State.within (s : State) (c : Ch) (f : Node → Node) : State :=
  let n := f (s.node c)
  n.evs.foldl State.raiseDev (s.put c n)

/-! Device events (03 R79). -/

def dvCh (c : Ch) (j : Nat) : Nat := 6 * c.num + j
def dvBOOTED : Nat := 0
def dvBOOTFAIL : Nat := 1
def dvRESET_DONE : Nat := 2
def dvPWR_FAULT : Nat := 3
def dvREFCLK_LOSS : Nat := 4
def dvMBOX_MGMT : Nat := 5
def dvTHERM_WARN : Nat := 24
def dvTHERM_CRIT : Nat := 25
def dvVMON_CORE : Nat := 26
def dvVMON_SERDES : Nat := 27
def dvVMON_IO : Nat := 28
def dvVMON_OTP : Nat := 29
def dvOTP_ERR : Nat := 30
def dvLINK_UP : Nat := 31
def dvLINK_DOWN : Nat := 32
def dvFLR : Nat := 33
def dvELOF_ERR : Nat := 34
def dvJTAG_ATTACH : Nat := 35
def dvDBG_DENY : Nat := 36
def dvMGMT_DONE : Nat := 37
def dvMGMT_ERR : Nat := 38
def dvSUPV_TIMER : Nat := 39

/-- A fault of a device page; no device event goes with it (03 R92, R93). -/
def State.devFault (s : State) (page code snd : Nat) (addr : Word) : State :=
  let r := s.dreg page 0x00C
  if r.bit 31 then
    (if r.field 8 8 < 255 then s.setDfield page 0x00C 8 8 (r.field 8 8 + 1) else s)
  else
    (s.setDreg page 0x00C (BitVec.ofNat 32 (code + 0x100 + snd * 0x10000 + 0x80000000))).setDreg page 0x010 addr

/-- The address of a device register as a fault shows it: its offset in PF4's BAR0 (03, Model). -/
def devAddr (page off : Nat) : Word := BitVec.ofNat 32 (page * 0x1000 + off)

/-- A value the specification leaves open (log entry 4). -/
def State.free (s : State) : DWord × State := (Config.freeValue s.freeCtr, { s with freeCtr := s.freeCtr + 1 })

end Sys2Proof.Machine
end

