-- ==== Sys2Proof/Machine/Page.lean ====
section
/-!
DEFINITION. The register page protocol: how a written word acts field by field (00 R18–R21, 03 R72), how a register
reads, which accesses a page turns away (03 R69, R73, R85, 05 R139, R141, R162), and how the host gets its answers.
-/

namespace Sys2Proof.Machine

/-! ## Writing a register field by field -/

/-- A write in progress: the active word, the shadow word, whether a field was rejected, whether a SH field was
accepted. -/
structure Wr where
  act  : Word
  sh   : Word
  rej  : Bool
  shOk : Bool

/-- What a written word does to one field (00 R19, R21). -/
def writeField (k : Channel) (w : Word) (x : Wr) (f : Field) : Wr :=
  let v := w.field f.lo f.len
  match f.acc with
  | .rw => if f.ok k w v then { x with act := x.act.setField f.lo f.len v } else { x with rej := true }
  | .sh => if f.ok k w v then { x with sh := x.sh.setField f.lo f.len v, shOk := true } else { x with rej := true }
  | .w1c => { x with act := x.act &&& ~~~(w &&& Word.mask f.lo f.len) }
  | .ro | .w1s | .wo => x

/-- PG_SHADOW.WRITTEN set (03 R72). -/
def Node.setWritten (n : Node) (page : Nat) : Node := n.setField page 0x01C 2 1 1

/-- The fields of a register of a channel page written; `home` is the page that carries PG_SHADOW and PG_FAULT, and
`addr` the address a fault shows. A register the manual does not define ignores the write (00 R20). A rejected field is
recorded after the others have acted: the event of a refused write of EVT_ROUTE9 takes the new route (DESIGN CHOICE, log
entry 53). -/
def Node.writeAt (n : Node) (snd : Sender) (page off home : Nat) (addr w : Word) : Node :=
  match chanReg page off with
  | none => n
  | some r =>
    let x := r.fields.foldl (writeField n.k w) ⟨n.k.reg page off, n.k.shad page off, false, false⟩
    let n := n.setReg page off x.act
    let n := if x.shOk then (n.onK fun k => k.setShad page off x.sh).setWritten home else n
    if x.rej then n.fault home cRSVD snd.id addr else n

/-- The fields of a register written (03 R72, R76). -/
def Node.writeFields (n : Node) (snd : Sender) (page off : Nat) (w : Word) : Node :=
  n.writeAt snd page off page (regAddr page off) w

/-- Whether a write would be rejected in some field (00 R19). -/
def Channel.rejects (k : Channel) (page off : Nat) (w : Word) : Bool :=
  match chanReg page off with
  | none => false
  | some r => (r.fields.foldl (writeField k w) ⟨0, 0, false, false⟩).rej

/-! ## Reading -/

/-- A register's stored fields as a read shows them: SH fields from the set that PG_CTRL.VIEW selects, WO fields 0
(00 R18, R21, 03 R72); `home` carries PG_CTRL. -/
def Channel.viewAt (k : Channel) (page off home : Nat) : Word :=
  match chanReg page off with
  | none => 0
  | some r =>
    let view := isShadowed home && (k.reg home 0x008).bit 0
    r.fields.foldl (fun v f => match f.acc with
      | .wo => v
      | .sh => v.setField f.lo f.len ((if view then k.shad page off else k.reg page off).field f.lo f.len)
      | .rw | .ro | .w1c | .w1s => v.setField f.lo f.len ((k.reg page off).field f.lo f.len)) 0

def Channel.view (k : Channel) (page off : Nat) : Word := k.viewAt page off page

/-- PG_ID (03 R94). -/
def pgId (page : Nat) (shadowed : Bool) : Word := BitVec.ofNat 32 (page + 0x100 + (if shadowed then 0x10000 else 0))

/-- PG_STAT (03 R94): a page without its own rule runs with ENABLE; MBOX runs whenever no block reset is in progress
(06 R182). `block` is the BLOCK field. -/
def Channel.pgStat (k : Channel) (page block : Nat) : Word :=
  let busy := k.busy page
  let en := if page = pgMBOX then !busy else k.enabled page
  BitVec.ofNat 32 (en.toNat + 2 * busy.toNat + 4 * ((k.reg page 0x00C).bit 31).toNat + 65536 * block)

/-- EVT_FAULTMAPi (03 R95). -/
def Channel.faultMap (k : Channel) (i : Nat) : Word :=
  BitVec.ofNat 32 (chanPages.foldl (fun a p => if p / 32 = i && (k.reg p 0x00C).bit 31 then a + 2 ^ (p % 32) else a) 0)

/-! ## The common header (03 R71–R74, R94) -/

/-- PG_FAULT written: PEND clears the whole record (03 R94). -/
def Node.faultWrite (n : Node) (page : Nat) (w : Word) : Node :=
  if w.bit 31 then (n.setReg page 0x00C 0).setReg page 0x010 0 else n

/-- PG_EVENTS and PG_EVMASK written. -/
def Node.eventsWrite (n : Node) (page : Nat) (w : Word) : Node := n.setReg page 0x014 (n.reg page 0x014 &&& ~~~w)

def Node.evmaskWrite (n : Node) (page : Nat) (w : Word) : Node := n.setReg page 0x018 w

/-- PG_SHADOW of a shadowed page written: ARM and AUTO (02 R66). -/
def Node.shadowCtlWrite (n : Node) (page : Nat) (w : Word) : Node :=
  if !isShadowed page then n
  else
    let n := n.setField page 0x01C 1 1 (w.field 1 1)
    if w.bit 0 then n.setField page 0x01C 0 1 1 else n

/-- VIEW and ENABLE of PG_CTRL written; VIEW only exists on a shadowed page (03 R72). -/
def Node.ctrlFields (n : Node) (page : Nat) (w : Word) : Node :=
  let n := if isShadowed page then n.setField page 0x008 0 1 (w.field 0 1) else n
  n.setField page 0x008 1 1 (w.field 1 1)

/-- The registers of a block back at their Reset values (03 R73, 04 R102): every listed register whose offset in its
page is 0x040 or more, and PG_CTRL, PG_SHADOW; `keep` names offsets that stay. -/
def pageOfKey (key : Nat) : Nat := if 0x100 ≤ key / 0x1000 then pgPOLICE else key / 0x1000

def Channel.clearPage (k : Channel) (page : Nat) (keep : Nat → Bool) : Channel :=
  let gone := fun (e : Nat × Word) =>
    pageOfKey e.1 = page && !keep (e.1 % 0x1000) &&
      (0x100 ≤ e.1 / 0x1000 || 0x040 ≤ e.1 % 0x1000 || e.1 % 0x1000 = 0x008 || e.1 % 0x1000 = 0x01C || e.1 % 0x1000 = 0x004)
  { k with regs := k.regs.filter (fun e => !gone e), shadow := k.shadow.filter (fun e => !gone e),
           snap := k.snap.filter (fun e => !gone e) }

/-! ## What a page turns away -/

/-- An access to a channel register by the Rook or the channel PF: BUSY during a block reset (03 R73); a VF does not
reach the register (05 R141), PF4 never writes a channel (05 R139). -/
def Node.access (n : Node) (snd : Sender) (page off : Nat) (f : Node → Node) : Node :=
  match snd with
  | .pf4 => n.fault pgCHCTL cSENDER snd.id (regAddr page off)
  | .vf _ => n.regFault snd page off cSENDER
  | .rook | .pf => if 0x040 ≤ off && n.k.busy page then n.regFault snd page off cBUSY else f n

/-- The function a sender of a channel is (05 R135). -/
def senderFn (snd : Sender) (c : Ch) : HostFn :=
  match snd with
  | .rook | .pf => .pf c
  | .vf v => .vf c v
  | .pf4 => .pf4

/-- The Elof chip select of a host function (05 R135). -/
def hcsOf : HostFn → Fin 5
  | .pf .ch0 => 0 | .pf .ch1 => 1 | .pf .ch2 => 2 | .pf .ch3 => 3 | .pf4 => 4
  | .vf .ch0 _ => 0 | .vf .ch1 _ => 1 | .vf .ch2 _ => 2 | .vf .ch3 _ => 3

/-- VFv exists while VF Enable is 1 and v ≤ NumVFs (05 R140). -/
def HostPort.vfExists (h : HostPort) (c : Ch) (v : Fin 7) : Bool :=
  (match c with
   | .ch0 => h.vfEnable[0] | .ch1 => h.vfEnable[1] | .ch2 => h.vfEnable[2] | .ch3 => h.vfEnable[3]) &&
  v.val < (match c with
   | .ch0 => h.numVfs[0] | .ch1 => h.numVfs[1] | .ch2 => h.numVfs[2] | .ch3 => h.numVfs[3])

/-- Whether a request of a host function arrives: through Elof, or over a trained link by a function that exists and
is not in D3hot (05 R134–R136, R140). -/
def State.arrives (s : State) (f : HostFn) : Bool :=
  s.dev.phase = .ready &&
  (let h := s.dev.host
   if h.elofSel then (match f with | .vf _ _ => false | _ => true)
   else h.linkUp && !(h.fn f).d3hot && (match f with | .vf c v => h.vfExists c v | _ => true))

/-- The first failed write of a chip select (05 R155, R156). -/
def State.elofLatch (s : State) (f : HostFn) (st : Byte) : State :=
  if s.dev.host.elofSel && s.dev.elof.status[hcsOf f] = 0 then
    s.onDev fun d => { d with elof := { d.elof with status := d.elof.status.set (hcsOf f) st } }
  else s

/-- An access of a host function to a channel that is not in RUN is logged (05 R162, R164). -/
def State.downLog (s : State) (snd : Sender) (c : Ch) (addr : Nat) : State :=
  let r := s.dreg dvHOSTP 0x048
  if r.bit 31 then
    (if r.field 8 8 < 255 then s.setDfield dvHOSTP 0x048 8 8 (r.field 8 8 + 1) else s)
  else
    (s.setDreg dvHOSTP 0x048 (BitVec.ofNat 32 (snd.id + 16 * c.num + 0x100 + 0x80000000))).setDreg dvHOSTP 0x04C
      (BitVec.ofNat 32 addr)

/-- What the host gets for a read: its data or an error, as a completion or as the bytes driven on Elof (05 R151,
R155, R156). -/
def State.answer (s : State) (f : HostFn) (err : Option Byte) (data : List Byte) : State :=
  if s.dev.host.elofSel then
    s.onDev fun d => { d with elof := { d.elof with out := match err with | some e => [e] | none => 0x00 :: data } }
  else
    s.onHost fun h => h.send (.cpl ⟨f, err.isNone, if err.isNone then data else []⟩)

/-- A poisoned write TLP of a function: discarded, and its status bit in AER set (05 R162; PCI Express places Poisoned TLP
Received at bit 12: PRESUMED, log entry 55). -/
def State.poison (s : State) (f : HostFn) : State :=
  if s.arrives f && !s.dev.host.elofSel then s.onHost fun h => h.setFn f { h.fn f with aer := (h.fn f).aer ||| 0x1000 } else s

def elERR_DOWN : Byte := 0x81
def elERR_DENIED : Byte := 0x82
def elERR_RANGE : Byte := 0x83
def elERR_FORMAT : Byte := 0x84
def elERR_MEM : Byte := 0x85
def elERR_TIMEOUT : Byte := 0x86

/-- Where a channel register lies in the sender's BAR or Elof space (05 R137, R139, R154). -/
def State.regBar (s : State) (snd : Sender) (c : Ch) (addr : Nat) : Nat :=
  if snd ≠ .pf4 then addr
  else if s.dev.host.elofSel then c.num * 0x100000 + addr
  else 0x01000000 * (c.num + 1) + addr

/-- A write by a sender to a channel (05 R158, R162): the Rook writes only while its channel runs, a host function only
where its request arrives, and a host write to a channel not in RUN is discarded as DOWN. `addr` is the register's offset in the channel. -/
def State.chanWrite (s : State) (snd : Sender) (c : Ch) (addr : Nat) (f : Node → Node) : State :=
  if snd.isHost then
    (if !s.arrives (senderFn snd c) then s
     else if !(s.ch c).running then (s.downLog snd c (s.regBar snd c addr)).elofLatch (senderFn snd c) elERR_DOWN
     else
       let s := if snd = .pf4 then s.elofLatch .pf4 elERR_DENIED else s
       s.within c f)
  else if (s.ch c).running then s.within c f
  else s

/-- A refused PF4 read (01 R40). -/
def Node.grantDeny (n : Node) (addr : Word) : Node :=
  (n.fault pgCHCTL cGRANT 9 addr).raise evCH_GRANT_DENY

/-- CHCTL_GRANT.MGMT_READ. -/
def Channel.granted (k : Channel) : Bool := (k.reg pgCHCTL 0x044).bit 0

/-- A word read with the changes the read makes. -/
abbrev Rd := Node → Node × Word

/-- A register read of a channel by a page's own rule: a VF does not reach the register and reads 0 (05 R141); during a
block reset a read is refused and returns 0 (03 R69, R73). -/
def Node.readAccess (n : Node) (snd : Sender) (page off : Nat) (f : Rd) : Node × Word :=
  match snd with
  | .vf _ => (n, 0)
  | .rook | .pf | .pf4 => if 0x040 ≤ off && n.k.busy page then (n.regFault snd page off cBUSY, 0) else f n

/-- The device side of an operation that answers a word. -/
def State.withinR (s : State) (c : Ch) (f : Rd) : State × Word :=
  let r := f (s.node c)
  (r.1.evs.foldl State.raiseDev (s.put c r.1), r.2)

/-- A register read by a sender (01 R38, R40, 05 R158, R162). The Rook's own loads take their word from the bundle
that makes them; here only the read's side effect shows. -/
def State.chanRead (s : State) (snd : Sender) (c : Ch) (addr : Nat) (internal : Word) (f : Rd) : State :=
  if snd.isHost then
    (if !s.arrives (senderFn snd c) then s
     else if !(s.ch c).running then (s.downLog snd c (s.regBar snd c addr)).answer (senderFn snd c) (some elERR_DOWN) []
     else if snd = .pf4 && !(s.ch c).granted then
       (s.within c fun n => n.grantDeny internal).answer .pf4 (some elERR_DENIED) []
     else
       let (s, v) := s.withinR c f
       s.answer (senderFn snd c) none (bytesLE 4 v.toNat))
  else if (s.ch c).running then (s.withinR c f).1
  else s

/-- A write command on a register of a channel page. -/
def State.regCmd (s : State) (snd : Sender) (c : Ch) (page off : Nat) (f : Node → Node) : State :=
  s.chanWrite snd c (regKey page off) fun n => n.access snd page off f

/-- A read command on a register of a channel page. -/
def State.regRead (s : State) (snd : Sender) (c : Ch) (page off : Nat) (f : Rd) : State :=
  s.chanRead snd c (regKey page off) (regAddr page off) fun n => n.readAccess snd page off f

end Sys2Proof.Machine
end

