-- ==== Sys2Proof/Machine/Crypto.lean ====
section
/-!
DEFINITION. The two engines of the boot sequencer (04 R111): SHA-256 (FIPS 180-4) and the verification of an ECDSA
signature over P-256 (FIPS 186-5).
-/

namespace Sys2Proof.Machine

/-! ## SHA-256 -/

/-- The greatest number whose k-th power is at most `m`, found from bit `n - 1` down above what is found so far. -/
def rootFloor (k m : Nat) : Nat → Nat → Nat
  | 0, found => found
  | n + 1, found => rootFloor k m n (if (found + 2 ^ n) ^ k ≤ m then found + 2 ^ n else found)

/-- The first 32 bits of the fractional part of the k-th root of a number below 2 ^ (4k). -/
def rootFraction (k p : Nat) : Word := BitVec.ofNat 32 (rootFloor k (p * 2 ^ (32 * k)) 36 0)

/-- The 64 primes from which FIPS 180-4 takes its constants. -/
def shaPrimes : List Nat := (List.range 312).filter fun p => 2 ≤ p && ((List.range p).drop 2).all fun d => p % d ≠ 0

/-- The constant of each round: from the cube roots of the primes. -/
def shaK : List Word := shaPrimes.map (rootFraction 3)

/-- A word XORed with itself rotated right by each of these amounts, from `x` on. -/
def rotXor (x w : Word) (rs : List Nat) : Word := rs.foldl (fun v r => v ^^^ w.rotateRight r) x

/-- The message schedule, latest word first, extended by one word `n` times. -/
def shaExtend : Nat → List Word → List Word
  | 0, w => w
  | n + 1, w =>
    let old := w.getD 14 0
    let new := w.getD 1 0
    shaExtend n ((w.getD 15 0 + rotXor (old >>> 3) old [7, 18] + w.getD 6 0 + rotXor (new >>> 10) new [17, 19]) :: w)

/-- The working variables of a block: a to d, and e to h, each a window on the values that one word has taken. -/
structure ShaVars where
  ad : List Word
  eh : List Word

/-- One round: both windows move on by one value. -/
def ShaVars.round (v : ShaVars) (k w : Word) : ShaVars :=
  let pick := fun i => v.eh.getD i 0
  let vote := fun i => v.ad.getD i 0
  let t := pick 3 + k + w + rotXor 0 (pick 0) [6, 11, 25] + (pick 2 ^^^ (pick 0 &&& (pick 1 ^^^ pick 2)))
  let u := rotXor 0 (vote 0) [2, 13, 22] + ((vote 1 &&& vote 2) ||| (vote 0 &&& (vote 1 ||| vote 2)))
  ⟨(t + u) :: v.ad.take 3, (vote 3 + t) :: v.eh.take 3⟩

/-- One block of 64 bytes added to the hash value. -/
def shaBlock (h : List Word) (blk : List Byte) : List Word :=
  let w := (List.range 16).map fun i => BitVec.ofNat 32 (ofBytesBE (slice blk (4 * i) 4))
  let v := (List.zip shaK (shaExtend 48 w.reverse).reverse).foldl (fun (v : ShaVars) x => v.round x.1 x.2)
    ⟨h.take 4, h.drop 4⟩
  List.zipWith (· + ·) h (v.ad ++ v.eh)

/-- `n` blocks of a padded message. -/
def shaBlocks : Nat → List Byte → List Word → List Word
  | 0, _, h => h
  | n + 1, bs, h => shaBlocks n (bs.drop 64) (shaBlock h (bs.take 64))

/-- The digest of a message, in byte order. -/
def sha256 (m : List Byte) : List Byte :=
  let padded := m ++ [0x80] ++ List.replicate ((119 - m.length % 64) % 64) 0 ++ bytesBE 8 (8 * m.length)
  (shaBlocks (padded.length / 64) padded ((shaPrimes.take 8).map (rootFraction 2))).flatMap fun w => bytesBE 4 w.toNat

/-! ## P-256 -/

/-- The field prime, the coefficient b, the group order and the base point. -/
def p256p : Nat := 0xFFFFFFFF00000001000000000000000000000000FFFFFFFFFFFFFFFFFFFFFFFF
def p256b : Nat := 0x5AC635D8AA3A93E7B3EBBD55769886BC651D06B0CC53B0F63BCE3C3E27D2604B
def p256n : Nat := 0xFFFFFFFF00000000FFFFFFFFFFFFFFFFBCE6FAADA7179E84F3B9CAC2FC632551
def p256g : Nat × Nat :=
  (0x6B17D1F2E12C4247F8BCE6E563A440F277037D812DEB33A0F4A13945D898C296,
   0x4FE342E2FE1A7F9B8EE7EB4A7C0F9E162BCE33576B315ECECBB6406837BF51F5)

/-- b to a power modulo m; `n` bounds the bits of the exponent. -/
def powMod (m : Nat) : Nat → Nat → Nat → Nat
  | 0, _, _ => 1 % m
  | n + 1, b, e =>
    let r := powMod m n (b * b % m) (e / 2)
    if e % 2 = 1 then r * b % m else r

/-- The inverse modulo a prime. -/
def invMod (m a : Nat) : Nat := powMod m 256 (a % m) (m - 2)

/-- The sum of two points of the curve; none is the point at infinity. -/
def p256add (a b : Option (Nat × Nat)) : Option (Nat × Nat) :=
  match a, b with
  | none, q => q
  | q, none => q
  | some (x1, y1), some (x2, y2) =>
    if x1 = x2 ∧ (y1 + y2) % p256p = 0 then none
    else
      let l := if x1 = x2 then (3 * x1 * x1 + p256p - 3) * invMod p256p (2 * y1) % p256p
        else (y2 + p256p - y1) * invMod p256p (x2 + p256p - x1) % p256p
      let x := (l * l + 2 * p256p - x1 - x2) % p256p
      some (x, (l * (x1 + p256p - x) + p256p - y1) % p256p)

/-- A multiple of a point; `n` bounds the bits of the scalar. -/
def p256mul : Nat → Nat → Option (Nat × Nat) → Option (Nat × Nat)
  | 0, _, _ => none
  | n + 1, e, q =>
    let r := p256mul n (e / 2) (p256add q q)
    if e % 2 = 1 then p256add r q else r

/-- Whether r ‖ s is a valid signature of a message under the key Qx ‖ Qy (04 R111). -/
def p256verify (key msg sig : List Byte) : Bool :=
  let qx := ofBytesBE (key.take 32)
  let qy := ofBytesBE (key.drop 32)
  let r := ofBytesBE (sig.take 32)
  let s := ofBytesBE (sig.drop 32)
  if !(qx < p256p && qy < p256p && (qy * qy) % p256p = (qx * qx * qx + (p256p - 3) * qx + p256b) % p256p) then false
  else if !(1 ≤ r && r < p256n && 1 ≤ s && s < p256n) then false
  else
    let e := ofBytesBE (sha256 msg)
    let w := invMod p256n s
    match p256add (p256mul 256 (e * w % p256n) (some p256g)) (p256mul 256 (r * w % p256n) (some (qx, qy))) with
    | none => false
    | some (x, _) => x % p256n = r

end Sys2Proof.Machine
end

