-- ==== Sys2Proof/Machine/Check.lean ====
section
/-!
DEFINITION. The checks the device computes over bytes: the eight Die units (10 R272, R273), of which unit 1 gives the
carry tag (10 R274) and the copy check (11 R303), and unit 0 the frame check of Ethernet (IEEE 802.3).
-/

namespace Sys2Proof.Machine

/-- One byte into a reflected CRC; `poly` is the polynomial in reflected form (10 R272). -/
def crcR (poly st : Nat) (b : Byte) : Nat :=
  (List.range 8).foldl (fun s _ => if s % 2 = 1 then (s / 2) ^^^ poly else s / 2) (st ^^^ b.toNat)

/-- One byte into a CRC of width `w`, most significant bit first (10 R272). -/
def crcM (w poly st : Nat) (b : Byte) : Nat :=
  (List.range 8).foldl (fun s _ =>
    if s / 2 ^ (w - 1) % 2 = 1 then ((s * 2) ^^^ poly) % 2 ^ w else s * 2 % 2 ^ w)
    ((st ^^^ (b.toNat * 2 ^ (w - 8))) % 2 ^ w)

/-- Ones' complement addition of 16-bit values (10 R273). -/
def onesAdd (a b : Nat) : Nat :=
  let s := a + b
  s % 65536 + s / 65536

/-- One byte into SUM16: running sum [15:0], held byte [23:16], ODD [24] (10 R273). -/
def sum16 (st : Nat) (b : Byte) : Nat :=
  if st / 2 ^ 24 % 2 = 0 then st % 65536 + b.toNat * 65536 + 2 ^ 24
  else onesAdd (st % 65536) (st / 65536 % 256 * 256 + b.toNat)

/-- One byte into unit u (10 R272); 0xEDB8_8320, 0x82F6_3B78 and 0xA001 are 0x04C1_1DB7, 0x1EDC_6F41 and 0x8005
reflected. -/
def dieByte (u st : Nat) (b : Byte) : Nat :=
  match u with
  | 0 => crcR 0xEDB88320 st b
  | 1 => crcR 0x82F63B78 st b
  | 2 => crcM 16 0x1021 st b
  | 3 => crcR 0xA001 st b
  | 4 => crcM 8 0x07 st b
  | 5 => crcM 24 0x5D6DCB st b
  | 6 => (st ^^^ b.toNat) % 256
  | _ => sum16 st b

/-- RESULT of unit u from its STATE (10 R272, R273). -/
def dieResult (u st : Nat) : Nat :=
  match u with
  | 0 | 1 => st ^^^ 0xFFFFFFFF
  | 7 => 65535 - onesAdd (st % 65536) (if st / 2 ^ 24 % 2 = 1 then st / 65536 % 256 * 256 else 0)
  | _ => st

/-- STATE of unit u after bytes. -/
def dieFold (u st : Nat) (bs : List Byte) : Nat := bs.foldl (dieByte u) st

/-- CRC-32C of bytes: the RESULT of unit 1 (10 R274). -/
def crc32c (bs : List Byte) : Nat := dieResult 1 (dieFold 1 0xFFFFFFFF bs)

/-- CRC-32 of IEEE 802.3: the RESULT of unit 0. -/
def crc32 (bs : List Byte) : Nat := dieResult 0 (dieFold 0 0xFFFFFFFF bs)

/-- CRC16A of bytes, the check of unit 3. -/
def crc16a (seed : Nat) (bs : List Byte) : Nat := dieFold 3 seed bs

/-- CRC-24 of bytes, the check of unit 5. -/
def crc24 (seed : Nat) (bs : List Byte) : Nat := dieFold 5 seed bs

/-- The carry tag of a block as stored: the CRC-32C of its data, off by what its entry or upsets left (10 R274, R279). -/
def Channel.carryTag (k : Channel) (b : Nat) : Word :=
  BitVec.ofNat 32 (crc32c (k.sram.read (SRAM0 + b * 64) 64)) ^^^ (SMap.get? k.tagDiff b).getD 0

end Sys2Proof.Machine
end

