-- ==== Sys2Proof/Machine/Time.lean ====
section
/-!
DEFINITION. The time base, its servo and 1PPS (02 R43–R46, R48, R61, R68; 18 R498, R506, R510).
-/

namespace Sys2Proof.Machine

/-- 2²⁴: the units of the time base in one nanosecond (02 R43). -/
def tbUnit : Nat := 16777216

/-- The active WHISTLE_PERIOD and WHISTLE_PHASE. -/
def Channel.period (k : Channel) : Nat := (k.reg pgWHISTLE 0x044).toNat
def Channel.phase (k : Channel) : Nat := (k.reg pgWHISTLE 0x048).toNat

def Channel.whistleEn (k : Channel) : Bool := (k.reg pgWHISTLE 0x040).bit 0

def Channel.nowNs (k : Channel) : Nat := k.tb.acc.toNat / tbUnit

/-- The first boundary strictly above `t` (02 R43): B − PHASE is a whole multiple of PERIOD. -/
def boundaryAfter (phase period t : Nat) : Nat :=
  let a := phase % period
  if t < a then a else a + ((t - a) / period + 1) * period

/-- TIME_INCR. -/
def Channel.incr (k : Channel) : Nat := (k.reg pgTIME 0x044).toNat

/-- The next boundary under R48: the first that TIME_NOW reaches in a cycle to come that lies at least PERIOD / 2 of fabric
time, at 2.5 ns a cycle, after the previous whistle (log entry 21). -/
def Channel.stepBoundary (k : Channel) : Nat :=
  let wait := if k.wh.count = 0 then 1 else max 1 (ceilDiv k.period 5 - k.wh.elapsed)
  boundaryAfter k.phase k.period ((k.tb.acc.toNat + (wait - 1) * k.incr) / tbUnit)

/-- The first boundary strictly above TIME_NOW (02 R43, R47), from where a changed period has anchored them (R58). -/
def Channel.firstBoundary (k : Channel) : Nat :=
  boundaryAfter (k.wh.anchor.getD k.phase) k.period k.nowNs

/-- The boundaries follow R48 from here on: WHISTLE_PHASE places them again, and where the whistle runs the next one is the
boundary of R48. -/
def Channel.applyR48 (k : Channel) : Channel :=
  { k with wh := { k.wh with anchor := none, next := if k.whistleEn then k.stepBoundary else k.wh.next } }

/-- How many cycles ahead the next whistle lies. -/
def Channel.ahead (k : Channel) : Nat := ceilDiv (k.wh.next * tbUnit - k.tb.acc.toNat) k.incr

/-- The first expected reference instant that TIME_NOW has not yet passed by more than half the interval (02 R45). -/
def openInstant (ofs int now : Nat) : Nat :=
  if now ≤ int / 2 then ofs % int else boundaryAfter ofs int (now - int / 2 - 1)

/-- TIME_LOCKINT and TIME_LOCKOFS. -/
def Channel.lockInt (k : Channel) : Nat := (k.reg pgTIME 0x054).toNat
def Channel.lockOfs (k : Channel) : Nat := (k.reg pgTIME 0x058).toNat

/-- The time base set to a value: instants and seconds that a step backwards brings back lie ahead again (02 R45, 18 R498). -/
def Channel.setTime (k : Channel) (acc : BitVec 88) : Channel :=
  let now := acc.toNat / tbUnit
  { k with tb := { k.tb with acc := acc, ppsRise := min k.tb.ppsRise (now / 1000000000 * 1000000000),
                             instant := min k.tb.instant (openInstant k.lockOfs k.lockInt now) } }

/-- The time base stepped (02 R48): the next boundary follows R48, and a change of the interval is remembered for the next
whistle. -/
def Node.timeStep (n : Node) (acc : BitVec 88) : Node :=
  let old := n.k.ahead
  let n := n.onK fun k => (k.setTime acc).applyR48
  if !n.k.whistleEn || n.k.ahead = old then n else n.onK fun k => { k with wh := { k.wh with slipNow := true } }

/-- A write of TIME_ADJ: signed nanoseconds added (02 R68). -/
def Node.timeAdj (n : Node) (v : Word) : Node :=
  n.timeStep (n.k.tb.acc + BitVec.ofInt 88 (v.toInt * (tbUnit : Int)))

/-- A write of TIME_NOW_HI: the written high word and the staged low word (02 R68). -/
def Node.timeNowHi (n : Node) (v : Word) : Node :=
  n.timeStep (BitVec.ofNat 88 ((v.toNat * 2 ^ 32 + n.k.tb.stage.toNat) * tbUnit))

/-! ## The servo (02 R44, R45) -/

def Channel.timeSrc (k : Channel) : Nat := (k.reg pgTIME 0x040).field 0 3

/-- SRC selects a hardware servo. -/
def Channel.servoOn (k : Channel) : Bool := 1 ≤ k.timeSrc && k.timeSrc ≤ 4

def Channel.lockWin (k : Channel) : Nat := (k.reg pgTIME 0x05C).field 0 16

/-- The first expected instant above TIME_NOW (02 R45). -/
def Channel.nextInstant (k : Channel) : Nat := boundaryAfter k.lockOfs k.lockInt k.nowNs

/-- Entry to acquiring: the counts start at 0 (02 R45). -/
def Node.acquire (n : Node) : Node :=
  n.onK fun k => { k with tb := { k.tb with lock := .acquiring, good := 0, missed := 0, instant := k.nextInstant } }

/-- The servo after a write of TIME_CTRL that found source `old` (02 R45). -/
def Node.srcChanged (n : Node) (old : Nat) : Node :=
  if !n.k.servoOn then n.onK fun k => { k with tb := { k.tb with lock := .free } }
  else if n.k.timeSrc = old then n
  else n.acquire

/-- The error of a stamp: its distance from the nearest expected instant (02 R45); of two instants equally near the earlier
is taken (DESIGN CHOICE, log entry 53). -/
def servoError (ofs int stamp : Nat) : Int :=
  let r := ((stamp : Int) - (ofs : Int)) % (int : Int)
  if 2 * r ≤ int then r else r - int

/-- A number as a signed word, limited to the word's range. -/
def clampWord (e : Int) : Word := BitVec.ofInt 32 (max (-2147483648) (min 2147483647 e))

/-- A rate correction: TIME_INCR takes a value within ±500 ppm of nominal that the specification does not give (02 R45,
log entry 4). -/
def Node.correctRate (n : Node) : Node :=
  let (x, n) := n.free
  n.setReg pgTIME 0x044 (BitVec.ofNat 32 (0x027FAE15 + x.toNat % (0x028051EB - 0x027FAE15 + 1)))

/-- A reference event of source `src` reaches the servo (02 R45). -/
def Node.servo (n : Node) (src : Nat) (stamp : DWord) : Node :=
  if !(n.k.servoOn && n.k.timeSrc = src) then n
  else
    let e := servoError n.k.lockOfs n.k.lockInt stamp.toNat
    let near := ((stamp.toNat : Int) - e).toNat
    let n := n.setReg pgTIME 0x064 (clampWord e)
    let n := if n.k.tb.lock = .holdover then n.acquire else n
    let n := if n.k.tb.lock = .acquiring && e.natAbs > 1000 then
        n.timeStep (n.k.tb.acc - BitVec.ofInt 88 (e * (tbUnit : Int)))
      else n.correctRate
    if n.k.lockWin < e.natAbs then n.onK fun k => { k with tb := { k.tb with good := 0 } }
    else
      let n := n.onK fun k =>
        { k with tb := { k.tb with good := min 4 (k.tb.good + 1), missed := 0, instant := near + k.lockInt } }
      if n.k.tb.lock = .acquiring && n.k.tb.good = 4 then
        (n.onK fun k => { k with tb := { k.tb with lock := .locked } }).raise evTIME_LOCK
      else n

/-- TIME_NOW passes an expected instant plus half the interval without an event in the window (02 R45). -/
def Node.instantMissed (n : Node) : Node :=
  let k := n.k
  if !((k.tb.lock = .acquiring || k.tb.lock = .locked) && k.servoOn && k.tb.instant + k.lockInt / 2 < k.nowNs) then n
  else
    let n := n.onK fun k =>
      { k with tb := { k.tb with missed := k.tb.missed + 1, instant := k.tb.instant + k.lockInt } }
    if n.k.tb.missed < 3 then n
    else (n.onK fun k => { k with tb := { k.tb with lock := .holdover } }).raise evTIME_UNLOCK

/-! ## 1PPS (18 R498) -/

/-- The last whole second TIME_NOW has reached. -/
def Channel.second (k : Channel) : Nat := k.nowNs / 1000000000 * 1000000000

def Channel.ppsEn (k : Channel) : Bool := (k.reg pgTIME 0x070).bit 0

/-- TIME_PPSCTRL written: with OUTEN set anew the next rise is the next whole second; without it the pin is undriven. -/
def Node.ppsCtrl (n : Node) (snd : Sender) (v : Word) : Node :=
  let was := n.k.ppsEn
  let n := n.writeFields snd pgTIME 0x070 v
  if !n.k.ppsEn then n.onK fun k => { k with tb := { k.tb with ppsOut := false } }
  else if was then n
  else n.onK fun k => { k with tb := { k.tb with ppsRise := k.second } }

/-- An edge of PPS_IN captured while TIME_NOW is what it is: the stamp is 5 ns less. -/
def Node.ppsEdge (n : Node) (rising : Bool) : Node :=
  let c := n.reg pgTIME 0x070
  if !(c.bit 1 && (rising == !c.bit 2)) then n
  else
    let stamp := n.k.now - 5
    ((n.onK fun k => { k with tb := { k.tb with ppsIn := stamp } }).raise evTIME_PPS).servo 1 stamp

/-- TIME_NOW reaches or passes a whole second. -/
def Channel.ppsRising (k : Channel) : Channel :=
  if k.ppsEn && !k.tb.ppsOut && k.tb.ppsRise < k.second then
    { k with tb := { k.tb with ppsOut := true, ppsRise := k.second } }
  else k

/-- TIME_NOW reaches or passes that second plus WIDTH milliseconds. -/
def Channel.ppsFalling (k : Channel) : Channel :=
  if k.tb.ppsOut && k.tb.ppsRise + (k.reg pgTIME 0x070).field 8 8 * 1000000 ≤ k.nowNs then
    { k with tb := { k.tb with ppsOut := false } }
  else k

/-! ## Registers of the TIME page -/

/-- A register of the TIME page written (02 R68). -/
def Node.timeWrite (n : Node) (snd : Sender) (off : Nat) (v : Word) : Node :=
  match off with
  | 0x040 =>
    let old := n.k.timeSrc
    (n.writeFields snd pgTIME 0x040 v).srcChanged old
  | 0x048 => n.onK fun k => { k with tb := { k.tb with stage := v } }
  | 0x04C => n.timeNowHi v
  | 0x050 => n.timeAdj v
  | 0x054 | 0x058 =>
    let was := (n.k.lockInt, n.k.lockOfs)
    let n := n.writeFields snd pgTIME off v
    if !n.k.servoOn || (n.k.lockInt, n.k.lockOfs) = was then n
    else n.onK fun k => { k with tb := { k.tb with instant := openInstant k.lockOfs k.lockInt k.nowNs } }
  | 0x070 => n.ppsCtrl snd v
  | _ => n.writeFields snd pgTIME off v

def lockCode : Lock → Nat
  | .free => 0 | .acquiring => 1 | .locked => 2 | .holdover => 3

/-- A register of the TIME page read; a read of a low word latches the high word (02 R68, 18 R510). -/
def Node.timeRead (n : Node) (off : Nat) : Node × Word :=
  match off with
  | 0x048 =>
    (n.onK fun k => { k with tb := { k.tb with nowHi := BitVec.ofNat 32 (k.now.toNat / 2 ^ 32) } },
     BitVec.ofNat 32 n.k.now.toNat)
  | 0x04C => (n, n.k.tb.nowHi)
  | 0x060 => (n, BitVec.ofNat 32 (lockCode n.k.tb.lock))
  | 0x074 =>
    (n.onK fun k => { k with tb := { k.tb with ppsHi := BitVec.ofNat 32 (k.tb.ppsIn.toNat / 2 ^ 32) } },
     BitVec.ofNat 32 n.k.tb.ppsIn.toNat)
  | 0x078 => (n, n.k.tb.ppsHi)
  | _ => (n, n.k.view pgTIME off)

/-! ## The commands -/

/-- A write of TIME_ADJ. -/
def execTimeAdjWrite (snd : Sender) (c : Ch) (v : Word) (s : State) : Out :=
  .next (s.regCmd snd c pgTIME 0x050 fun n => n.timeWrite snd 0x050 v)

/-- A write of TIME_NOW_HI. -/
def execTimeNowHiWrite (snd : Sender) (c : Ch) (v : Word) (s : State) : Out :=
  .next (s.regCmd snd c pgTIME 0x04C fun n => n.timeWrite snd 0x04C v)

/-- A write of TIME_NOW_LO: staged. -/
def execTimeNowLoWrite (snd : Sender) (c : Ch) (v : Word) (s : State) : Out :=
  .next (s.regCmd snd c pgTIME 0x048 fun n => n.timeWrite snd 0x048 v)

/-- A read of TIME_NOW_LO. -/
def execTimeNowLoRead (snd : Sender) (c : Ch) (s : State) : Out :=
  .next (s.regRead snd c pgTIME 0x048 fun n => n.timeRead 0x048)

/-- A write of TIME_CTRL. -/
def execTimeCtrlWrite (snd : Sender) (c : Ch) (v : Word) (s : State) : Out :=
  .next (s.regCmd snd c pgTIME 0x040 fun n => n.timeWrite snd 0x040 v)

/-- Whether a reference source can feed the servo: 1PPS while its edges are stamped, a CAN controller only as time slave
(02 R44, R45, 14 R387, 18 R498). -/
def Channel.refSource (k : Channel) (src : Nat) : Bool :=
  match src with
  | 1 => (k.reg pgTIME 0x070).bit 1
  | 2 => (k.reg pgCAN0 0x140).field 0 2 = 1
  | 3 => (k.reg pgCAN1 0x140).field 0 2 = 1
  | _ => true

/-- A reference event of a source: 1 1PPS, 2 and 3 the CAN controllers, 4 the slotted bus. -/
def execServoReferenceEvent (c : Ch) (src : Nat) (stamp : DWord) (s : State) : Out :=
  .next (
    if !(s.ch c).clocked then s
    else s.within c fun n => if n.k.refSource src then n.servo src stamp else n)

/-- An expected reference instant has been missed. -/
def execReferenceInstantMissed (c : Ch) (s : State) : Out :=
  .next (if (s.ch c).clocked then s.within c Node.instantMissed else s)

/-- An edge on PPS_IN: in a FIELD bank that is down the input reads 0, and none rises (18 R486). -/
def execPpsInEdge (c : Ch) (rising : Bool) (s : State) : Out :=
  .next (if (s.ch c).clocked then s.within c fun n => if rising && !n.fieldUp then n else n.ppsEdge rising else s)

/-- PPS_OUT rises. -/
def execPpsOutRise (c : Ch) (s : State) : Out :=
  .next (if (s.ch c).clocked then s.within c fun n => n.onK Channel.ppsRising else s)

/-- PPS_OUT falls. -/
def execPpsOutFall (c : Ch) (s : State) : Out :=
  .next (if (s.ch c).clocked then s.within c fun n => n.onK Channel.ppsFalling else s)

/-- A read of TIME_PPSIN_LO. -/
def execTimePpsinLoRead (snd : Sender) (c : Ch) (s : State) : Out :=
  .next (s.regRead snd c pgTIME 0x074 fun n => n.timeRead 0x074)

/-- One fabric cycle of a clocked channel: the time base advances by TIME_INCR (02 R43, log entry 2). -/
def Channel.tick (k : Channel) : Channel :=
  if !k.clocked then k
  else
    { k with tb := { k.tb with acc := k.tb.acc + BitVec.ofNat 88 k.incr }, wh := { k.wh with elapsed := k.wh.elapsed + 1 } }

/-- The four channels. -/
def allChannels : List Ch := [.ch0, .ch1, .ch2, .ch3]

/-- One step of time with no command waiting. The channels have clocks of their own that share no tick (01 R32): which of
them has a cycle in this step is a free value (log entry 2). -/
def State.clockStep (s : State) : State :=
  allChannels.foldl (fun t c => if s.free.1.getLsbD c.num then t.onCh c Channel.tick else t) s.free.2

end Sys2Proof.Machine
end

