-- ==== Sys2Proof/Machine/Can.lean ====
section
/-!
DEFINITION. The CAN controllers (14). What happens on the bus comes with the commands: a received frame, the start and
the end of an attempt.
-/

namespace Sys2Proof.Machine

def Node.can (n : Node) (u : Unit2) : Can := n.k.can u

def Node.onCan (n : Node) (u : Unit2) (g : Can → Can) : Node := n.onK fun k => k.setCan u (g (k.can u))

/-- CFG.MODE as it acts (14 R369). -/
def Channel.canMode (k : Channel) (u : Unit2) : Nat := (k.reg (pgCan u) 0x040).field 0 2

/-- A counter of the page (14 R399). -/
def Node.canCount (n : Node) (u : Unit2) (i : Nat) : Node := n.count (pgCan u) (0x200 + 4 * i)

/-- A half-word of counter 15: RXDROP low, REFMISS high (14 R399). -/
def Node.canHalf (n : Node) (u : Unit2) (lo : Nat) : Node :=
  n.setField (pgCan u) 0x23C lo 16 ((n.reg (pgCan u) 0x23C).field lo 16 + 1)

/-! ## Frames in memory (14 R374) -/

/-- Data bytes a frame carries. -/
def canBytes (f : CanFrame) : Nat := if f.rtr then 0 else f.dlen

/-- A frame with the fields its format has; the others are 0 (14 R374). -/
def canNorm (f : CanFrame) : CanFrame :=
  { f with ide := f.ide && f.fmt ≠ 2, rtr := f.rtr && f.fmt = 0, brs := f.brs && f.fmt = 1, esi := f.esi && f.fmt = 1,
           sec := f.sec && f.fmt = 2, sdt := if f.fmt = 2 then f.sdt else 0, af := if f.fmt = 2 then f.af else 0,
           vcid := if f.fmt = 2 then f.vcid else 0 }

/-- Word 0 of a frame header without NEW, LOST, SLOT and TRUNC. -/
def canWord0 (f : CanFrame) (self : Bool) : Nat :=
  16 * f.fmt + 64 * f.ide.toNat + 128 * f.rtr.toNat + 256 * f.brs.toNat + 512 * f.esi.toNat + 1024 * f.sec.toNat +
  2048 * self.toNat + 4096 * (f.dlen % 4096) + 2 ^ 24 * f.sdt.toNat

/-- A frame header; `flags` are NEW, LOST, SLOT, TRUNC as bits 0 to 3. -/
def canHeader (f : CanFrame) (self : Bool) (flags : Nat) (stamp : DWord) : List Byte :=
  let f := canNorm f
  bytesLE 4 (canWord0 f self + flags) ++ bytesLE 4 (f.id % 2 ^ 29) ++ bytesLE 4 f.af.toNat ++
  bytesLE 4 f.vcid.toNat ++ bytesLE 8 stamp.toNat ++ bytesLE 8 0

/-- A header with NEW, LOST and SLOT replaced. -/
def setFlags (hdr : List Byte) (isNew lost slot : Bool) : List Byte :=
  let b := byteAt hdr 0
  BitVec.ofNat 8 (isNew.toNat + 2 * lost.toNat + 4 * slot.toNat + b.toNat / 8 * 8) :: hdr.drop 1

/-! ## Receive: objects and queue (14 R375–R378) -/

def Channel.canHdrAt (k : Channel) (u : Unit2) (i : Nat) : Nat := (k.reg (pgCan u) 0x064).toNat + 32 * i

def Channel.canSlotAt (k : Channel) (u : Unit2) (i : Nat) (slot : Bool) : Nat :=
  (k.reg (pgCan u) 0x068).toNat + (2 * i + slot.toNat) * canSlotSize k (pgCan u)

def canObjBlank : CanObj := ⟨false, 0, []⟩

def Channel.canObj (k : Channel) (u : Unit2) (i : Nat) : CanObj := (SMap.get? (k.can u).objs i).getD canObjBlank

def Node.setObj (n : Node) (u : Unit2) (i : Nat) (o : CanObj) : Node :=
  n.onCan u fun x => { x with objs := SMap.put canObjBlank x.objs i o }

/-- The object a frame belongs to: the lowest enabled one with its identifier and IDE (14 R375). -/
def Channel.canMatch (k : Channel) (u : Unit2) (f : CanFrame) : Option Nat :=
  (List.range (canObjN k (pgCan u))).find? fun i =>
    let w := k.reg (pgCan u) (0x800 + 4 * i)
    w.bit 31 && w.bit 29 == (f.ide && f.fmt ≠ 2) && w.field 0 29 == (if f.fmt = 2 then f.id % 2 ^ 11 else f.id)

/-- A receive write that failed (14 R396). -/
def Node.rxDrop (n : Node) (u : Unit2) (a : Nat) : Node :=
  (n.canHalf u 0).fault (pgCan u) 0x10 0 (BitVec.ofNat 32 a)

/-- EVT_CANn_RX of an object, unless its EV is 0. -/
def Node.objEvent (n : Node) (u : Unit2) (i : Nat) : Node :=
  n.raiseIf ((n.reg (pgCan u) (0x800 + 4 * i)).bit 30) (evCanRx u)

/-- Bytes written by the controller in one piece; the answer says whether they are there. -/
def Node.canPut (n : Node) (u : Unit2) (a : Nat) (bs : List Byte) : Node × Bool :=
  if bs.isEmpty then (n, true)
  else
    let (n, r) := n.put (mCan u) a bs true
    match r with
    | .ok _ => (n, true)
    | .denied | .ecc => (n.rxDrop u a, false)

/-- A frame stored in object i (14 R376). -/
def Node.objStore (n : Node) (u : Unit2) (i : Nat) (f : CanFrame) (self : Bool) (stamp : DWord) : Node :=
  let ha := n.k.canHdrAt u i
  let (n, r) := n.get (mCan u) ha 32
  match r with
  | .denied | .ecc => n.rxDrop u ha
  | .ok hdr =>
    let b := byteAt hdr 0
    let slot := !b.getLsbD 2
    let size := canSlotSize n.k (pgCan u)
    let trunc := (decide (size < canBytes f)).toNat
    let o := n.k.canObj u i
    let (n, ok) := n.canPut u (n.k.canSlotAt u i slot) (f.data.take (min (canBytes f) size))
    if !ok then n
    else if o.lock then
      let n := (n.canCount u 1).setObj u i
        { o with count := o.count + 1, hdr := canHeader f self (8 * trunc) stamp }
      if o.count = 0 then n else n.canCount u 3
    else
      let was := b.getLsbD 0
      let (n, ok) := n.canPut u ha (setFlags (canHeader f self (8 * trunc) stamp) true was slot)
      if !ok then n
      else
        let n := n.canCount u 1
        (if was then n.canCount u 3 else n).objEvent u i

/-- Entries of the receive queue. -/
def Channel.canPutIdx (k : Channel) (u : Unit2) : Nat := (k.reg (pgCan u) 0x070).field 0 7
def Channel.canAckIdx (k : Channel) (u : Unit2) : Nat := (k.reg (pgCan u) 0x074).field 0 7

/-- A frame stored in the receive queue (14 R378). -/
def Node.queueStore (n : Node) (u : Unit2) (f : CanFrame) (self : Bool) (stamp : DWord) : Node :=
  let size := canQCount n.k (pgCan u)
  let put := n.k.canPutIdx u
  if (put + 1) % size = n.k.canAckIdx u then n.canCount u 4
  else
    let entry := canQEntry n.k (pgCan u)
    let a := (n.reg (pgCan u) 0x06C).toNat + put * entry
    let trunc := (decide (entry - 32 < canBytes f)).toNat
    let (n, ok) := n.canPut u (a + 32) (f.data.take (min (canBytes f) (entry - 32)))
    if !ok then n
    else
      let (n, ok) := n.canPut u a (canHeader f self (8 * trunc) stamp)
      if !ok then n
      else ((n.setField (pgCan u) 0x070 0 7 ((put + 1) % size)).canCount u 2).raise (evCanRx u)

/-- Where a valid frame goes (14 R375). -/
def Node.canStore (n : Node) (u : Unit2) (f : CanFrame) (self : Bool) (stamp : DWord) : Node :=
  let n := n.canCount u 0
  match (n.reg (pgCan u) 0x060).field 0 2 with
  | 1 => n.queueStore u f self stamp
  | 2 => match n.k.canMatch u f with
    | some i => n.objStore u i f self stamp
    | none => n.queueStore u f self stamp
  | _ => match n.k.canMatch u f with
    | some i => n.objStore u i f self stamp
    | none => n.canCount u 5

/-- Object i's lock is taken by a read of its header's word 0 (14 R377). -/
def Node.objLock (n : Node) (u : Unit2) (i : Nat) : Node :=
  let o := n.k.canObj u i
  if o.lock then n else n.setObj u i ⟨true, 0, []⟩

/-- Object i's lock is released: the header is rewritten once (14 R377). -/
def Node.objRelease (n : Node) (u : Unit2) (i : Nat) : Node :=
  let o := n.k.canObj u i
  if !o.lock then n
  else
    let n := n.setObj u i canObjBlank
    let ha := n.k.canHdrAt u i
    let (n, r) := n.get (mCan u) ha 32
    match r with
    | .denied | .ecc => n.rxDrop u ha
    | .ok hdr =>
      let slot := (byteAt hdr 0).getLsbD 2
      if o.count = 0 then (n.canPut u ha (setFlags hdr false false slot)).1
      else
        let (n, ok) := n.canPut u ha (setFlags o.hdr true (2 ≤ o.count) (!slot))
        if ok then n.objEvent u i else n

/-- Where the last word of the frame that object i's header names begins: the word of byte DLEN − 1, or of the last byte
the slot holds, or header word 3 (14 R377). -/
def Channel.lastWordAt (k : Channel) (u : Unit2) (i : Nat) : Nat :=
  let ha := k.canHdrAt u i
  let w := wordAt (k.sram.read ha 4) 0
  let len := if w.bit 7 then 0 else min (w.field 12 12) (canSlotSize k (pgCan u))
  if len = 0 then ha + 12 else (k.canSlotAt u i (w.bit 2) + len - 1) / 4 * 4

/-- A controller that watches reads of its objects: enabled, in object mode (14 R375, R377). -/
def Channel.canWatches (k : Channel) (u : Unit2) : Bool :=
  k.live (pgCan u) && (k.reg (pgCan u) 0x060).field 0 2 ≠ 1

/-- Object i exists. -/
def Channel.canHas (k : Channel) (u : Unit2) (i : Nat) : Bool := i < canObjN k (pgCan u)

/-- A word at `w` lies in the bytes read. -/
def inRead (w a len : Nat) : Bool := a ≤ w && w + 4 ≤ a + len

/-- A read of `len` bytes in ascending order as object i meets it (14 R377): a last word below the header comes before it, and
the header's word 0 takes the lock that a last word above it releases. -/
def Node.objSeen (n : Node) (a len : Nat) (u : Unit2) (i : Nat) : Node :=
  let ha := n.k.canHdrAt u i
  let lw := n.k.lastWordAt u i
  let n := if lw < ha && inRead lw a len then n.objRelease u i else n
  let n := if inRead ha a len then n.objLock u i else n
  let lw := n.k.lastWordAt u i
  if ha ≤ lw && inRead lw a len then n.objRelease u i else n

/-- A read of `len` bytes of SRAM by another master, seen by a controller (14 R377). -/
def Node.canSeen1 (n : Node) (a len : Nat) (u : Unit2) : Node :=
  if !n.k.canWatches u || len = 0 then n
  else (List.range (canObjN n.k (pgCan u))).foldl (fun n i => n.objSeen a len u i) n

def otherUnit : Unit2 → Unit2
  | .u0 => .u1 | .u1 => .u0

/-- A read of SRAM as both controllers see it. -/
def Node.canSeen (n : Node) (a len : Nat) : Node := (n.canSeen1 a len .u0).canSeen1 a len .u1

/-- A read by a master as the controllers see it. -/
def Node.getBy (n : Node) (m a len : Nat) : Node × MemRes :=
  let (n, r) := n.get m a len
  match r with
  | .ok bs => (n.canSeen a len, .ok bs)
  | .denied | .ecc => (n, r)

/-- Whether a block or its tag holds an uncorrectable error. -/
def Channel.badBlock (k : Channel) (b : Nat) : Bool :=
  !(eccIn k.ecc.ue .sram (SRAM0 + b * 64) 64).isEmpty || k.ecc.ueTag.contains b

/-- How many of `len` bytes at `a` an exit master reads before the first block with an uncorrectable error. -/
def Channel.readable (k : Channel) (a len : Nat) : Nat :=
  match (blocksOf a len).find? k.badBlock with
  | some b => min len (SRAM0 + b * 64 - a)
  | none => len

/-- A read by an exit master as the controllers see it: the bytes that left before an uncorrectable error are read too. -/
def Node.exitBy (n : Node) (m site a len : Nat) : Node × MemRes × Bool :=
  let got := n.k.readable a len
  let (n, r, miss) := n.exitRead m site a len
  match r with
  | .ok bs => (n.canSeen a len, .ok bs, miss)
  | .ecc => (n.canSeen a got, .ecc, miss)
  | .denied => (n, .denied, miss)

/-! ## Completion of transmit items (14 R382, R396) -/

def Channel.canDesc (k : Channel) (u : Unit2) (slot : Nat) : Nat := (k.reg (pgCan u) 0x080).toNat + 64 * slot

/-- RETRIES as its field of 8 bits shows it; beyond them the specification states no value (log entry 4). -/
def Node.retriesOf (n : Node) (r : Nat) : Nat × Node :=
  if r < 256 then (r, n)
  else
    let (x, n) := n.free
    (x.toNat % 256, n)

/-- The report of a slot: CPL and TXTS, TXSTAT, TXPEND and TXDONE, the event (14 R382). -/
def Node.canReport (n : Node) (u : Unit2) (slot retries : Nat) (txts : DWord) (st : Byte) : Node :=
  let (r, n) := n.retriesOf retries
  let a := n.k.canDesc u slot + 0x1C
  let (n, res) := n.put (mCan u) a (bytesLE 4 (st.toNat + 256 * r + 65536) ++ bytesLE 8 txts.toNat)
  let n := match res with
    | .ok _ => n
    | .denied | .ecc => n.fault (pgCan u) 0x11 0 (BitVec.ofNat 32 a)
  let n := n.setField (pgCan u) (0x180 + slot / 4 * 4) (8 * (slot % 4)) 8 st.toNat
  let n := n.onCan u fun x => { x with items := x.items.filter fun it => it.slot ≠ slot }
  (n.setField (pgCan u) 0x090 slot 1 1).raise (evCanTx u)

/-- An open item ends. -/
def Node.canDone (n : Node) (u : Unit2) (it : CanItem) (st : Byte) : Node := n.canReport u it.slot it.retries it.txts st

/-- Open items in slot order. -/
def Channel.canOpen (k : Channel) (u : Unit2) : List CanItem :=
  (List.range 32).filterMap fun s => (k.can u).items.find? fun it => it.slot = s

/-- Every open item ends with a status (14 R385, 17 R475, R478). -/
def Node.canEndAll (n : Node) (u : Unit2) (st : Byte) : Node := (n.k.canOpen u).foldl (fun n it => n.canDone u it st) n

/-- Whether a slot's attempt is on the bus. -/
def Channel.canOnBus (k : Channel) (u : Unit2) (slot : Nat) : Bool := (k.can u).bus == .slot slot

/-- The abandon policy: tick-bound items with no attempt on the bus end LATE (14 R382); a deadline that fires at this whistle
comes first (R394). -/
def Node.canAbandon (n : Node) (u : Unit2) : Node :=
  ((n.k.canOpen u).filter fun it => it.tick && !n.k.canOnBus u it.slot).foldl
    (fun n it => n.canDone u it (if n.k.due it.fire then stTIMEOUT else stLATE)) n

/-! ## Error states (14 R368, R385) -/

/-- The error state that the counters give. -/
def canStateOf (tec rec' : Nat) : CanErr := if 128 ≤ tec || 128 ≤ rec' then .passive else .active

/-- The controller enters bus-off. -/
def Node.busOff (n : Node) (u : Unit2) : Node :=
  let n := n.onCan u fun x => { x with state := .busOff, recover := false, bus := .quiet, ttValid := false }
  (n.canEndAll u stBUS_OFF).raise (evCanErr u)

/-- The error state follows the counters; each change raises EVT_CANn_ERR. -/
def Node.canJudge (n : Node) (u : Unit2) : Node :=
  let x := n.can u
  if x.state = .busOff then n
  else if 256 ≤ x.tec then n.busOff u
  else
    let s := canStateOf x.tec x.rxErr
    if x.state = .integrating || x.state = s then n
    else (n.onCan u fun x => { x with state := s }).raise (evCanErr u)

/-- A frame was received: the receive counter falls (ISO 11898-1); a count above 127 takes a value from 119 to 127 that
is left open (log entry 4). -/
def Node.recDown (n : Node) (u : Unit2) : Node :=
  let r := (n.can u).rxErr
  if 127 < r then
    let (x, n) := n.free
    n.onCan u fun y => { y with rxErr := 119 + x.toNat % 9 }
  else n.onCan u fun y => { y with rxErr := r - 1 }

/-! ## Rate detection (14 R386) -/

/-- The first enabled candidate at or above i. -/
def Channel.abdFrom (k : Channel) (u : Unit2) (i : Nat) : Option Nat :=
  (List.range 8).find? fun j => i ≤ j && ((k.reg (pgCan u) 0x0A0).field 8 8).testBit j

/-- A candidate is loaded and the controller integrates. -/
def Node.abdLoad (n : Node) (u : Unit2) (i : Nat) : Node :=
  n.onCan u fun x => { x with abdIdx := i, abdGood := 0, abdOk := false, state := .integrating }

/-- Detection stops with FAIL. -/
def Node.abdFailed (n : Node) (u : Unit2) : Node :=
  (n.onCan u fun x => { x with abdRun := false, abdFail := true }).raise (evCanErr u)

/-- A round has ended. -/
def Node.abdRoundEnd (n : Node) (u : Unit2) : Node :=
  let rounds := (n.reg (pgCan u) 0x0A0).field 16 8
  let n := n.onCan u fun x => { x with abdRound := x.abdRound + 1 }
  if rounds ≠ 0 && rounds ≤ (n.can u).abdRound then n.abdFailed u
  else match n.k.abdFrom u 0 with
    | some i => n.abdLoad u i
    | none => n

/-- The next candidate, or the end of the round. -/
def Node.abdNext (n : Node) (u : Unit2) : Node :=
  match n.k.abdFrom u ((n.can u).abdIdx + 1) with
  | some i => n.abdLoad u i
  | none => n.abdRoundEnd u

/-- ABDCFG.START while ENABLE is 1 and MODE is 1. -/
def Node.abdStart (n : Node) (u : Unit2) : Node :=
  if !(n.k.live (pgCan u) && n.k.canMode u = 1) then n
  else
    let n := n.onCan u fun x => { x with abdRun := true, abdFound := false, abdFail := false, abdRound := 0, abdIdx := 0 }
    match n.k.abdFrom u 0 with
    | some i => n.abdLoad u i
    | none => n.abdRoundEnd u

/-- A frame received without error while detection runs: the second in a row accepts the candidate. A candidate's XBT that does
not agree with XLCFG stays out as a write of it would (R390, log entry 59). -/
def Node.abdFrame (n : Node) (u : Unit2) (f : CanFrame) : Node :=
  let x := n.can u
  if !x.abdRun then n
  else
    let ok := x.abdOk || (f.fmt = 1 && f.brs) || f.fmt = 2
    let n := n.onCan u fun x => { x with abdGood := x.abdGood + 1, abdOk := ok }
    if x.abdGood = 0 then n
    else
      let cand := fun j => n.reg (pgCan u) (0x0C0 + 16 * x.abdIdx + 4 * j)
      let n := ((n.setReg (pgCan u) 0x044 (cand 0)).setReg (pgCan u) 0x048 (cand 1)).setReg (pgCan u) 0x050 (cand 3)
      let n := if xlOk (n.reg (pgCan u) 0x054) (cand 2) then n.setReg (pgCan u) 0x04C (cand 2)
        else n.regFault .rook (pgCan u) 0x04C cRSVD
      (n.onCan u fun x => { x with abdRun := false, abdFound := true }).raise (evCanErr u)

/-! ## Time slave (14 R389) -/

/-- Whether a frame is the reference message. -/
def Channel.isReference (k : Channel) (u : Unit2) (f : CanFrame) : Bool :=
  let r := k.reg (pgCan u) 0x144
  let m := (k.reg (pgCan u) 0x148).field 0 29
  f.fmt = 0 && !f.rtr && 1 ≤ f.dlen && f.ide == r.bit 29 && Nat.xor f.id (r.field 0 29) &&& m == 0

def Channel.ttRole (k : Channel) (u : Unit2) : Nat := (k.reg (pgCan u) 0x140).field 0 2

/-- A time slave takes a reference message. -/
def Node.slaveRef (n : Node) (u : Unit2) (f : CanFrame) (stamp : DWord) : Node :=
  if !(n.k.ttRole u = 1 && n.k.canMode u ≤ 1 && n.k.isReference u f) then n
  else
    (n.onCan u fun x =>
      { x with ttMark := stamp, ttCycle := (byteAt f.data 0).toNat % 64, ttValid := true }).servo (2 + u.num) stamp

/-! ## Received frames (14 R373, R386, R389) -/

/-- A controller that takes part in the bus. -/
def Channel.canUp (k : Channel) (u : Unit2) : Bool :=
  k.live (pgCan u) && ((k.can u).state = .active || (k.can u).state = .passive)

/-- The format of a frame is enabled (14 R398). -/
def Channel.fmtOn (k : Channel) (u : Unit2) (fmt : Nat) : Bool :=
  let c := k.reg (pgCan u) 0x040
  match fmt with
  | 0 => true | 1 => c.bit 6 | 2 => c.bit 7 | _ => false

/-- A frame of a format that is not enabled: a protocol exception, or a form error (14 R368). -/
def Node.fmtOff (n : Node) (u : Unit2) : Node :=
  if (n.reg (pgCan u) 0x040).bit 2 then n.onCan u fun x => { x with state := .integrating }
  else if (n.can u).abdRun then n.abdNext u
  else ((n.canCount u 13).onCan u fun x => { x with lec := 2, rxErr := x.rxErr + 1 }).canJudge u

/-- A frame valid on the bus. -/
def Node.canRxValid (n : Node) (u : Unit2) (f : CanFrame) (stamp : DWord) : Node :=
  if !n.k.fmtOn u f.fmt then n.fmtOff u
  else
    let n := if (n.can u).abdRun then n.abdFrame u f else (n.recDown u).canJudge u
    (n.slaveRef u f stamp).canStore u f false stamp

/-- LEC and the counter of an error that a receiver finds (14 R398, R399). -/
def rxErrCode : CanRxErr → Nat × Nat
  | .bit => (4, 10) | .stuff => (1, 11) | .form => (2, 13) | .crc => (5, 12)

/-- A received frame that ends in an error is discarded and counted (01 R30). The receive counter rises by 1, and by 8 for
each further error ISO 11898-1 counts so; in restricted mode no error frame is sent and the counter stands (log entry 59). With
EFDI an error in an XL data phase leaves the bus for integration (14 R390). During rate detection no counter moves and the next
candidate comes (R386). -/
def Node.canRxErr (n : Node) (u : Unit2) (e : CanRxErr) (xlData : Bool) (more : Nat) : Node :=
  if (n.can u).abdRun then n.abdNext u
  else
    let restricted := n.k.canMode u = 2
    let n := (n.canCount u (rxErrCode e).2).onCan u fun x =>
      { x with lec := (rxErrCode e).1, rxErr := if restricted then x.rxErr else x.rxErr + 1 + 8 * more }
    let n := n.canJudge u
    if restricted || (xlData && (n.reg (pgCan u) 0x054).bit 1) then n.onCan u fun x => { x with state := .integrating } else n

/-- What a controller receives; in internal loopback it reads no RXD, and an RXD without supply reads 0, which is no valid
frame (18 R486). -/
def Node.canRx (n : Node) (u : Unit2) (r : CanRx) (stamp : DWord) : Node :=
  if !n.k.canUp u || n.k.canMode u = 3 then n
  else match r with
    | .frame f => if n.fieldUp then n.canRxValid u f stamp else n
    | .error e xlData more => n.canRxErr u e xlData more

/-! ## Requests and aborts (14 R379, R380, R384) -/

/-- A length of the format. -/
def dlenOk (fmt dlen : Nat) : Bool :=
  match fmt with
  | 0 => dlen ≤ 8
  | 1 => dlen ≤ 8 || [12, 16, 20, 24, 32, 48, 64].contains dlen
  | _ => 1 ≤ dlen && dlen ≤ 2048

/-- The descriptor of a slot is good (14 R379, R380). -/
def Channel.canDescOk (k : Channel) (u : Unit2) (d : List Byte) : Bool :=
  let w := wordAt d 0
  let fmt := w.field 4 2
  let ctl := wordAt d 0x14
  let data := (wordAt d 0x10).toNat
  let len := if w.bit 7 then 0 else w.field 12 12
  w.field 0 4 = 0 && !w.bit 9 && !w.bit 11 && (wordAt d 4).field 29 3 = 0 && (fmt = 2 || wordAt d 8 = 0) &&
  (wordAt d 12).field 8 24 = 0 && ctl.field 1 7 = 0 && ctl.field 24 8 = 0 && ofBytesLE (slice d 0x28 24) = 0 &&
  k.fmtOn u fmt && (!w.bit 7 || fmt = 0) && dlenOk fmt (w.field 12 12) &&
  data % 4 = 0 && (len = 0 || inSram data len) && !(ctl.field 16 8 = 255 && ctl.field 8 8 = 0)

/-- A slot is requested. -/
def Node.canRequest (n : Node) (u : Unit2) (snd : Sender) (slot : Nat) : Node :=
  if (n.can u).items.any (fun it => it.slot = slot) then n.regFault snd (pgCan u) 0x084 cSTATE
  else if !n.k.live (pgCan u) then n.canReport u slot 0 0 stDOWN
  else
    let (n, r) := n.get (mCan u) (n.k.canDesc u slot) 64
    let n := match r with
      | .ok _ => n.canSeen1 (n.k.canDesc u slot) 64 (otherUnit u)
      | .denied | .ecc => n
    match r with
    | .denied => n.canReport u slot 0 0 stBAD_DESC
    | .ecc => n.canReport u slot 0 0 stECC_FAIL
    | .ok d =>
      if !n.k.canDescOk u d then n.canReport u slot 0 0 stBAD_DESC
      else if (n.can u).state = .busOff then n.canReport u slot 0 0 stBUS_OFF
      else
        let ctl := wordAt d 0x14
        let it : CanItem :=
          { slot := slot, words := (List.range 4).map fun i => wordAt d (4 * i), addr := (wordAt d 0x10).toNat,
            tick := ctl.bit 0, retry := ctl.field 16 8, retries := 0, again := false, fire := n.k.fireAt (ctl.field 8 8),
            fired := false, aborted := false, txts := 0 }
        n.onCan u fun x => { x with items := x.items ++ [it] }

def Node.canTxreq (n : Node) (u : Unit2) (snd : Sender) (v : Word) : Node :=
  v.bits.foldl (fun n s => n.canRequest u snd s) n

def Node.onCanItem (n : Node) (u : Unit2) (slot : Nat) (g : CanItem → CanItem) : Node :=
  n.onCan u fun x => { x with items := x.items.map fun it => if it.slot = slot then g it else it }

/-- A slot is aborted. -/
def Node.canAbort (n : Node) (u : Unit2) (slot : Nat) : Node :=
  match (n.can u).items.find? (fun it => it.slot = slot) with
  | none => n
  | some it =>
    if n.k.canOnBus u slot then n.onCanItem u slot fun it => { it with aborted := true } else n.canDone u it stABORTED

def Node.canTxabort (n : Node) (u : Unit2) (v : Word) : Node := v.bits.foldl (fun n s => n.canAbort u s) n

/-! ## Attempts (14 R381–R383, R388) -/

/-- The arbitration bits of a frame as a number: the lower one wins on the bus. -/
def arbKey (fmt : Nat) (ide rtr : Bool) (id : Nat) : Nat :=
  if ide && fmt ≠ 2 then
    ((id / 2 ^ 18 % 2 ^ 11 * 2 + 1) * 2 + 1) * 2 ^ 20 + (id % 2 ^ 18) * 4 + 2 * rtr.toNat + (if fmt = 1 then 1 else 0)
  else
    ((id % 2 ^ 11 * 2 + rtr.toNat) * 2) * 2 ^ 20 + (if fmt = 0 then 0 else 2 ^ 19) + (if fmt = 2 then 2 ^ 18 else 0)

def CanItem.word (it : CanItem) (i : Nat) : Word := it.words.getD i 0

/-- The frame of an item (14 R374), ESI from the error state. -/
def CanItem.frame (it : CanItem) (esi : Bool) (data : List Byte) : CanFrame :=
  let w := it.word 0
  { fmt := w.field 4 2, ide := w.bit 6, rtr := w.bit 7, brs := w.bit 8, esi := esi && w.field 4 2 = 1, sec := w.bit 10,
    dlen := w.field 12 12, sdt := BitVec.ofNat 8 (w.field 24 8), id := (it.word 1).field 0 29, af := it.word 2,
    vcid := BitVec.ofNat 8 ((it.word 3).field 0 8), data := data }

def CanItem.key (it : CanItem) : Nat :=
  let f := it.frame false []
  arbKey f.fmt f.ide f.rtr f.id

/-- The reference message of a time master (14 R388). -/
def Channel.refFrame (k : Channel) (u : Unit2) : CanFrame :=
  let r := k.reg (pgCan u) 0x144
  let dlc := (k.reg (pgCan u) 0x140).field 24 4
  let d := bytesLE 1 (k.can u).ttCycle ++ bytesLE 4 (k.reg (pgCan u) 0x150).toNat ++ bytesLE 3 (k.reg (pgCan u) 0x154).toNat
  { fmt := 0, ide := r.bit 29, rtr := false, brs := false, esi := false, sec := false, dlen := dlc, sdt := 0,
    id := r.field 0 29, af := 0, vcid := 0, data := d.take dlc }

/-- The pending item whose frame would win arbitration, the lower slot at a tie (14 R381). -/
def canBest (items : List CanItem) : Option CanItem :=
  items.foldl (fun b it => match b with
    | none => some it
    | some x => if it.key < x.key then some it else some x) none

/-- The reference message waits, and no item beats it. -/
def Channel.refFirst (k : Channel) (u : Unit2) (it : Option CanItem) : Bool :=
  (k.can u).refPend && k.ttRole u = 2 &&
  (let f := k.refFrame u
   match it with
   | none => true
   | some x => arbKey f.fmt f.ide f.rtr f.id ≤ x.key)

/-- A read of the transmitter as the other controller sees it (14 R377). -/
def Node.exitShow (n : Node) (u : Unit2) (a len : Nat) : Node × MemRes × Bool :=
  let got := n.k.readable a len
  let (n, r, miss) := n.exitRead (mCan u) 2 a len
  (match r with
   | .ok _ => n.canSeen1 a len (otherUnit u)
   | .ecc => n.canSeen1 a got (otherUnit u)
   | .denied => n, r, miss)

/-- The winning slot is loaded and verified (14 R381); an item that fails ends, and the next is loaded. -/
def Node.canLoad (u : Unit2) (stamp : DWord) : Nat → Node → Node
  | 0, n => n
  | fuel + 1, n =>
    let best := canBest (n.k.canOpen u)
    if n.k.refFirst u best then
      n.onCan u fun x => { x with bus := .reference, txTs := stamp, txData := (n.k.refFrame u).data }
    else match best with
    | none => n
    | some it =>
      let len := canBytes (it.frame false [])
      let (n, r1, m1) := n.exitShow u (n.k.canDesc u it.slot) 64
      let (n, r2, m2) := if len = 0 then (n, MemRes.ok [], false) else n.exitShow u it.addr len
      match r1, r2 with
      | .denied, _ => Node.canLoad u stamp fuel (n.canDone u it stABORTED)
      | _, .denied => Node.canLoad u stamp fuel (n.canDone u it stABORTED)
      | .ecc, _ => Node.canLoad u stamp fuel (n.canDone u it stECC_FAIL)
      | _, .ecc => Node.canLoad u stamp fuel (n.canDone u it stECC_FAIL)
      | .ok _, .ok data =>
        if m1 || m2 then Node.canLoad u stamp fuel (n.canDone u it stCARRY_FAIL)
        else
          let n := if it.again then n.canCount u 7 else n
          let n := n.onCanItem u it.slot fun x =>
            { x with txts := stamp, retries := if x.again then x.retries + 1 else x.retries, again := false }
          n.onCan u fun x => { x with bus := .slot it.slot, txTs := stamp, txData := data }

/-- An attempt starts at bus idle, which an RXD without supply never shows; internal loopback reads no RXD (14 R369, R381). -/
def Node.canAttempt (n : Node) (u : Unit2) (stamp : DWord) : Node :=
  if n.k.canUp u && ((n.k.canMode u = 0 && n.fieldUp) || n.k.canMode u = 3) && (n.can u).bus = .quiet && (n.can u).newMode.isNone then
    Node.canLoad u stamp 33 n
  else n

/-- LEC and the counter of an error: 0 for none (14 R398, R399). -/
def canErrCode : CanEnd → Nat × Nat
  | .bitErr => (4, 10) | .stuffErr => (1, 11) | .crcErr => (5, 12) | .formErr => (2, 13) | .ackErr => (3, 14)
  | .success | .lostArbitration => (0, 0)

/-- The error of a transmitter: LEC, its counter, TEC by the rules of ISO 11898-1 (14 R368); with EFDI an XL frame's error
in its data phase leaves the bus for integration (R390). -/
def Node.canTxErr (n : Node) (u : Unit2) (r : CanEnd) (xlData : Bool) : Node :=
  let (lec, i) := canErrCode r
  let quiet := r = .ackErr && (n.can u).state = .passive
  let n := (n.canCount u i).onCan u fun x => { x with lec := lec, tec := if quiet then x.tec else x.tec + 8 }
  let n := n.canJudge u
  if xlData && (n.reg (pgCan u) 0x054).bit 1 && (n.can u).state ≠ .busOff then
    n.onCan u fun x => { x with state := .integrating }
  else n

/-- A frame was sent: TEC falls. -/
def Node.canTxOk (n : Node) (u : Unit2) : Node := (n.onCan u fun x => { x with tec := x.tec - 1, lec := 0 }).canJudge u

/-- The controller's own frame, where SELFRX asks for it (14 R373). -/
def Node.selfRx (n : Node) (u : Unit2) (f : CanFrame) (stamp : DWord) : Node :=
  if (n.reg (pgCan u) 0x040).bit 5 then n.canStore u f true stamp else n

/-- The reference message on the bus is over, sent or replaced: the next one stands where it is requested (14 R388). -/
def Node.refGone (n : Node) (u : Unit2) : Node :=
  n.onCan u fun x => { x with refPend := x.refNext, refOld := false, refNext := false }

/-- The reference message's attempt ends (14 R388); one that a new period has overtaken on the bus is replaced if it was not
sent (log entry 26). -/
def Node.refEnd (n : Node) (u : Unit2) (r : CanEnd) : Node :=
  let x := n.can u
  let missed := fun (n : Node) => if x.refOld then (n.canHalf u 16).refGone u else n
  match r with
  | .success =>
    let f := { n.k.refFrame u with data := x.txData }
    let max := (n.reg (pgCan u) 0x140).field 8 6
    let n := (n.onCan u fun x =>
      { x with ttMark := x.txTs, ttCycle := if x.ttCycle = max then 0 else (x.ttCycle + 1) % 64 }).refGone u
    ((n.canTxOk u).canCount u 6).selfRx u f x.txTs
  | .lostArbitration => missed (n.canCount u 9)
  | _ => missed (n.canTxErr u r false)

/-- Whether an item may be retried after an erroneous attempt (14 R382). -/
def Channel.canRetry (k : Channel) (u : Unit2) (it : CanItem) : Bool :=
  !(k.reg (pgCan u) 0x040).bit 3 && (it.retry = 255 || it.retries < it.retry)

/-- Whether every data-phase bit is checked inside its own time on RXD, which lags TXD by the loop delay (14 R372): at the
secondary sample point with a delay of at most 127 cycles, or at the ordinary sample point while compensation of the phase is
off (log entry 59). -/
def Channel.dataSampled (k : Channel) (u : Unit2) (f : CanFrame) (delay : Nat) : Bool :=
  let tdc := k.reg (pgCan u) 0x050
  let ok := fun (w : Word) (on : Bool) (sspo : Nat) =>
    let sp := (w.field 0 5 + 1) * (1 + (w.field 8 5 + 1))
    if on then delay ≤ 127 && sspo < dataBitTime w else delay ≤ sp && sp < delay + dataBitTime w
  match f.fmt with
  | 1 => !f.brs || ok (k.reg (pgCan u) 0x048) (tdc.bit 7) (tdc.field 0 7)
  | 2 => ok (k.reg (pgCan u) 0x04C) (tdc.bit 23) (tdc.field 16 7)
  | _ => true

/-- How an attempt with frame `f` ends: what the bus brought, in internal loopback always success (14 R369); a data phase
sampled outside its bits, and an RXD without supply, are bit errors. With the end goes whether it lies in the data phase. -/
def Node.endSeen (n : Node) (u : Unit2) (f : CanFrame) (r : CanEnd) (data : Bool) (delay : Nat) : CanEnd × Bool :=
  if n.k.canMode u = 3 then (.success, false)
  else match r with
    | .success | .ackErr =>
      if !n.k.dataSampled u f delay then (.bitErr, true) else if r = .success && !n.fieldUp then (.bitErr, false) else (r, false)
    | .lostArbitration => (r, false)
    | .bitErr | .stuffErr | .formErr | .crcErr => (r, data)

/-- An item's attempt ends (14 R382–R384, R394). -/
def Node.itemEnd (n : Node) (u : Unit2) (it : CanItem) (r : CanEnd) (data : Bool) : Node :=
  let x := n.can u
  let f := it.frame (x.state = .passive) x.txData
  match r with
  | .success =>
    let n := (n.canTxOk u).selfRx u f x.txTs
    if it.fired then (n.canCount u 8).canDone u it stTIMEOUT else (n.canCount u 6).canDone u it stOK
  | .lostArbitration =>
    let n := n.canCount u 9
    if it.fired then n.canDone u it stTIMEOUT else if it.aborted then n.canDone u it stABORTED else n
  | _ =>
    let stop := if it.fired then some stTIMEOUT else if it.aborted then some stABORTED
      else if n.k.canRetry u it then none else some (if r = .ackErr then stNAK else stABORTED)
    let n := match stop with
      | some st => n.canDone u it st
      | none => n.onCanItem u it.slot fun x => { x with again := true }
    n.canTxErr u r (data && f.fmt = 2)

/-- An attempt ends. -/
def Node.canAttemptOver (n : Node) (u : Unit2) (r : CanEnd) (data : Bool) (delay : Nat) : Node :=
  if !n.k.live (pgCan u) then n
  else
    let x := n.can u
    let n := n.onCan u fun x => { x with bus := .quiet }
    match x.bus with
    | .quiet => n
    | .reference => n.refEnd u (n.endSeen u (n.k.refFrame u) r data delay).1
    | .slot s => match x.items.find? (fun it => it.slot = s) with
      | some it =>
        let e := n.endSeen u (it.frame (x.state = .passive) x.txData) r data delay
        n.itemEnd u it e.1 e.2
      | none => n

/-- A deadline fires (14 R383). -/
def Node.canDeadline (n : Node) (u : Unit2) (slot : Nat) : Node :=
  match (n.can u).items.find? (fun it => it.slot = slot) with
  | none => n
  | some it =>
    if it.fired || !n.k.due it.fire then n
    else if n.k.canOnBus u slot then n.onCanItem u slot fun x => { x with fired := true }
    else n.canDone u it stTIMEOUT

/-! ## Time master (14 R388) -/

/-- At a whistle: every REFPER-th arms a reference message, and one still unsent goes; one on the bus is left to its attempt
(log entry 26). -/
def Node.canWhistle (n : Node) (u : Unit2) : Node :=
  let per := (n.reg (pgCan u) 0x140).field 16 8
  if n.k.live (pgCan u) && n.k.ttRole u = 2 && n.k.wh.count.toNat % max 1 per = 0 then
    if (n.can u).bus = .reference then n.onCan u fun x => { x with refArm := true, refOld := true }
    else (if (n.can u).refPend then n.canHalf u 16 else n).onCan u fun x => { x with refArm := true, refPend := false }
  else n

/-- The reference message is requested, TTOFS after its whistle. -/
def Node.refRequest (n : Node) (u : Unit2) : Node :=
  if n.k.live (pgCan u) && n.k.ttRole u = 2 && (n.can u).refArm then
    n.onCan u fun x =>
      if x.refOld then { x with refArm := false, refNext := true } else { x with refArm := false, refPend := true }
  else n

/-! ## Modes and the block's ends (14 R385, R389, R392; 17 R478) -/

/-- CFG.MODE takes a new value (14 R389, R392). -/
def Node.modeNow (n : Node) (u : Unit2) (m : Nat) : Node :=
  let n := n.setField (pgCan u) 0x040 0 2 m
  n.onCan u fun x =>
    { x with newMode := none, ttValid := x.ttValid && m ≤ 1, abdRun := x.abdRun && m = 1 }

/-- A controller stops: its items end with a status, and the bus is left. -/
def Node.canStop (n : Node) (u : Unit2) (st : Byte) : Node :=
  let n := n.canEndAll u st
  let n := match (n.can u).newMode with
    | some m => n.modeNow u m
    | none => n
  n.onCan u fun x =>
    { x with bus := .quiet, state := .integrating, recover := false, abdRun := false, ttValid := false, refArm := false,
             refPend := false, refOld := false, refNext := false }

/-- A controller starts: it integrates with its error counters at 0. -/
def Node.canStart (n : Node) (u : Unit2) : Node :=
  n.onCan u fun x => { x with state := .integrating, tec := 0, rxErr := 0, lec := 0, recover := false }

/-- CTRL.RECOVER. -/
def Node.canRecover (n : Node) (u : Unit2) : Node :=
  if (n.can u).state = .busOff then n.onCan u fun x => { x with recover := true } else n

/-- 128 occurrences of 11 recessive bits have been seen, which an RXD without supply never shows. -/
def Node.recoveryEnd (n : Node) (u : Unit2) : Node :=
  let x := n.can u
  if n.fieldUp && n.k.live (pgCan u) && x.state = .busOff && (x.recover || (n.reg (pgCan u) 0x040).bit 4) then
    (n.onCan u fun x => { x with state := .integrating, tec := 0, rxErr := 0, recover := false }).raise (evCanErr u)
  else n

/-- Integration ends; an RXD stuck at 0 keeps the controller integrating (14 R397), but in internal loopback it is not read. -/
def Node.integrated (n : Node) (u : Unit2) : Node :=
  if (n.fieldUp || n.k.canMode u = 3) && n.k.live (pgCan u) && (n.can u).state = .integrating then
    n.onCan u fun x => { x with state := canStateOf x.tec x.rxErr }
  else n

/-! ## Registers (14 R392, R398) -/

/-- The registers that keep their values while ENABLE is 1 (14 R392). -/
def canFixed : List Nat := [0x044, 0x048, 0x04C, 0x050, 0x054, 0x060, 0x064, 0x068, 0x06C, 0x080]

/-- CFG: while ENABLE is 1 only MODE is taken, at the next bus idle. -/
def Node.canCfg (n : Node) (u : Unit2) (snd : Sender) (v : Word) : Node :=
  if !n.k.enabled (pgCan u) then
    let n := n.writeFields snd (pgCan u) 0x040 v
    n.onCan u fun x => { x with ttValid := x.ttValid && v.field 0 2 ≤ 1 }
  else
    let n := n.onCan u fun x => { x with newMode := some (v.field 0 2) }
    if v.field 2 6 = (n.reg (pgCan u) 0x040).field 2 6 then n else n.regFault snd (pgCan u) 0x040 cSTATE

/-- RQACK: a value that passes RQPUT is rejected (14 R378). -/
def Node.rqack (n : Node) (u : Unit2) (snd : Sender) (v : Word) : Node :=
  let size := canQCount n.k (pgCan u)
  let x := v.field 0 7
  let ahead := fun y => (y + size - n.k.canAckIdx u % size) % size
  if x < size && ahead x ≤ ahead (n.k.canPutIdx u) then n.setField (pgCan u) 0x074 0 7 x
  else n.regFault snd (pgCan u) 0x074 cRSVD

/-- A register of a CAN page written. -/
def Node.canWrite (n : Node) (u : Unit2) (snd : Sender) (off : Nat) (v : Word) : Node :=
  if canFixed.contains off then
    (if n.k.enabled (pgCan u) then n.regFault snd (pgCan u) off cSTATE else n.writeFields snd (pgCan u) off v)
  else match off with
  | 0x040 => n.canCfg u snd v
  | 0x05C => if v.bit 0 then n.canRecover u else n
  | 0x074 => n.rqack u snd v
  | 0x078 => if n.k.canWatches u && n.k.canHas u (v.field 0 9) then n.objRelease u (v.field 0 9) else n
  | 0x084 => n.canTxreq u snd v
  | 0x08C => n.canTxabort u v
  | 0x0A0 =>
    let n := n.writeFields snd (pgCan u) 0x0A0 v
    if v.bit 0 then n.abdStart u else n
  | 0x140 =>
    let n := n.writeFields snd (pgCan u) 0x140 v
    if n.k.ttRole u = 2 then n else n.onCan u fun x => { x with refArm := false, refPend := false, refNext := false }
  | _ => n.writeFields snd (pgCan u) off v

def canErrNum : CanErr → Nat
  | .active => 0 | .passive => 1 | .busOff => 2 | .integrating => 3

/-- A register of a CAN page read; a read of TTMARK_LO latches TTMARK_HI (14 R398). -/
def Node.canRead (n : Node) (u : Unit2) (off : Nat) : Node × Word :=
  let x := n.can u
  match off with
  | 0x040 => (n, match x.newMode with
      | some m => (n.k.view (pgCan u) off).setField 0 2 m
      | none => n.k.view (pgCan u) off)
  | 0x058 => (n, BitVec.ofNat 32 (canErrNum x.state + 256 * min 255 x.tec + 65536 * min 255 x.rxErr + 2 ^ 24 * x.lec))
  | 0x088 => (n, BitVec.ofNat 32 ((x.items.map fun it => 2 ^ it.slot).sum))
  | 0x0A4 => (n, BitVec.ofNat 32 (x.abdRun.toNat + 2 * x.abdFound.toNat + 4 * x.abdFail.toNat + 16 * x.abdIdx +
      128 * (x.abdFound && x.abdOk).toNat))
  | 0x158 => (n, BitVec.ofNat 32 (x.ttValid.toNat + 256 * x.ttCycle))
  | 0x15C => (n.onCan u fun x => { x with ttHi := BitVec.ofNat 32 (x.ttMark.toNat / 2 ^ 32) },
      BitVec.ofNat 32 x.ttMark.toNat)
  | 0x160 => (n, x.ttHi)
  | 0x164 => (n, if x.ttValid then BitVec.ofNat 32 (n.k.now - x.ttMark).toNat else 0xFFFFFFFF)
  | _ => (n, n.k.view (pgCan u) off)

/-! ## The commands -/

/-- A controller receives a frame, valid or with an error; `stamp` is TIME_NOW at its SOF. -/
def execCanRxFrame (c : Ch) (u : Unit2) (r : CanRx) (stamp : DWord) (s : State) : Out :=
  .next (s.within c fun n => n.canRx u r stamp)

/-- A write of CANn_TXREQ. -/
def execCanTxreq (snd : Sender) (c : Ch) (u : Unit2) (v : Word) (s : State) : Out :=
  .next (s.regCmd snd c (pgCan u) 0x084 fun n => n.canWrite u snd 0x084 v)

/-- A write of CANn_TXABORT. -/
def execCanTxabort (snd : Sender) (c : Ch) (u : Unit2) (v : Word) (s : State) : Out :=
  .next (s.regCmd snd c (pgCan u) 0x08C fun n => n.canWrite u snd 0x08C v)

/-- At bus idle an attempt of the winning frame starts; `stamp` is TIME_NOW at its SOF. -/
def execCanAttemptStart (c : Ch) (u : Unit2) (stamp : DWord) (s : State) : Out :=
  .next (s.within c fun n => n.canAttempt u stamp)

/-- The attempt on the bus ends. -/
def execCanAttemptEnd (c : Ch) (u : Unit2) (r : CanOver) (s : State) : Out :=
  .next (s.within c fun n => n.canAttemptOver u r.how r.data r.delay)

/-- A slot's deadline fires. -/
def execCanDeadline (c : Ch) (u : Unit2) (slot : Fin 32) (s : State) : Out :=
  .next (s.within c fun n => if n.k.live (pgCan u) then n.canDeadline u slot else n)

/-- A write of CANn_CTRL.RECOVER. -/
def execRecover (snd : Sender) (c : Ch) (u : Unit2) (s : State) : Out :=
  .next (s.regCmd snd c (pgCan u) 0x05C fun n => n.canWrite u snd 0x05C 1)

/-- Bus-off recovery is complete. -/
def execBusOffRecoveryEnd (c : Ch) (u : Unit2) (s : State) : Out :=
  .next (s.within c fun n => n.recoveryEnd u)

/-- A master's read that covers word 0 of an object header; the sender's own read commands act through `canSeen`. -/
def execObjectHeaderRead (snd : Sender) (c : Ch) (u : Unit2) (i : Nat) (s : State) : Out :=
  .next (s.within c fun n =>
    if !(n.k.canWatches u && n.k.canHas u i) || snd = .pf4 then n
    else
      let (n, r) := n.get snd.id (n.k.canHdrAt u i) 4
      match r with
      | .ok _ => n.objLock u i
      | .denied | .ecc => n)

/-- A master's read that covers the last word of the frame an object's header names. -/
def execObjectLastWordRead (snd : Sender) (c : Ch) (u : Unit2) (i : Nat) (s : State) : Out :=
  .next (s.within c fun n =>
    if !(n.k.canWatches u && n.k.canHas u i) || snd = .pf4 then n
    else
      let (n, r) := n.get snd.id (n.k.lastWordAt u i) 4
      match r with
      | .ok _ => n.objRelease u i
      | .denied | .ecc => n)

/-- A write of CANn_OBJUNLOCK. -/
def execObjunlock (snd : Sender) (c : Ch) (u : Unit2) (v : Word) (s : State) : Out :=
  .next (s.regCmd snd c (pgCan u) 0x078 fun n => n.canWrite u snd 0x078 v)

/-- A write of CANn_RQACK. -/
def execCanRqack (snd : Sender) (c : Ch) (u : Unit2) (v : Word) (s : State) : Out :=
  .next (s.regCmd snd c (pgCan u) 0x074 fun n => n.canWrite u snd 0x074 v)

/-- A write of CANn_ABDCFG with START 1. -/
def execAbdStart (snd : Sender) (c : Ch) (u : Unit2) (v : Word) (s : State) : Out :=
  .next (s.regCmd snd c (pgCan u) 0x0A0 fun n => n.canWrite u snd 0x0A0 (v.setBit 0 true))

/-- The dwell of the candidate ends without acceptance. -/
def execAbdDwellExpiry (c : Ch) (u : Unit2) (s : State) : Out :=
  .next (s.within c fun n => if n.k.live (pgCan u) && (n.can u).abdRun then n.abdNext u else n)

/-- The time master requests its reference message. -/
def execReferenceMessageRequest (c : Ch) (u : Unit2) (s : State) : Out :=
  .next (s.within c fun n => n.refRequest u)

/-- No reference message within TTTIMEOUT. -/
def execTtTimeout (c : Ch) (u : Unit2) (s : State) : Out :=
  .next (s.within c fun n => if n.k.live (pgCan u) then n.onCan u fun x => { x with ttValid := false } else n)

/-- Bus idle lets a new MODE act. -/
def execCanModeChange (c : Ch) (u : Unit2) (s : State) : Out :=
  .next (s.within c fun n =>
    if !n.k.running || (n.can u).bus ≠ .quiet then n
    else match (n.can u).newMode with
      | some m => n.modeNow u m
      | none => n)

/-- A read of CANn_TTMARK_LO. -/
def execTtmarkLoRead (snd : Sender) (c : Ch) (u : Unit2) (s : State) : Out :=
  .next (s.regRead snd c (pgCan u) 0x15C fun n => n.canRead u 0x15C)

/-- Integration ends. -/
def execBusIntegration (c : Ch) (u : Unit2) (s : State) : Out :=
  .next (s.within c fun n => n.integrated u)

end Sys2Proof.Machine
end

