-- ==== Sys2Proof/Machine/Pool.lean ====
section
/-!
DEFINITION. The receive pool (12 R314, R330, R339, R340). Buffers go out in the order they were freed.
-/

namespace Sys2Proof.Machine

def Node.onCls (n : Node) (g : Classifier → Classifier) : Node := n.onK fun k => { k with cls := g k.cls }

/-- A counter of the CLS page (12 R342). -/
def Node.clsCount (n : Node) (i : Nat) : Node := n.count pgCLS (0x100 + 4 * i)

def Channel.poolBase (k : Channel) : Nat := (k.reg pgCLS 0x07C).toNat / 2048 * 2048
def Channel.poolEn (k : Channel) : Bool := (k.reg pgCLS 0x080).bit 0

/-- The address of buffer i. -/
def Channel.bufAddr (k : Channel) (i : Nat) : Nat := k.poolBase + i * poolBufSize k

/-- The buffer that starts at an address. -/
def Channel.bufIdx (k : Channel) (a : Nat) : Option Nat :=
  if k.poolEn && k.poolBase ≤ a && (a - k.poolBase) % poolBufSize k = 0 && (a - k.poolBase) / poolBufSize k < poolCount k
  then some ((a - k.poolBase) / poolBufSize k) else none

/-- A buffer returns to the free list. -/
def Node.freeBuf (n : Node) (a : Nat) : Node :=
  match n.k.bufIdx a with
  | none => n
  | some i => n.onCls fun x =>
      { x with free := if x.free.contains i then x.free else x.free ++ [i], fwHeld := x.fwHeld.filter (· ≠ i) }

/-- The next free buffer is taken. -/
def Node.takeBuf (n : Node) : Node × Option Nat :=
  match n.k.cls.free with
  | [] => (n, none)
  | i :: l => (n.onCls fun x => { x with free := l }, some (n.k.bufAddr i))

/-- A buffer passes to channel firmware (12 R330). -/
def Node.giveFw (n : Node) (a : Nat) : Node :=
  match n.k.bufIdx a with
  | none => n
  | some i => n.onCls fun x => { x with fwHeld := i :: x.fwHeld.filter (· ≠ i) }

/-- Whether channel firmware holds the buffer that starts at an address. -/
def Channel.fwHolds (k : Channel) (a : Nat) : Bool :=
  match k.bufIdx a with
  | none => false
  | some i => k.cls.fwHeld.contains i

/-- Every buffer is free. -/
def Channel.allFree (k : Channel) : Bool := k.cls.free.length = poolCount k

/-- The pool's place in SRAM is in order (12 R331). -/
def Channel.poolFits (k : Channel) (log2n bufsz : Nat) : Bool :=
  inSram k.poolBase (2 ^ log2n * (2048 * 2 ^ bufsz)) && k.poolBase % (2048 * 2 ^ bufsz) == 0

/-- A write of CLS_POOLCFG (12 R331, R340, R341; log entry 23). -/
def Node.poolCfg (n : Node) (snd : Sender) (v : Word) : Node :=
  let old := n.reg pgCLS 0x080
  if old.bit 0 then
    if (v ^^^ old) &&& 0xF06 ≠ 0 then n.regFault snd pgCLS 0x080 cSTATE
    else if v.bit 0 then n
    else if !n.k.allFree then n.regFault snd pgCLS 0x080 cSTATE
    else (n.setField pgCLS 0x080 0 1 0).onCls fun x => { x with free := [], fwHeld := [] }
  else
    let n := n.writeFields snd pgCLS 0x080 (v.setBit 0 false)
    if !v.bit 0 then n
    else
      let w := n.reg pgCLS 0x080
      if !n.k.poolFits (w.field 8 4) (w.field 1 2) then n.regFault snd pgCLS 0x080 cRSVD
      else
        let n := n.setField pgCLS 0x080 0 1 1
        n.onCls fun x => { x with free := List.range (poolCount n.k), fwHeld := [] }

/-- A write of CLS_BUFFREE (12 R330, R339): BADFREE (0x11). -/
def Node.bufFree (n : Node) (snd : Sender) (v : Word) : Node :=
  if n.k.fwHolds v.toNat then n.freeBuf v.toNat else n.regFault snd pgCLS 0x088 0x11

end Sys2Proof.Machine
end

