-- ==== Sys2Proof/Machine/Dma.lean ====
section
/-!
DEFINITION. DMA rings (05 R144–R150, R157, R159–R161, R163; 17 R475–R478). Host memory lies outside: what the device
reads from it comes with the command, and what it writes goes into the link's transmit queue (log entry 10).
-/

namespace Sys2Proof.Machine

/-- The ring block of function f and ring r (05 R163). -/
def dmaB (f r : Nat) : Nat := 0x100 + 0x100 * f + 0x20 * r

def dmaBlank : DmaRing := ⟨[], 0, false, false, 0, []⟩

def Channel.ring (k : Channel) (f r : Nat) : DmaRing := (SMap.get? k.dma (f * 8 + r)).getD dmaBlank

def Node.setRing (n : Node) (f r : Nat) (x : DmaRing) : Node :=
  n.onK fun k => { k with dma := SMap.put dmaBlank k.dma (f * 8 + r) x }

def Node.onItems (n : Node) (f r : Nat) (g : List DmaItem → List DmaItem) : Node :=
  n.setRing f r { n.k.ring f r with items := g (n.k.ring f r).items }

def Channel.ringCfg (k : Channel) (f r : Nat) : Word := k.reg pgDMA (dmaB f r + 0x10)
def Channel.ringEn (k : Channel) (f r : Nat) : Bool := (k.ringCfg f r).bit 0
def Channel.ringKind (k : Channel) (f r : Nat) : Nat := (k.ringCfg f r).field 1 2
def Channel.ringSize (k : Channel) (f r : Nat) : Nat := 2 ^ (k.ringCfg f r).field 4 4
def Channel.ringProd (k : Channel) (f r : Nat) : Nat := (k.reg pgDMA (dmaB f r + 0x14)).field 0 12
def Channel.ringCons (k : Channel) (f r : Nat) : Nat := (k.reg pgDMA (dmaB f r + 0x18)).field 0 12
def Channel.ringStopped (k : Channel) (f r : Nat) : Bool := (k.reg pgDMA (dmaB f r + 0x1C)).bit 0

/-- The master a function's DMA is (06 R165). -/
def dmaMaster (f : Nat) : Nat := mPF + f

/-- A function may issue requests: PCIe selected, link up, Bus Master Enable set, D0 (05 R134, R159). -/
def Node.canIssue (n : Node) (f : Nat) : Bool :=
  let x := n.host.fn (chFn n.c f)
  !n.host.elofSel && n.host.linkUp && x.bme && !x.d3hot

/-- A ring that works (05 R150, R157, R159). -/
def Channel.ringLive (k : Channel) (f r : Nat) : Bool :=
  k.live pgDMA && k.ringEn f r && !k.ringStopped f r && !(k.ring f r).dead

/-- DMA_RINGSTAT.LASTSTAT. -/
def Node.lastStat (n : Node) (f r : Nat) (st : Byte) : Node := n.setField pgDMA (dmaB f r + 0x1C) 8 8 st.toNat

/-- A bad descriptor stops its ring (05 R157). -/
def Node.ringStop (n : Node) (f r : Nat) : Node :=
  ((n.setField pgDMA (dmaB f r + 0x1C) 0 1 1).lastStat f r stBAD_DESC).raise evDMA_ERR

/-! ## Items -/

def DmaItem.blank (idx : Nat) : DmaItem :=
  { idx := idx, haddr := 0, saddr := 0, len := 0, irq := false, tick := false, fence := false, tag := 0, fire := none,
    started := false, asked := 0, done := 0, tries := 0, retries := 0, info := 0, more := false, buf := none, outcome := none }

/-- The descriptor's fields (05 R145), and whether its reserved fields and its lengths are in order (05 R157). -/
def dmaParse (k : Channel) (kind idx : Nat) (d : List Byte) : DmaItem × Bool :=
  let lw := wordAt d 0x0C
  let fl := wordAt d 0x10
  let len := lw.field 0 23
  let ok := d.length = 32 && lw.field 23 9 = 0 && fl.field 3 5 = 0 && fl.field 16 16 = 0 &&
    ofBytesLE (slice d 0x18 8) = 0 && 1 ≤ len && len ≤ 0x400000 &&
    (if kind = 2 then len % 64 = 0 else inSram (wordAt d 0x08).toNat len)
  ({ DmaItem.blank idx with
     haddr := ofBytesLE (slice d 0 8), saddr := (wordAt d 0x08).toNat, len := len, irq := fl.bit 0,
     tick := kind ≠ 2 && fl.bit 1, fence := kind ≠ 2 && fl.bit 2, tag := wordAt d 0x14,
     fire := if kind = 2 then none else k.fireAt (fl.field 8 8) }, ok)

/-- Bytes at an address cut at multiples of `max`; the first number bounds the pieces. -/
def pieces (max : Nat) : Nat → Nat → List Byte → List (Nat × List Byte)
  | 0, _, _ => []
  | m + 1, a, bs =>
    if bs.isEmpty then []
    else (a, bs.take (max - a % max)) :: pieces max m (a + (max - a % max)) (bs.drop (max - a % max))

/-- DMA data written to host memory (05 R151) in writes of the maximum payload of 256 bytes (05 R136, R157). -/
def Node.dmaOut (n : Node) (f addr : Nat) (bs : List Byte) : Node :=
  let ro := (n.reg pgDMA 0x040).bit 4 && (n.host.fn (chFn n.c f)).ro
  (pieces 256 (bs.length / 256 + 2) addr bs).foldl (fun n p => n.upstream (.write (chFn n.c f) p.1 p.2 ro)) n

/-- The first block of a range with an uncorrectable error, in address order. -/
def Channel.firstBad (k : Channel) (a len : Nat) : Option Nat :=
  (blocksOf a len).find? fun b =>
    !(eccIn k.ecc.ue .sram (SRAM0 + b * 64) 64).isEmpty || k.ecc.ueTag.contains b

/-- A C2H copy: the blocks are verified, the data is not held back (10 R281). Where a block meets an uncorrectable
error, the bytes before it have left (log entry 22). -/
def Node.dmaCopyOut (n : Node) (f r : Nat) (it : DmaItem) : Node × DmaItem :=
  let bad := n.k.firstBad it.saddr it.len
  let data := n.k.sram.read it.saddr it.len
  let (n, res, miss) := n.exitBy (dmaMaster f) 3 it.saddr it.len
  match res with
  | .denied => (n.ringStop f r, { it with started := true, outcome := some stBAD_DESC })
  | .ecc =>
    let sent := match bad with
      | some b => SRAM0 + b * 64 - it.saddr
      | none => 0
    let n := if sent = 0 then n else n.dmaOut f it.haddr (data.take sent)
    (n, { it with started := true, done := sent, outcome := some stECC_FAIL })
  | .ok _ =>
    (n.dmaOut f it.haddr data,
     { it with started := true, done := it.len, outcome := some (if miss then stCARRY_FAIL else stOK) })

/-- An item starts: a KIND 0 item asks for its data as requests become free, a KIND 1 item moves it (05 R144). -/
def Node.dmaBegin (n : Node) (f r kind : Nat) (it : DmaItem) : Node × DmaItem :=
  if kind = 0 then (n, { it with started := true })
  else if kind = 1 then n.dmaCopyOut f r it
  else (n, it)

/-- The items of a ring start in order, a FENCE item only with nothing open before it (05 R145, R147). `acc` are the
items already passed. -/
def Node.dmaGo (n : Node) (f r kind : Nat) : List DmaItem → List DmaItem → Node
  | [], acc => n.onItems f r fun _ => acc
  | it :: its, acc =>
    if it.started || it.outcome.isSome then Node.dmaGo n f r kind its (acc ++ [it])
    else if it.fence && !acc.isEmpty then n.onItems f r fun _ => acc ++ it :: its
    else
      let (n, it) := n.dmaBegin f r kind it
      if it.outcome = some stBAD_DESC then n.onItems f r fun _ => acc ++ it :: its
      else Node.dmaGo n f r kind its (acc ++ [it])

/-- The items that may start: on a stopped ring those before the bad descriptor, which none is once its record is written
(05 R157). -/
def Channel.startable (k : Channel) (f r : Nat) : List DmaItem :=
  let items := (k.ring f r).items
  if !k.ringStopped f r then items
  else if items.any fun it => it.outcome = some stBAD_DESC then items.takeWhile fun it => it.outcome ≠ some stBAD_DESC
  else []

/-- The items of a ring start as far as they may; the others keep their places. -/
def Node.dmaStart (n : Node) (f r : Nat) : Node :=
  if !(n.k.live pgDMA && n.k.ringEn f r) then n
  else
    let now := n.k.startable f r
    let later := (n.k.ring f r).items.drop now.length
    (n.dmaGo f r (n.k.ringKind f r) now []).onItems f r fun l => l ++ later

/-- The first open item for which a test holds, changed. -/
def onFirst (p : DmaItem → Bool) (g : DmaItem → DmaItem) : List DmaItem → List DmaItem
  | [] => []
  | it :: its => if p it then g it :: its else it :: onFirst p g its

/-! ### Read requests (05 R136, R157) -/

/-- The read requests of an item that wait for their data: of at most 512 bytes each, cut at multiples of 512. -/
def DmaItem.requests (it : DmaItem) : Nat :=
  if it.asked ≤ it.done then 0 else (it.haddr + it.asked - 1) / 512 - (it.haddr + it.done) / 512 + 1

/-- An item whose data is on its way from the host. -/
def DmaItem.reading (it : DmaItem) : Bool := it.started && it.outcome.isNone

/-- An item that has requests still to issue. -/
def DmaItem.asks (it : DmaItem) : Bool := it.reading && it.asked < it.len

/-- The read requests of a channel that wait for their data. -/
def Channel.outstanding (k : Channel) : Nat :=
  (k.dma.map fun e =>
    if k.ringKind (e.1 / 8) (e.1 % 8) = 0 then ((e.2.items.filter DmaItem.reading).map DmaItem.requests).sum else 0).sum

/-- The read requests of the device that wait for their data: at most 64 (05 R136). -/
def State.outstanding (s : State) : Nat :=
  s.ch0.outstanding + s.ch1.outstanding + s.ch2.outstanding + s.ch3.outstanding

/-- A ring of a channel that has a read request to issue. -/
def State.asking (s : State) (c : Ch) : Option (Ch × Nat × Nat) :=
  let n := s.node c
  (n.k.dma.find? fun e => n.k.live pgDMA && n.canIssue (e.1 / 8) && n.k.ringKind (e.1 / 8) (e.1 % 8) = 0 &&
    e.2.items.any DmaItem.asks).map fun e => (c, e.1 / 8, e.1 % 8)

/-- The next read request of a ring's oldest item that has one to issue. -/
def Node.dmaAsk (n : Node) (f r : Nat) : Node :=
  match (n.k.ring f r).items.find? DmaItem.asks with
  | none => n
  | some it =>
    let a := it.haddr + it.asked
    let d := min (512 - a % 512) (it.len - it.asked)
    (n.onItems f r (onFirst DmaItem.asks fun x => { x with asked := x.asked + d })).upstream (.readReq (chFn n.c f) a d)

/-- Read requests go out while fewer than 64 wait for their data, one of a channel after one of another (01 R35, 05 R136);
the first number bounds how many. -/
def State.dmaPump : Nat → State → State
  | 0, s => s
  | m + 1, s =>
    if 64 ≤ s.outstanding then s
    else match (rrOrder s.dev.host.turn).findSome? s.asking with
      | none => s
      | some (c, f, r) => State.dmaPump m (s.within c fun n => n.dmaAsk f r)

/-- A command on a channel's rings, and the read requests it lets go out. -/
def State.dmaWithin (s : State) (c : Ch) (g : Node → Node) : State := (s.within c g).dmaPump 64

/-! ## Frames for KIND 2 rings (05 R148) -/

/-- A frame dropped for a ring, its pool buffer freed (12 R314). -/
def Node.ringDrop (n : Node) (f r : Nat) (x : DmaFrame) : Node :=
  (n.countSat pgDMA (dmaB f r + 0x1C) 16 16).freeBuf x.addr

/-- Whether the fetched buffers hold a frame. -/
def bufsHold (items : List DmaItem) (len : Nat) : Bool :=
  len ≤ ((items.filter fun it => it.outcome.isNone).map DmaItem.len).sum

/-- The posted buffers filled in order with a frame of pool buffer `buf`: `left` bytes to come, `st` the last record's
status; `cut` says that the frame breaks off behind those bytes, in the buffer that would take the next one. -/
def fillBufs (buf info : Nat) (st : Byte) (cut : Bool) : Nat → List DmaItem → List DmaItem
  | _, [] => []
  | left, it :: its =>
    if it.outcome.isSome then it :: fillBufs buf info st cut left its
    else
      let d := min left it.len
      let on := d < left || (cut && d = it.len)
      { it with started := true, done := d, info := info, more := on,
                buf := if on then none else some buf,
                outcome := some (if on then stOK else st) } ::
        (if on then fillBufs buf info st cut (left - d) its else its)

/-- The host writes that go with it. -/
def Node.writeBufs (n : Node) (f : Nat) : List DmaItem → List Byte → Node
  | [], _ => n
  | it :: its, bs =>
    if it.outcome.isSome || bs.isEmpty then Node.writeBufs n f its bs
    else Node.writeBufs (n.dmaOut f it.haddr (bs.take it.len)) f its (bs.drop it.len)

/-- A frame whose buffers are there leaves, its carry tags verified on the way out. The data is not held back (10 R281):
where a block meets an uncorrectable error the bytes before it have left, and the record of the buffer the frame breaks off
in is its last, ECC_FAIL (DESIGN CHOICE, log entry 55). A frame whose pool buffer the function may not read ends ABORTED
(17 R471). -/
def Node.dmaFrame (n : Node) (f r : Nat) (x : DmaFrame) : Node :=
  let items := (n.k.ring f r).items
  let data := n.k.sram.read x.addr x.len
  let sent := match n.k.firstBad x.addr x.len with
    | some b => SRAM0 + b * 64 - x.addr
    | none => 0
  let (n, res, miss) := n.exitBy (dmaMaster f) 3 x.addr x.len
  match res with
  | .ok _ =>
    (n.writeBufs f items data).onItems f r (fillBufs x.addr x.info (if miss then stCARRY_FAIL else stOK) false x.len)
  | .ecc => (n.writeBufs f items (data.take sent)).onItems f r (fillBufs x.addr x.info stECC_FAIL true sent)
  | .denied => n.onItems f r (fillBufs x.addr x.info stABORTED true 0)

/-- The frames of a ring in order: one that the fetched buffers hold leaves, one that posted descriptors still to be fetched
may hold waits for them, another is dropped. -/
def Node.dmaServe (n : Node) (f r : Nat) : List DmaFrame → Node
  | [] => n.setRing f r { n.k.ring f r with wait := [] }
  | x :: xs =>
    if !(n.k.ringLive f r && n.k.ringKind f r = 2) then Node.dmaServe (n.ringDrop f r x) f r xs
    else if bufsHold (n.k.ring f r).items x.len then Node.dmaServe (n.dmaFrame f r x) f r xs
    else if (n.k.ring f r).fetch ≠ n.k.ringProd f r && n.canIssue f then
      n.setRing f r { n.k.ring f r with wait := x :: xs }
    else Node.dmaServe (n.ringDrop f r x) f r xs

/-- The frames that wait are looked at again. -/
def Node.dmaWaiters (n : Node) (f r : Nat) : Node := n.dmaServe f r (n.k.ring f r).wait

/-- A frame in the pool buffer at `addr` for a ring (12 R314). -/
def Node.dmaDeliver (n : Node) (f r addr len info : Nat) : Node :=
  n.dmaServe f r ((n.k.ring f r).wait ++ [⟨addr, len, info⟩])

/-- The frames that wait are dropped: their ring has stopped. -/
def Node.dmaLose (n : Node) (f r : Nat) : Node :=
  ((n.k.ring f r).wait.foldl (fun n x => n.ringDrop f r x) n).setRing f r { n.k.ring f r with wait := [] }

/-! ## The descriptor fetch (05 R147, R157) -/

/-- The read request of the next descriptor. -/
def Node.fetchReq (n : Node) (f r : Nat) : Upstream :=
  .readReq (chFn n.c f) ((n.reg pgDMA (dmaB f r + 4)).toNat * 2 ^ 32 + (n.reg pgDMA (dmaB f r)).toNat +
    32 * (n.k.ring f r).fetch) 32

/-- A bad descriptor: its entry ends BAD_DESC and its ring stops (05 R157). -/
def Node.badFetch (n : Node) (f r : Nat) (it : DmaItem) : Node :=
  ((n.onItems f r fun l => l ++ [{ it with outcome := some stBAD_DESC }]).ringStop f r).dmaLose f r

/-- The fetch of the next posted descriptor; `none` where the fetch itself failed. -/
def Node.dmaFetch (n : Node) (f r : Nat) (desc : Option (List Byte)) : Node :=
  let x := n.k.ring f r
  if !(n.k.ringLive f r && n.canIssue f && x.fetch ≠ n.k.ringProd f r) then n
  else
    let n := n.upstream (n.fetchReq f r)
    let n := n.setRing f r { x with fetch := (x.fetch + 1) % n.k.ringSize f r, tries := 0 }
    let kind := n.k.ringKind f r
    match desc with
    | none => n.badFetch f r { DmaItem.blank x.fetch with retries := x.tries }
    | some d =>
      let (it, ok) := dmaParse n.k kind x.fetch d
      let it := { it with retries := x.tries }
      if !ok then n.badFetch f r it
      else if kind ≠ 2 && n.k.settled (dmaMaster f) it.saddr it.len (kind == 0) = .refused then
        (n.deny (dmaMaster f) (senderOf (dmaMaster f)) it.saddr (kind == 0)).badFetch f r it
      else ((n.onItems f r fun l => l ++ [it]).dmaStart f r).dmaWaiters f r

/-- The oldest KIND 0 item that reads. -/
def Channel.readingItem (k : Channel) (f r : Nat) : Option DmaItem :=
  if k.ringKind f r = 0 then (k.ring f r).items.find? DmaItem.reading else none

/-- Data for the oldest item that reads; nothing is taken beyond what it asked for. -/
def Node.dmaData (n : Node) (f r : Nat) (it : DmaItem) (bytes : List Byte) : Node :=
  let bs := bytes.take (it.asked - it.done)
  let set := fun (n : Node) (g : DmaItem → DmaItem) => n.onItems f r (onFirst DmaItem.reading g)
  let (n, res) := n.put (dmaMaster f) (it.saddr + it.done) bs true
  match res with
  | .ok _ =>
    let d := it.done + bs.length
    set n fun x => { x with done := d, tries := 0, outcome := if d = it.len then some stOK else none }
  | .ecc => set n fun x => { x with outcome := some stECC_FAIL }
  | .denied =>
    if it.done = 0 then (set n fun x => { x with outcome := some stBAD_DESC }).ringStop f r
    else set n fun x => { x with outcome := some stABORTED }

/-- The end of a host read of a KIND 0 item (05 R149). -/
def Node.dmaRead (n : Node) (f r : Nat) (res : ReadResult) : Node :=
  match n.k.readingItem f r with
  | none => n
  | some it =>
    match res with
    | .data bytes => n.dmaData f r it bytes
    | .ur | .ca | .poison => n.onItems f r (onFirst DmaItem.reading fun x => { x with outcome := some stABORTED })

/-- A Completion Timeout of the oldest read request that waits: the read is retried up to DMA_CTRL.RETRY times (05 R149,
R163). -/
def Node.dmaTimeout (n : Node) (f r : Nat) : Node :=
  match n.k.readingItem f r with
  | none => n
  | some it =>
    if it.asked ≤ it.done then n
    else if it.tries < (n.reg pgDMA 0x040).field 0 2 then
      let a := it.haddr + it.done
      (n.onItems f r (onFirst DmaItem.reading fun x => { x with tries := x.tries + 1, retries := x.retries + 1 })).upstream
        (.readReq (chFn n.c f) a (min (512 - a % 512) (it.asked - it.done)))
    else n.onItems f r (onFirst DmaItem.reading fun x => { x with outcome := some stABORTED })

/-- A Completion Timeout of a descriptor fetch: retried likewise; a fetch that still fails is a bad descriptor (05 R149,
R157). -/
def Node.fetchTimeout (n : Node) (f r : Nat) : Node :=
  let x := n.k.ring f r
  if !(n.k.ringLive f r && n.canIssue f && x.fetch ≠ n.k.ringProd f r) then n
  else if x.tries < (n.reg pgDMA 0x040).field 0 2 then
    (n.setRing f r { x with tries := x.tries + 1 }).upstream (n.fetchReq f r)
  else n.dmaFetch f r none

/-! ## Completion records -/

/-- A completion record (05 R146). -/
def dmaRecord (it : DmaItem) (phase : Bool) (st : Byte) : List Byte :=
  bytesLE 4 it.tag.toNat ++ bytesLE 4 it.done ++ [st] ++ bytesLE 1 it.retries ++ bytesLE 2 it.info ++
  bytesLE 2 it.idx ++ bytesLE 1 (phase.toNat + 2 * it.more.toNat + 4 * it.irq.toNat) ++ [0]

/-- The completion vector of ring r (05 R143). -/
def ringVec (f r : Nat) : Nat := if f = 0 then 16 + r else 4 + r

/-- The record of the oldest item is queued upstream, CONS advances, a flagged record sets IRQPEND and raises
EVT_DMA_DONE (05 R146, R147). -/
def Node.dmaComplete (n : Node) (f r : Nat) (it : DmaItem) (st : Byte) : Node :=
  let x := n.k.ring f r
  let base := (n.reg pgDMA (dmaB f r + 0x0C)).toNat * 2 ^ 32 + (n.reg pgDMA (dmaB f r + 0x08)).toNat
  let n := n.upstream (.write (chFn n.c f) (base + 16 * it.idx) (dmaRecord it x.phase st) false)
  let cons := (it.idx + 1) % n.k.ringSize f r
  let n := n.setRing f r { x with items := x.items.drop 1, phase := if cons = 0 then !x.phase else x.phase }
  let n := n.setReg pgDMA (dmaB f r + 0x18) (BitVec.ofNat 32 cons)
  let n := match it.buf with
    | some b => n.freeBuf b
    | none => n
  if !it.irq then n
  else
    let was := (n.reg pgDMA (dmaB f r + 0x1C)).bit 1
    let n := (n.setField pgDMA (dmaB f r + 0x1C) 1 1 1).raise evDMA_DONE
    if was then n else n.msi (chFn n.c f) (ringVec f r)

/-- The oldest item's report, once its outcome is fixed (17 R473); what it fenced may start. -/
def Node.dmaReport (n : Node) (f r : Nat) : Node :=
  match (n.k.ring f r).items with
  | it :: _ =>
    (match it.outcome with
     | some st => (n.dmaComplete f r it st).dmaStart f r
     | none => n)
  | [] => n

/-! ## Ends by cause (17 R475–R478) -/

/-- Every open item ends with its record: with its own outcome, or with `st` (17 R473, R475, R478); frames that wait are
dropped. -/
def Node.dmaEndRing (n : Node) (f r : Nat) (st : Byte) : Node :=
  ((n.k.ring f r).items.foldl (fun n it => n.dmaComplete f r it (it.outcome.getD st)) n).dmaLose f r

/-- Every ring of the channel. -/
def allRings : List (Nat × Nat) := (List.range 64).map fun i => (i / 8, i % 8)

def Node.dmaEndAll (n : Node) (st : Byte) : Node := allRings.foldl (fun n p => n.dmaEndRing p.1 p.2 st) n

/-- ENABLE cleared: the items end DOWN, fetching resumes at CONS (05 R150). -/
def Node.dmaDown (n : Node) : Node :=
  allRings.foldl (fun n p =>
    let n := n.dmaEndRing p.1 p.2 stDOWN
    let x := n.k.ring p.1 p.2
    if x.dead || !n.k.ringEn p.1 p.2 then n
    else n.setRing p.1 p.2 { x with fetch := n.k.ringCons p.1 p.2, tries := 0 }) n

/-- A ring disabled: ABORTED for each open item, in order (05 R161, 17 R476). -/
def Node.ringOff (n : Node) (f r : Nat) : Node :=
  let n := n.dmaEndRing f r stABORTED
  let n := n.setRing f r { n.k.ring f r with dead := false }
  n.setField pgDMA (dmaB f r + 0x10) 0 1 0

/-- A ring enabled: PROD, CONS and PHASE start anew (05 R163). -/
def Node.ringOn (n : Node) (f r : Nat) : Node :=
  (((n.setField pgDMA (dmaB f r + 0x10) 0 1 1).setReg pgDMA (dmaB f r + 0x14) 0).setReg pgDMA (dmaB f r + 0x18) 0).setRing
    f r { dmaBlank with phase := true }

/-- A function reset of function f, without records; the ended entries stay between CONS and PROD (05 R159, 17 R476).
`off` clears EN as a host port reset does (05 R160). -/
def Node.dmaFnReset (n : Node) (f : Nat) (off : Bool) : Node :=
  let n := (n.setField pgDMA 0x044 f 1 1).raise evDMA_ERR
  (List.range 8).foldl (fun n r =>
    let x := n.k.ring f r
    let opened := !x.items.isEmpty || (n.k.ringEn f r && n.k.ringProd f r ≠ n.k.ringCons f r)
    let n := if opened then n.lastStat f r stABORTED else n
    let n := ((x.items.filterMap DmaItem.buf).foldl Node.freeBuf n).dmaLose f r
    let n := n.setRing f r { x with items := [], fetch := n.k.ringProd f r, dead := n.k.ringEn f r && !off, tries := 0, wait := [] }
    if off then n.setField pgDMA (dmaB f r + 0x10) 0 1 0 else n) n

/-- The abandon policy: TICK items that have not started end LATE (02 R54, 17 R478). -/
def Node.dmaAbandon (n : Node) : Node :=
  allRings.foldl (fun n p => n.onItems p.1 p.2 (List.map fun it =>
    if it.tick && !it.started && it.outcome.isNone then { it with outcome := some stLATE } else it)) n

/-! ## Registers (05 R163) -/

/-- An access to a ring's registers: by the Rook, the PF, or the VF whose ring it is (05 R141). -/
def Node.ringAccess (n : Node) (snd : Sender) (f off : Nat) (g : Node → Node) : Node :=
  match snd with
  | .vf v =>
    if f = v.val + 1 then (if n.k.busy pgDMA then n.regFault snd pgDMA off cBUSY else g n)
    else n.regFault snd pgDMA off cSENDER
  | _ => n.access snd pgDMA off g

/-- A write of DMA_RINGPROD: a value that passes CONS, or lies outside the ring, is rejected (05 R147). -/
def Node.prodWrite (n : Node) (snd : Sender) (f r : Nat) (v : Word) : Node :=
  let size := n.k.ringSize f r
  let p := v.field 0 12
  let ahead := fun x => (x + size - n.k.ringCons f r) % size
  if p < size && ahead (n.k.ringProd f r) ≤ ahead p then n.setReg pgDMA (dmaB f r + 0x14) (BitVec.ofNat 32 p)
  else n.regFault snd pgDMA (dmaB f r + 0x14) cRSVD

/-- A write of DMA_RINGCFG (05 R163). -/
def Node.cfgWrite (n : Node) (snd : Sender) (f r : Nat) (v : Word) : Node :=
  let off := dmaB f r + 0x10
  if n.k.ringEn f r then (if v.bit 0 then n.regFault snd pgDMA off cSTATE else n.ringOff f r)
  else
    let n := n.writeFields snd pgDMA off (v.setBit 0 false)
    if v.bit 0 then n.ringOn f r else n

/-- A register of the DMA page written. -/
def Node.dmaWrite (n : Node) (snd : Sender) (off : Nat) (v : Word) : Node :=
  if 0x100 ≤ off ∧ off < 0x900 then
    let f := (off - 0x100) / 0x100
    let r := (off - 0x100) % 0x100 / 0x20
    match (off - 0x100) % 0x20 with
    | 0x10 => n.cfgWrite snd f r v
    | 0x14 => n.prodWrite snd f r v
    | 0x18 => n
    | 0x1C => (n.writeFields snd pgDMA off v).dmaStart f r
    | _ => if n.k.ringEn f r then n.regFault snd pgDMA off cSTATE else n.writeFields snd pgDMA off v
  else n.writeFields snd pgDMA off v

/-- A read: DMA_RINGSTAT.DROPS is cleared by it (05 R163). -/
def Node.dmaRegRead (n : Node) (off : Nat) : Node × Word :=
  if 0x100 ≤ off ∧ off < 0x900 ∧ off % 0x20 = 0x1C then (n.setField pgDMA off 16 16 0, n.k.view pgDMA off)
  else (n, n.k.view pgDMA off)

/-- The BAR offset of a ring register as the sender sees it (05 R141). -/
def ringAddr (snd : Sender) (f r off : Nat) : Nat :=
  match snd with
  | .vf _ => 0x1100 + 0x20 * r + off
  | _ => regKey pgDMA (dmaB f r + off)

/-! ## The commands -/

/-- A write of DMA_RINGPROD. -/
def execDmaRingprodWrite (snd : Sender) (c : Ch) (f r : Fin 8) (v : Word) (s : State) : Out :=
  .next (s.chanWrite snd c (ringAddr snd f r 0x14) fun n =>
    n.ringAccess snd f (dmaB f r + 0x14) fun n => n.dmaWrite snd (dmaB f r + 0x14) v)

/-- The DMA fetches the next posted descriptor; `none` where the fetch itself failed. -/
def execDmaDescriptorFetch (c : Ch) (f r : Fin 8) (desc : Option (List Byte)) (s : State) : Out :=
  .next (s.dmaWithin c fun n => n.dmaFetch f r desc)

/-- Read data returns for the oldest item of the ring that reads. -/
def execDmaReadCompletion (c : Ch) (f r : Fin 8) (res : ReadResult) (s : State) : Out :=
  .next (s.dmaWithin c fun n => if n.k.live pgDMA then n.dmaRead f r res else n)

/-- A read meets a Completion Timeout: of the ring's next descriptor, or of the oldest item that reads. -/
def execDmaCompletionTimeout (c : Ch) (f : Fin 8) (r : RingRead) (s : State) : Out :=
  .next (s.dmaWithin c fun n =>
    if !n.k.live pgDMA then n else if r.fetch then n.fetchTimeout f r.ring else n.dmaTimeout f r.ring)

/-- The deadline of an open item is due: TIMEOUT (05 R149). -/
def execDmaDeadline (c : Ch) (f r : Fin 8) (idx : Nat) (s : State) : Out :=
  .next (s.within c fun n =>
    if !n.k.running then n
    else n.onItems f r (List.map fun it =>
      if it.idx = idx && it.outcome.isNone && n.k.due it.fire then { it with outcome := some stTIMEOUT } else it))

/-- The oldest item's record is written. -/
def execDmaItemCompletion (c : Ch) (f r : Fin 8) (s : State) : Out :=
  .next (s.dmaWithin c fun n => if n.k.live pgDMA then n.dmaReport f r else n)

/-- A write of DMA_RINGCFG with EN 1. -/
def execDmaRingEnable (snd : Sender) (c : Ch) (f r : Fin 8) (v : Word) (s : State) : Out :=
  .next (s.chanWrite snd c (ringAddr snd f r 0x10) fun n =>
    n.ringAccess snd f (dmaB f r + 0x10) fun n => n.dmaWrite snd (dmaB f r + 0x10) (v.setBit 0 true))

/-- A write of DMA_RINGCFG with EN 0. -/
def execDmaRingDisable (snd : Sender) (c : Ch) (f r : Fin 8) (v : Word) (s : State) : Out :=
  .next (s.chanWrite snd c (ringAddr snd f r 0x10) fun n =>
    n.ringAccess snd f (dmaB f r + 0x10) fun n => n.dmaWrite snd (dmaB f r + 0x10) (v.setBit 0 false))

/-- A W1C write of DMA_RINGSTAT.STOPPED: the ring resumes at the next descriptor (05 R157). -/
def execDmaStoppedClear (snd : Sender) (c : Ch) (f r : Fin 8) (s : State) : Out :=
  .next (s.chanWrite snd c (ringAddr snd f r 0x1C) fun n =>
    n.ringAccess snd f (dmaB f r + 0x1C) fun n => n.dmaWrite snd (dmaB f r + 0x1C) 1)

/-- A read of DMA_RINGSTAT clears DROPS; a VF reads its own rings only (05 R141). -/
def execDmaDropsRead (snd : Sender) (c : Ch) (f r : Fin 8) (s : State) : Out :=
  .next (s.chanRead snd c (ringAddr snd f r 0x1C) (regAddr pgDMA (dmaB f r + 0x1C)) fun n =>
    match snd with
    | .vf v =>
      if f.val ≠ v.val + 1 then (n, 0)
      else if n.k.busy pgDMA then (n.regFault snd pgDMA (dmaB f r + 0x1C) cBUSY, 0)
      else n.dmaRegRead (dmaB f r + 0x1C)
    | _ => n.readAccess snd pgDMA (dmaB f r + 0x1C) fun n => n.dmaRegRead (dmaB f r + 0x1C))

end Sys2Proof.Machine
end

