-- ==== Sys2Proof/Machine/Shape.lean ====
section
/-!
DEFINITION. Class queues, shapers, gate lists, policers, admission and transmit rings (13).
-/

namespace Sys2Proof.Machine

/-! ## Class queues (13 R343) -/

/-- The number of class c's queue at port p, and of its register block. -/
def qIdx (p : Port) (c : Nat) : Nat := 8 * p.num + c % 8

def qReg (p : Port) (c : Nat) : Nat := 0x100 + 0x20 * qIdx p c

def Channel.queue (k : Channel) (p : Port) (c : Nat) : List QFrame := k.queues.getD (qIdx p c) []

def Node.setQueue (n : Node) (p : Port) (c : Nat) (q : List QFrame) : Node :=
  n.onK fun k => { k with queues := k.queues.setIfInBounds (qIdx p c) q }

/-- A counter of the SHAPE page (13 R366). -/
def Node.shapeCount (n : Node) (i : Nat) : Node := n.count pgSHAPE (0x500 + 4 * i)

/-- Whether a queue has room. -/
def Channel.qRoom (k : Channel) (p : Port) (c : Nat) : Bool := (k.queue p c).length < 64

/-- A frame joins a queue; a full queue counts TXQFULL, and the answer is false (13 R343). -/
def Node.enq (n : Node) (p : Port) (c : Nat) (q : QFrame) : Node × Bool :=
  if n.k.qRoom p c then (n.setQueue p c (n.k.queue p c ++ [q]), true)
  else (n.shapeCount (8 + 8 * p.num + c % 8), false)

/-! ## Shapers (13 R349, R350) -/

def Channel.shapeOn (k : Channel) (p : Port) (c : Nat) : Bool := (k.reg pgSHAPE (qReg p c)).bit 31

def Channel.credit (k : Channel) (p : Port) (c : Nat) : Int := (k.reg pgSHAPE (qReg p c + 0x08)).toInt

def Node.setCredit (n : Node) (p : Port) (c : Nat) (x : Int) : Node :=
  n.setReg pgSHAPE (qReg p c + 0x08) (BitVec.ofInt 32 x)

/-- The refill of one shaper at C+3. -/
def Node.refill (n : Node) (p : Port) (c : Nat) : Node :=
  if n.k.shapeOn p c then
    let rate : Int := (n.reg pgSHAPE (qReg p c)).field 0 24
    let burst : Int := (n.reg pgSHAPE (qReg p c + 4)).field 0 24
    n.setCredit p c (min (n.k.credit p c + rate) burst)
  else n.setCredit p c 0

/-- Every port and class. -/
def allQueues : List (Port × Nat) := (List.range 8).map (fun c => (Port.a, c)) ++ (List.range 8).map fun c => (Port.b, c)

def Node.refillAll (n : Node) : Node := allQueues.foldl (fun n x => n.refill x.1 x.2) n

def Channel.ovh (k : Channel) (p : Port) : Nat := (k.reg pgSHAPE (0x040 + 4 * p.num)).field 0 6

/-- A frame of `len` bytes with FCS charges its class (13 R350). -/
def Node.charge (n : Node) (p : Port) (c len : Nat) : Node :=
  if n.k.shapeOn p c then n.setCredit p c (n.k.credit p c - (len + n.k.ovh p : Nat)) else n

/-! ## Gate lists (13 R351, R352, R363) -/

def Channel.gateCnt (k : Channel) (p : Port) : Nat := (k.reg pgSHAPE (0x040 + 4 * p.num)).field 16 7
def Channel.gateFail (k : Channel) (p : Port) : Nat := (k.reg pgSHAPE (0x040 + 4 * p.num)).field 8 8
def Channel.gateOfs (k : Channel) (p : Port) (i : Nat) : Nat := (k.reg pgSHAPE (0x300 + 0x100 * p.num + 4 * i)).field 0 24
def Channel.gateBits (k : Channel) (p : Port) (i : Nat) : Nat := (k.reg pgSHAPE (0x300 + 0x100 * p.num + 4 * i)).field 24 8

/-- Entry i is valid (13 R351). -/
def Channel.gateValid (k : Channel) (p : Port) (i : Nat) : Bool :=
  (if i = 0 then k.gateOfs p 0 == 0 else k.gateOfs p (i - 1) < k.gateOfs p i) && k.gateOfs p i < k.period

/-- The gates take new values; a frame on the wire whose gate closes is counted in GATEOVR (13 R352). -/
def Node.setGates (n : Node) (p : Port) (g : Gates) : Node :=
  let held := match (n.k.eth p).tx with
    | some t => !t.copy && (n.k.gates p).classes.getLsbD t.cls && !g.classes.getLsbD t.cls
    | none => false
  let n := if held then n.shapeCount (26 + p.num) else n
  n.onK fun k => k.setGates p g

/-- Entry i takes effect, or is found invalid (13 R351, R363). -/
def Node.applyGate (n : Node) (p : Port) (i : Nat) : Node :=
  if n.k.gateValid p i then n.setGates p ⟨BitVec.ofNat 8 (n.k.gateBits p i), i, false⟩
  else ((n.setGates p ⟨BitVec.ofNat 8 (n.k.gateFail p), i, true⟩).shapeCount (24 + p.num)).raise evGATE_ERR

/-- The restart at C+4: with GATECNT = 0 every gate is open. -/
def Node.gateRestart (n : Node) (p : Port) : Node :=
  if n.k.gateCnt p = 0 then n.setGates p ⟨0xFF, 0, false⟩ else n.applyGate p 0

/-- The cycle of the tick in which entry i takes effect (13 R351). -/
def Channel.gateAt (k : Channel) (p : Port) (i : Nat) : Nat := 4 + ceilDiv (2 * k.gateOfs p i) 5

/-- The next entry of the list when its time has come. -/
def Node.gateNext (n : Node) (p : Port) : Node :=
  let g := n.k.gates p
  let i := g.entry + 1
  if !g.failed && i < n.k.gateCnt p && n.k.gateAt p i ≤ n.k.wh.elapsed then n.applyGate p i else n

/-- For how many cycles the gate of class c stays open; none where it never closes (13 R352). -/
def Channel.gateLeft (k : Channel) (p : Port) (c : Nat) : Option Nat :=
  let cnt := k.gateCnt p
  if cnt = 0 then none
  else
    let g := k.gates p
    let later := if g.failed then none
      else ((List.range cnt).filter fun j => g.entry < j).find? fun j => !(k.gateBits p j).testBit c
    match later with
    | some j => some (k.gateAt p j - k.wh.elapsed)
    | none => if k.whistleEn && !(k.gateBits p 0).testBit c then some (k.ahead + 4) else none

/-- Nanoseconds per bit at the port's link speed. -/
def Channel.bitNs (k : Channel) (p : Port) : Nat :=
  match (k.reg (pgEth p) 0x044).field 1 2 with
  | 0 => 100 | 1 => 10 | _ => 1

/-- The guard rule: a frame of `len` bytes with FCS ends before its gate next closes (13 R352). -/
def Channel.guard (k : Channel) (p : Port) (c len : Nat) : Bool :=
  (k.gates p).classes.getLsbD c &&
  match k.gateLeft p c with
  | none => true
  | some t => (len + 8) * 8 * k.bitNs p * 2 < 5 * t

/-! ## Policers (13 R353, R354, R360) -/

/-- A register of policer p. -/
def polPage (p : Nat) : Nat := 0x100 + p * 0x80 / 0x1000
def polOff (p off : Nat) : Nat := p * 0x80 % 0x1000 + off

def Channel.pol (k : Channel) (p off : Nat) : Word := k.reg (polPage p) (polOff p off)

/-- One byte in a bucket's units: 8 000 000 of those that 1 kbit/s fills at one a nanosecond, each in 2²⁴ parts as the time base
is. -/
def polByte : Nat := 8000000 * 2 ^ 24

def bucketBlank : Bucket := ⟨0, 0, 0⟩

def Channel.bucket (k : Channel) (p : Nat) : Bucket := (SMap.get? k.buckets p).getD bucketBlank

def Node.setBucket (n : Node) (p : Nat) (b : Bucket) : Node :=
  n.onK fun k => { k with buckets := SMap.put bucketBlank k.buckets p b }

/-- The bucket with what has accrued by now; a step backwards accrues nothing, and drop mode ignores PIR and PBS. -/
def Channel.accrued (k : Channel) (p : Nat) : Bucket :=
  let b := k.bucket p
  let dt := k.tb.acc.toNat - b.last
  ⟨min ((k.pol p 0x04C).field 0 24 * polByte) (b.tc + (k.pol p 0x048).field 0 24 * dt),
   if (k.pol p 0x044).bit 0 then min ((k.pol p 0x054).field 0 24 * polByte) (b.tp + (k.pol p 0x050).field 0 24 * dt)
   else b.tp, k.tb.acc.toNat⟩

/-- What a policer lets happen to a frame. -/
inductive Verdict where
  | pass | recl (c : Nat) | drop
deriving DecidableEq, Repr

inductive Colour where
  | green | yellow | red
deriving DecidableEq, Repr

def Colour.num : Colour → Nat
  | .green => 0 | .yellow => 1 | .red => 2

/-- The colour of a frame of B bytes and the bucket after it: drop mode, or RFC 2698 trTCM, colour-aware for a frame
that arrived with DEI (13 R353). -/
def polColour (cfg : Word) (b : Bucket) (len : Nat) (dei : Bool) : Colour × Bucket :=
  let x := len * polByte
  if !cfg.bit 0 then (if x ≤ b.tc then (.green, { b with tc := b.tc - x }) else (.red, b))
  else if b.tp < x then (.red, b)
  else if (cfg.bit 1 && dei) || b.tc < x then (.yellow, { b with tp := b.tp - x })
  else (.green, { b with tp := b.tp - x, tc := b.tc - x })

/-- What a colour's action does: 0 pass, 1 pass as DCLASS, 2 drop. -/
def polVerdict (cfg : Word) : Colour → Verdict
  | .green => .pass
  | .yellow => match cfg.field 2 2 with
    | 1 => .recl (cfg.field 6 3) | 2 => .drop | _ => .pass
  | .red =>
    if !cfg.bit 0 then .drop
    else match cfg.field 4 2 with
      | 1 => .recl (cfg.field 6 3) | 2 => .drop | _ => .pass

/-- Policer p judges a frame of `len` bytes with FCS (13 R353, R354). -/
def Node.police (n : Node) (p len : Nat) (dei : Bool) : Node × Verdict :=
  let cfg := n.k.pol p 0x044
  let (col, b) := polColour cfg (n.k.accrued p) len dei
  let n := (n.setBucket p b).count pgPOLICE (0x400 + 12 * p + 4 * col.num)
  (n.raiseIf (col = .red && cfg.bit 9) evPOLICE_RED, polVerdict cfg col)

/-- A swap of the POLICE page: a policer it changes keeps what accrued under its old rates, cut to the new sizes, full
where MODE changed (13 R353, R360). `old` is the channel before the swap. -/
def Channel.policeSwap (k old : Channel) : Channel :=
  (List.range 256).foldl (fun k p =>
    if [0x044, 0x048, 0x04C, 0x050, 0x054].all fun o => k.pol p o = old.pol p o then k
    else
      let cbs := (k.pol p 0x04C).field 0 24 * polByte
      let pbs := (k.pol p 0x054).field 0 24 * polByte
      let b := old.accrued p
      let b' := if (k.pol p 0x044).bit 0 = (old.pol p 0x044).bit 0 then { b with tc := min b.tc cbs, tp := min b.tp pbs }
        else { b with tc := cbs, tp := pbs }
      { k with buckets := SMap.put bucketBlank k.buckets p b' }) k

/-! ## Admission (13 R355, R356) -/

/-- The EtherType after at most one VLAN tag, and where it stands (11 R299). -/
def etherType (f : List Byte) : Nat × Nat :=
  let t := ofBytesBE (slice f 12 2)
  if t = 0x8100 then (ofBytesBE (slice f 16 2), 16) else (t, 12)

/-- Whether a frame carries a VLAN tag, and the tag's control word. -/
def vlanTag (f : List Byte) : Option Nat :=
  if ofBytesBE (slice f 12 2) = 0x8100 then some (ofBytesBE (slice f 14 2)) else none

/-- The admission class of a frame received on port p. -/
def Channel.admitClass (k : Channel) (p : Port) (f : List Byte) : Nat :=
  let m := k.reg pgSHAPE (0x048 + 4 * p.num)
  if (List.range 4).any fun i =>
      let w := k.reg pgSHAPE (0x050 + 4 * i)
      w.bit 16 && w.field 0 16 == (etherType f).1 then 7
  else match vlanTag f with
    | some t => m.field (3 * (t / 8192 % 8)) 3
    | none => m.field 24 3

/-- L_c of class c (13 R356). -/
def admitLimit (th c : Nat) : Nat :=
  let t := min th 230
  if c = 7 then 256 else t + c * (230 - t) / 6

/-- Whether a frame of class c and `len` bytes without FCS is admitted, and whether a refusal counts NOBUF. -/
def Channel.admits (k : Channel) (c len : Nat) : Bool × Bool :=
  let b := k.cls.backlog.length
  let free := k.cls.free.length
  let pool := 0 < free && (c = 7 || ceilDiv (poolCount k) 10 < free)
  let fits := len ≤ poolBufSize k
  (b < admitLimit ((k.reg pgCLS 0x05C).field 0 9) c && b < 256 && pool && fits, !pool || !fits || 256 ≤ b)

/-- A refusal at stage 6. -/
def Node.admitDrop (n : Node) (c : Nat) (nobuf : Bool) : Node :=
  let n := n.shapeCount c
  let n := if nobuf then n.clsCount 15 else n
  let first := !n.k.cls.dropNow && !n.k.cls.dropOld
  (n.onCls fun x => { x with dropNow := true }).raiseIf first evADMIT_DROP

/-- A new tick: whether the one that ends had a refusal decides if the next refusal is the first after a quiet tick (R356). -/
def Node.admitTick (n : Node) : Node := n.onCls fun x => { x with dropOld := x.dropNow, dropNow := false }

/-! ## Transmit rings (13 R346–R348, R358, R362) -/

def Channel.txRing (k : Channel) (p : Port) (c : Nat) : TxRing := k.txRings.getD (qIdx p c) TxRing.reset

def Node.setTx (n : Node) (p : Port) (c : Nat) (r : TxRing) : Node :=
  n.onK fun k => { k with txRings := k.txRings.setIfInBounds (qIdx p c) r }

def Node.onTx (n : Node) (p : Port) (c : Nat) (g : List TxItem → List TxItem) : Node :=
  n.setTx p c { n.k.txRing p c with items := g (n.k.txRing p c).items }

def Channel.txEn (k : Channel) (p : Port) (c : Nat) : Bool := (k.reg pgSHAPE (qReg p c + 0x14)).bit 0
def Channel.txSize (k : Channel) (p : Port) (c : Nat) : Nat := 2 ^ (k.reg pgSHAPE (qReg p c + 0x14)).field 4 4
def Channel.txBase (k : Channel) (p : Port) (c : Nat) : Nat := (k.reg pgSHAPE (qReg p c + 0x10)).toNat / 16 * 16
def Channel.txProd (k : Channel) (p : Port) (c : Nat) : Nat := (k.reg pgSHAPE (qReg p c + 0x18)).field 0 10
def Channel.txCons (k : Channel) (p : Port) (c : Nat) : Nat := (k.reg pgSHAPE (qReg p c + 0x1C)).field 0 10
def Channel.txStopped (k : Channel) (p : Port) (c : Nat) : Bool := (k.reg pgSHAPE (qReg p c + 0x1C)).bit 16

def Node.txStop (n : Node) (p : Port) (c : Nat) : Node := n.setField pgSHAPE (qReg p c + 0x1C) 16 1 1

/-- A PROD value that would pass CONS is rejected; the entries it posts take the count of the whistle (13 R346, R348). -/
def Node.txProdWrite (n : Node) (snd : Sender) (p : Port) (c : Nat) (v : Word) : Node :=
  let size := n.k.txSize p c
  let x := v.field 0 10
  let ahead := fun y => (y + size - n.k.txCons p c) % size
  if x < size && ahead (n.k.txProd p c) ≤ ahead x then
    let old := n.k.txProd p c
    let new := (List.range (ahead x - ahead old)).map fun i => ((old + i) % size, n.k.wh.count.toNat)
    let r := n.k.txRing p c
    (n.setTx p c { r with posted := r.posted ++ new }).setReg pgSHAPE (qReg p c + 0x18) (BitVec.ofNat 32 x)
  else n.regFault snd pgSHAPE (qReg p c + 0x18) cRSVD

/-- The FCS frame length of a frame: padded to 60 bytes, with 4 bytes of FCS (11 R291). -/
def withFcs (len : Nat) : Nat := max 60 len + 4

/-- An entry as fetched: its fields, and whether it is in order (13 R346, R362). -/
def Channel.txParse (k : Channel) (p : Port) (c : Nat) (e : List Byte) (posted : Nat) : TxItem × Bool :=
  let r := k.txRing p c
  let addr := (wordAt e 0).toNat
  let len := ofBytesLE (slice e 4 2)
  let fl := (byteAt e 6).toNat
  let d := (byteAt e 8).toNat
  let free := fl / 2 % 2 = 1
  ({ idx := r.fetch, addr := addr, len := len, tick := fl % 2 = 1, free := free,
     fire := if d = 0 then none else some (posted + 1 + d), queued := true, outcome := none },
   fl / 8 = 0 && (byteAt e 0xA).toNat / 2 = 0 && byteAt e 0xB = 0 && 14 ≤ len &&
   len + 4 ≤ (k.reg (pgEth p) 0x040).field 16 14 && inSram addr len && (!free || k.fwHolds addr))

/-- The next entry is taken into the ring's open items with its outcome. -/
def Node.txTake (n : Node) (p : Port) (c : Nat) (it : TxItem) : Node :=
  let r := n.k.txRing p c
  n.setTx p c { items := r.items ++ [it], fetch := (r.fetch + 1) % n.k.txSize p c, posted := r.posted.drop 1 }

/-- Whether an entry's deadline has fired. -/
def Channel.txDue (k : Channel) (it : TxItem) : Bool := k.due it.fire

/-- The entry at a ring's fetch index, read as ETH, and what it is. -/
def Node.txEntry (n : Node) (p : Port) (c : Nat) : Node × TxItem × List Byte × Option Byte :=
  let r := n.k.txRing p c
  let posted := match r.posted with
    | (_, w) :: _ => w
    | [] => n.k.wh.count.toNat
  let blank : TxItem := ⟨r.fetch, 0, 0, false, false, none, false, none⟩
  let (n, res) := n.getBy mETH (n.k.txBase p c + 16 * r.fetch) 16
  match res with
  | .denied => (n, blank, [], some stBAD_DESC)
  | .ecc => (n, blank, [], some stECC_FAIL)
  | .ok e =>
    let (it, ok) := n.k.txParse p c e posted
    (n, it, e, if ok then none else some stBAD_DESC)

/-- Whether a ring may fetch. -/
def Channel.txReady (k : Channel) (p : Port) (c : Nat) : Bool :=
  k.live pgSHAPE && k.txEn p c && !k.txStopped p c && (k.txRing p c).fetch ≠ k.txProd p c

/-- The class an entry joins after its policer, or none where the policer drops it (13 R354). -/
def Node.txPolice (n : Node) (c : Nat) (it : TxItem) (e : List Byte) : Node × Option Nat :=
  if (byteAt e 6).getLsbD 2 then
    match n.police (byteAt e 7).toNat (withFcs it.len) false with
    | (n, .pass) => (n, some c)
    | (n, .recl d) => (n, some d)
    | (n, .drop) => (n, none)
  else (n, some c)

/-- A ring's next entry is fetched while its queue has room: checked, policed and queued (13 R346, R354). An entry that
moves to another class waits for room there. -/
def Node.txFetch (n0 : Node) (p : Port) (c : Nat) : Node :=
  if !(n0.k.txReady p c && n0.k.qRoom p c) then n0
  else
    let (n, it, e, bad) := n0.txEntry p c
    match bad with
    | some st => (n.txTake p c { it with queued := false, outcome := some st }).txStop p c
    | none =>
      if n.k.txDue it then n.txTake p c { it with queued := false, outcome := some stTIMEOUT }
      else
        match n.txPolice c it e with
        | (n, none) => n.txTake p c { it with queued := false, outcome := some stPOLICED }
        | (n, some d) =>
          if n.k.qRoom p d then ((n.txTake p c it).enq p d ⟨.ring (16 * it.idx + c), it.addr, it.len⟩).1 else n0

/-- Outcome of an open entry fixed, and its frame taken out of the queues; the entry's own class is in its mark. -/
def Node.txFix (n : Node) (p : Port) (c idx : Nat) (st : Byte) : Node :=
  let mark := QSrc.ring (16 * idx + c)
  let n := (List.range 8).foldl (fun n d => n.setQueue p d ((n.k.queue p d).filter fun q => q.src ≠ mark)) n
  n.onTx p c (List.map fun it =>
    if it.idx = idx && it.outcome.isNone then { it with queued := false, outcome := some st } else it)

/-- A deadline fires (13 R348): an entry in its queue is withdrawn; the next entry of the ring, not fetched yet, ends
TIMEOUT unfetched. -/
def Node.txDeadline (n : Node) (p : Port) (c idx : Nat) : Node :=
  match (n.k.txRing p c).items.find? (fun it => it.idx = idx) with
  | some it => if it.queued && it.outcome.isNone && n.k.txDue it then n.txFix p c idx stTIMEOUT else n
  | none =>
    if n.k.txReady p c && (n.k.txRing p c).fetch = idx then
      (match n.txEntry p c with
       | (n', it, _, none) =>
         if n'.k.txDue it then n'.txTake p c { it with queued := false, outcome := some stTIMEOUT } else n
       | (_, _, _, some _) => n)
    else n

/-- The oldest entry's record: STATUS and DONE, then CONS (13 R347, R362; 17 R483). -/
def Node.txReportOne (n : Node) (p : Port) (c : Nat) (it : TxItem) (st : Byte) : Node :=
  let a := n.k.txBase p c + 16 * it.idx + 9
  let (n, res) := n.put mETH a [st, 1]
  let n := match res with
    | .ok _ => n
    | .denied | .ecc => (n.fault pgSHAPE 0x10 0 (BitVec.ofNat 32 a)).txStop p c
  let r := n.k.txRing p c
  let n := n.setTx p c { r with items := r.items.drop 1 }
  let n := n.setField pgSHAPE (qReg p c + 0x1C) 0 10 ((it.idx + 1) % n.k.txSize p c)
  let n := if st = stLATE || st = stTIMEOUT then n.shapeCount 28 else if st = stPOLICED then n.shapeCount 29 else n
  if it.free && n.k.fwHolds it.addr then n.freeBuf it.addr else n

/-- The oldest entry completes once its outcome is fixed. -/
def Node.txReport (n : Node) (p : Port) (c : Nat) : Node :=
  match (n.k.txRing p c).items with
  | it :: _ => match it.outcome with
    | some st => n.txReportOne p c it st
    | none => n
  | [] => n

/-- Frames on the wires, and the frame of a pair, that have ended for their source: `f` is told the port a frame was queued
at. The wire goes on, and nothing is left to report (17 R472). -/
def Node.detach (n : Node) (f : Port → QSrc → Bool) : Node :=
  let cut := fun (p : Port) (q : QFrame) => if f p q.src then { q with src := .ended } else q
  let wire := fun (p : Port) (x : EthPort) =>
    { x with tx := x.tx.map fun t => { t with q := cut (if t.copy then .a else p) t.q } }
  n.onK fun k =>
    { k with ethA := wire .a k.ethA, ethB := wire .b k.ethB,
             prp := { k.prp with pair := k.prp.pair.map fun x => { x with q := cut .a x.q } } }

/-- Every open entry of a ring ends, with its own outcome or `st` (17 R473, R478). -/
def Node.txEndRing (n : Node) (p : Port) (c : Nat) (st : Byte) : Node :=
  let n := (n.k.txRing p c).items.foldl (fun n it => n.txFix p c it.idx st) n
  let n := (n.k.txRing p c).items.foldl (fun n it => n.txReportOne p c it (it.outcome.getD st)) n
  n.detach fun q src => q = p && (match src with
    | .ring m => m % 16 = c
    | .classifier | .pass _ _ _ | .ended => false)

def Node.txEndAll (n : Node) (st : Byte) : Node := allQueues.foldl (fun n x => n.txEndRing x.1 x.2 st) n

/-- ENABLE of SHAPE cleared: the entries end DOWN, fetching resumes at CONS (17 R478). -/
def Node.txDown (n : Node) : Node :=
  allQueues.foldl (fun n x =>
    let n := n.txEndRing x.1 x.2 stDOWN
    n.setTx x.1 x.2 { n.k.txRing x.1 x.2 with fetch := n.k.txCons x.1 x.2 }) n

/-- What a frame that leaves its queue held is given back: its pool buffer (12 R314), its place in the receive buffer of
the port it came in at (11 R292, R296). -/
def Node.giveBack (n : Node) (q : QFrame) : Node :=
  match q.src with
  | .classifier => n.freeBuf q.addr
  | .pass rx _ _ => n.onK fun k => k.setEth rx { k.eth rx with rxUsed := (k.eth rx).rxUsed - (q.len + 4) }
  | .ring _ | .ended => n

/-- Frames of the queues lost at a block reset. -/
def Node.dropQueues (n : Node) : Node :=
  allQueues.foldl (fun n x => ((n.k.queue x.1 x.2).foldl Node.giveBack n).setQueue x.1 x.2 []) n

/-- The abandon policy: TICK entries whose first bit has not gone out end LATE (02 R54, 13 R347). -/
def Node.txAbandon (n : Node) : Node :=
  allQueues.foldl (fun n x =>
    ((n.k.txRing x.1 x.2).items.filter fun it => it.tick && it.queued && it.outcome.isNone).foldl
      (fun n it => n.txFix x.1 x.2 it.idx stLATE) n) n

/-- A write of SHAPE_TXCFG (13 R358): LOG2N stays while EN is 1; EN from 0 to 1 zeroes PROD and CONS; clearing it ends
the open entries ABORTED (log entry 24). -/
def Node.txCfg (n : Node) (snd : Sender) (p : Port) (c : Nat) (v : Word) : Node :=
  let off := qReg p c + 0x14
  let old := n.reg pgSHAPE off
  if old.bit 0 then
    if v.bit 0 then (if v.field 4 4 = old.field 4 4 then n else n.regFault snd pgSHAPE off cSTATE)
    else
      let n := n.txEndRing p c stABORTED
      let n := n.setTx p c TxRing.reset
      let n := n.setField pgSHAPE off 0 1 0
      if v.field 4 4 = old.field 4 4 then n else n.regFault snd pgSHAPE off cSTATE
  else
    let n := n.writeFields snd pgSHAPE off (v.setBit 0 false)
    if !v.bit 0 then n
    else
      let size := 16 * n.k.txSize p c
      if !(inSram (n.k.txBase p c) size && n.k.txBase p c % size == 0) then n.regFault snd pgSHAPE off cRSVD
      else
        ((((n.setField pgSHAPE off 0 1 1).setReg pgSHAPE (qReg p c + 0x18) 0).setReg pgSHAPE (qReg p c + 0x1C)
          ((n.reg pgSHAPE (qReg p c + 0x1C)) &&& 0x10000)).setTx p c TxRing.reset)

/-- The queue a SHAPE offset belongs to. -/
def portClass (q : Nat) : Port × Nat := (if q < 8 then .a else .b, q % 8)

/-- A register of the SHAPE page written (13 R364). -/
def Node.shapeWrite (n : Node) (snd : Sender) (off : Nat) (v : Word) : Node :=
  if 0x100 ≤ off ∧ off < 0x300 then
    let (p, c) := portClass ((off - 0x100) / 0x20)
    match off % 0x20 with
    | 0x10 => if n.k.txEn p c then n.regFault snd pgSHAPE off cSTATE else n.writeFields snd pgSHAPE off v
    | 0x14 => n.txCfg snd p c v
    | 0x18 => n.txProdWrite snd p c v
    | _ => n.writeFields snd pgSHAPE off v
  else n.writeFields snd pgSHAPE off v

/-- A register of the SHAPE page read. While the block is not enabled it schedules nothing, and GATESTAT shows its Reset value
(13 R364, log entry 58). -/
def Channel.shapeRead (k : Channel) (off : Nat) : Word :=
  if off = 0x060 then
    if !k.enabled pgSHAPE then 0
    else BitVec.ofNat 32 (k.gatesA.classes.toNat + 256 * k.gatesB.classes.toNat + 65536 * (k.gatesA.entry % 64) +
      2 ^ 24 * (k.gatesB.entry % 64))
  else if 0x100 ≤ off ∧ off < 0x300 ∧ off % 0x20 = 0x0C then
    let (p, c) := portClass ((off - 0x100) / 0x20)
    BitVec.ofNat 32 (k.queue p c).length
  else k.view pgSHAPE off

/-- A register of the POLICE page written: the policer POLICE_SEL names (13 R365). -/
def Node.policeWrite (n : Node) (snd : Sender) (off : Nat) (v : Word) : Node :=
  let p := (n.reg pgPOLICE 0x040).field 0 8
  if 0x044 ≤ off && off ≤ 0x05C then n.writeAt snd (polPage p) (polOff p off) pgPOLICE (regAddr pgPOLICE off) v
  else n.writeFields snd pgPOLICE off v

/-- A register of the POLICE page read. -/
def Channel.policeRead (k : Channel) (off : Nat) : Word :=
  let p := (k.reg pgPOLICE 0x040).field 0 8
  if off = 0x058 then BitVec.ofNat 32 ((k.bucket p).tc / polByte)
  else if off = 0x05C then BitVec.ofNat 32 ((k.bucket p).tp / polByte)
  else if 0x044 ≤ off && off ≤ 0x054 then k.viewAt (polPage p) (polOff p off) pgPOLICE
  else k.view pgPOLICE off

/-! ## The commands -/

/-- A write of SHAPE_TXPROD. -/
def execShapeTxprodWrite (snd : Sender) (c : Ch) (p : Port) (k : Fin 8) (v : Word) (s : State) : Out :=
  .next (s.regCmd snd c pgSHAPE (qReg p k + 0x18) fun n => n.shapeWrite snd (qReg p k + 0x18) v)

/-- The next entry of a transmit ring is fetched. -/
def execTxRingFetch (c : Ch) (p : Port) (k : Fin 8) (s : State) : Out :=
  .next (s.within c fun n => n.txFetch p k)

/-- The oldest entry of a transmit ring completes. -/
def execTxEntryCompletion (c : Ch) (p : Port) (k : Fin 8) (s : State) : Out :=
  .next (s.within c fun n => if n.k.live pgSHAPE then n.txReport p k else n)

/-- A transmit entry's deadline fires. -/
def execTxDeadline (c : Ch) (p : Port) (k : Fin 8) (idx : Nat) (s : State) : Out :=
  .next (s.within c fun n => if n.k.running then n.txDeadline p k idx else n)

/-- The next entry of a gate list takes effect. -/
def execGateEntry (c : Ch) (p : Port) (s : State) : Out :=
  .next (s.within c fun n => if n.k.running then n.gateNext p else n)

/-- A write of SHAPE_TXCFG with EN 1. -/
def execShapeTxcfgEn (snd : Sender) (c : Ch) (p : Port) (k : Fin 8) (v : Word) (s : State) : Out :=
  .next (s.regCmd snd c pgSHAPE (qReg p k + 0x14) fun n => n.shapeWrite snd (qReg p k + 0x14) (v.setBit 0 true))

/-- A W1C write of TXCONS.STOPPED. -/
def execTxStoppedClear (snd : Sender) (c : Ch) (p : Port) (k : Fin 8) (s : State) : Out :=
  .next (s.regCmd snd c pgSHAPE (qReg p k + 0x1C) fun n => n.shapeWrite snd (qReg p k + 0x1C) 0x10000)

end Sys2Proof.Machine
end

