-- ==== Sys2Proof/Machine/Cls.lean ====
section
/-!
DEFINITION. The packet classifier (12): walks, fragments, the exception path, delivery. A walk starts, makes its
visits as time goes by, each on the memory as it then stands (R323), and makes those that are left when it ends (log entry 11).
-/

namespace Sys2Proof.Machine

/-! ## Reading nodes and rules (12 R316–R321, R337) -/

/-- An action from its two words (12 R318). -/
def actionOf (w0 w1 : Word) : Action :=
  { dest := w0.field 8 2, port := if w0.bit 10 then .b else .a, cls := w0.field 11 3, polen := w0.bit 14,
    policer := w0.field 16 8, func := w0.field 24 3, ring := w0.field 27 3, excode := w1.field 16 8 }

def wBUDGET : WalkEnd := .exc 7 0 stWALK_FAULT.toNat 0
def wWINDOW : WalkEnd := .exc 8 0 stWALK_FAULT.toNat 0
def wBADNODE : WalkEnd := .exc 9 0 stWALK_FAULT.toNat 0

/-- A read of the walker: its bytes, or the fault that ends the walk (12 R337). -/
def Node.walkRead (n : Node) (a len : Nat) : Node × (List Byte ⊕ WalkEnd) :=
  if !inSram a len then (n, .inr (.exc 5 0 stWALK_FAULT.toNat a))
  else
    match n.getBy mCLS a len with
    | (n, .ok bs) => (n, .inl bs)
    | (n, .denied) => (n, .inr (.exc 5 0 stWALK_FAULT.toNat a))
    | (n, .ecc) => (n, .inr (.exc 6 0 stECC_FAIL.toNat a))

/-- The active configuration set (12 R322). -/
def Channel.walkCfg (k : Channel) : WalkCfg :=
  { root := (k.reg pgCLS 0x040).field 0 8, except := (k.reg pgCLS 0x040).bit 8,
    graph := (k.reg pgCLS 0x044).toNat / 4096 * 4096, rules := (k.reg pgCLS 0x048).toNat / 131072 * 131072,
    defact := actionOf (k.reg pgCLS 0x04C) (k.reg pgCLS 0x050),
    kmask := (List.range 16).map fun p =>
      ((List.range 4).map fun w => bytesLE 4 (k.reg pgCLS (0x200 + 0x10 * p + 4 * w)).toNat).flatten }

/-- Whether a rule entry hits (12 R321). -/
def ruleHit (e key : List Byte) (prof : Nat) : Bool :=
  let w := wordAt e 0
  w.bit 0 && w.field 4 4 == prof && slice e 16 16 == key

def ruleAction (e : List Byte) : Action := actionOf (wordAt e 0) (wordAt e 4)

/-- The end of a lookup: a hit, a miss, or a fault; and the visits made. -/
inductive Look where
  | hit (a : Action) | miss | stop (r : WalkEnd)

/-- The chain from an entry on, a visit each (12 R321). -/
def Node.chain (n : Node) (c : WalkCfg) (key : List Byte) (prof : Nat) : Nat → List Byte → Nat → Node × Look × Nat
  | 0, _, v => (n, .stop wBUDGET, v)
  | f + 1, e, v =>
    let w1 := wordAt e 4
    if !w1.bit 12 then (n, .miss, v)
    else if 24 ≤ v then (n, .stop wBUDGET, v)
    else
      match n.walkRead (c.rules + 32 * w1.field 0 12) 32 with
      | (n, .inr r) => (n, .stop r, v)
      | (n, .inl e) =>
        if ruleHit e key prof then (n, .hit (ruleAction e), v + 1) else Node.chain n c key prof f e (v + 1)

/-- A lookup with profile p after `v` visits (12 R321). -/
def Node.lookup (n : Node) (c : WalkCfg) (key0 : List Byte) (prof v : Nat) : Node × Look × Nat :=
  let key := List.zipWith (· &&& ·) key0 (c.kmask.getD prof [])
  let b := crc32c (key ++ [BitVec.ofNat 8 prof]) % 2048
  match n.walkRead (c.rules + 64 * b) 64 with
  | (n, .inr r) => (n, .stop r, v)
  | (n, .inl bs) =>
    let e0 := slice bs 0 32
    let e1 := slice bs 32 32
    if ruleHit e0 key prof then (n, .hit (ruleAction e0), v)
    else if ruleHit e1 key prof then (n, .hit (ruleAction e1), v)
    else n.chain c key prof 25 e1 v

/-- The cursor after a node, or none where the length byte lies beyond the window (12 R316). -/
def advance (win : List Byte) (cur mode lofs adv : Nat) : Option Nat :=
  if mode = 0 then some (cur + adv)
  else if 127 < cur + lofs then none
  else
    let b := (byteAt win (cur + lofs)).toNat
    some (cur + adv + (if mode = 1 then 4 * (b % 16) else 8 * (b + 1)))

/-- What a node leads to. -/
inductive Move where
  | goto (w : WalkAt) | fin (r : WalkEnd) (w : WalkAt) | later (key : List Byte) (w : WalkAt)

/-- The fragment key: source, destination, identification, protocol, receiving port (12 R325). -/
def fragKey (win : List Byte) (h : Nat) (p : Port) : List Byte :=
  slice win (h + 12) 8 ++ slice win (h + 4) 2 ++ [byteAt win (h + 9), BitVec.ofNat 8 p.num]

/-- The node after a FRAG node's own rules (12 R317): the selector, the compare or the lookup, the cursor. -/
def Node.nodeRest (n : Node) (c : WalkCfg) (win nd : List Byte) (w : WalkAt) : Node × Move :=
  let w0 := wordAt nd 0
  let w1 := wordAt nd 4
  let w2 := wordAt nd 8
  let w3 := wordAt nd 12
  let width := 2 ^ w0.field 2 2
  let ken := w0.bit 6
  let at_ := w.cur + w0.field 8 7
  let look := w0.field 0 2 = 1
  if (!look || ken) && 128 < at_ + width then (n, .fin wWINDOW w)
  else
    let sel := slice win at_ width
    let kpos := w2.field 24 4
    let w := if ken then { w with key := w.key.take kpos ++ sel ++ w.key.drop (kpos + width) } else w
    let next := fun (node : Nat) (w : WalkAt) => match advance win w.cur (w0.field 4 2) (w0.field 16 7) (w0.field 24 8) with
      | none => Move.fin wWINDOW w
      | some cur => Move.goto { w with cur := cur, node := node }
    if look then
      let (n, r, v) := n.lookup c w.key (w2.field 28 4) w.visits
      let w := { w with visits := v }
      match r with
      | .stop e => (n, .fin e w)
      | .hit a =>
        let n := n.clsCount 1
        (n, match next 0 w with
          | .fin e w => .fin e w
          | _ => .fin (.act a 0) w)
      | .miss =>
        let n := n.clsCount 2
        (n, match next (w2.field 16 8) w with
          | .fin e w => .fin e w
          | m => if w3.bit 24 then .fin (.act c.defact 2) w else m)
    else
      let v := ofBytesBE sel % 65536 &&& w3.field 0 16
      let node := if v = w1.field 0 16 then w2.field 0 8 else if v = w1.field 16 16 then w2.field 8 8 else w2.field 16 8
      (n, next node w)

/-- One visit (12 R317, R325–R327, R337). -/
def Node.visit (n : Node) (c : WalkCfg) (p : Port) (win : List Byte) (w : WalkAt) : Node × Move :=
  if 24 ≤ w.visits then (n, .fin wBUDGET w)
  else
    match n.walkRead (c.graph + 16 * w.node) 16 with
    | (n, .inr r) => (n, .fin r w)
    | (n, .inl nd) =>
      let w := { w with visits := w.visits + 1, last := w.node }
      let w0 := wordAt nd 0
      let typ := w0.field 0 2
      if typ = 2 then (n, .fin (.exc 1 ((wordAt nd 12).field 16 8) stOK.toNat 0) w)
      else if w0.field 2 2 = 3 || w0.field 4 2 = 3 || (w0.bit 6 && 16 < (wordAt nd 8).field 24 4 + 2 ^ w0.field 2 2) then
        (n, .fin wBADNODE w)
      else if typ = 3 then
        let h := w.cur + w0.field 16 7
        if 128 < h + 8 then (n, .fin wWINDOW w)
        else
          let hw := ofBytesBE (slice win (h + 6) 2)
          let mf := hw / 8192 % 2 = 1
          let off := hw % 8192
          if !mf && off = 0 then n.nodeRest c win nd w
          else
            let w := { w with frag := true }
            if c.except then (n, .fin (.exc 4 0 stOK.toNat 0) w)
            else if 128 < h + 20 then (n, .fin wWINDOW w)
            else if off ≠ 0 then (n, .later (fragKey win h p) w)
            else n.nodeRest c win nd { w with store := some (fragKey win h p) }
      else n.nodeRest c win nd w

/-! ## Fragments (12 R325, R326, R335) -/

/-- An entry that has not expired: CLS_FRAGAGE whistles from its creation. -/
def Channel.fragLive (k : Channel) (e : FragEntry) : Bool :=
  k.wh.count.toNat < e.born.toNat + (k.reg pgCLS 0x058).field 0 8

/-- The live entries, oldest first. -/
def Channel.frags (k : Channel) : List FragEntry := k.cls.frags.filter k.fragLive

/-- A first fragment's action is stored; a full table loses its oldest entry. -/
def Node.fragPut (n : Node) (key : List Byte) (a : Action) (reason ver : Nat) : Node :=
  let l := n.k.frags.filter fun e => e.key ≠ key
  let e : FragEntry := ⟨key, a, reason, ver, n.k.wh.count⟩
  if 512 ≤ l.length then (n.onCls fun x => { x with frags := l.drop 1 ++ [e] }).clsCount 14
  else n.onCls fun x => { x with frags := l ++ [e] }

/-! ## The walk's start and end -/

/-- The next frame enters the classifier, under the active set (12 R313, R320, R322, R340). -/
def Node.walkStart (n : Node) : Node :=
  match n.k.cls.walk, n.k.cls.backlog with
  | none, fr :: rest =>
    if !n.k.live pgCLS then n
    else
      let c := n.k.walkCfg
      let pos : WalkAt := ⟨c.root, 0, List.replicate 16 0, 0, c.root, false, none⟩
      (n.onCls fun x => { x with backlog := rest, walk := some ⟨fr, x.version, c, pos, false, none⟩ }).clsCount 0
  | _, _ => n

/-- A walk after a move. A later fragment's walk ends with the action its table entry holds, under that entry's tag, or
without one (12 R326). -/
def Node.walkMoved (n : Node) (w : Walk) : Move → Node × Walk
  | .goto pos => (n, { w with pos := pos })
  | .fin r pos => (n, { w with pos := pos, res := some r })
  | .later key pos =>
    match n.k.frags.find? fun e => e.key = key with
    | some e => (n.clsCount 12, { w with ver := e.ver, pos := { pos with store := none }, res := some (.act e.act e.reason) })
    | none => (n.clsCount 13, { w with pos := { pos with store := none }, res := some (.exc 3 0 stOK.toNat 0) })

/-- The next visit of a walk that has not ended (12 R320, R323). -/
def Node.walkVisit (n : Node) (w : Walk) : Node × Walk :=
  if w.res.isSome then (n, w)
  else
    let (n, m) := n.visit w.cfg w.frame.port w.frame.win w.pos
    n.walkMoved w m

/-- At most `f` visits of a walk. -/
def Node.walkGo (n : Node) (w : Walk) : Nat → Node × Walk
  | 0 => (n, w)
  | f + 1 => let (n, w) := n.walkVisit w; Node.walkGo n w f

/-- The walker has time for one visit. -/
def Node.walkTick (n : Node) : Node :=
  match n.k.cls.walk with
  | none => n
  | some w => let (n, w) := n.walkVisit w; n.onCls fun x => { x with walk := some w }

/-- An exception entry (12 R329). -/
def excEntry (w : Walk) (reason code status faddr cls : Nat) : List Byte :=
  bytesLE 4 w.frame.buf ++ bytesLE 2 w.frame.len ++ bytesLE 1 w.ver ++ bytesLE 1 status ++ bytesLE 1 reason ++
  bytesLE 1 code ++ bytesLE 1 w.pos.last ++ bytesLE 1 (w.frame.port.num + 2 * cls + 16 * w.pos.frag.toNat) ++
  bytesLE 4 faddr ++ bytesLE 8 w.frame.stamp.toNat ++ bytesLE 1 w.pos.visits ++ List.replicate 7 0

def Channel.excSize (k : Channel) : Nat := 2 ^ (k.reg pgCLS 0x070).field 4 4
def Channel.excProd (k : Channel) : Nat := (k.reg pgCLS 0x074).field 0 12
def Channel.excCons (k : Channel) : Nat := (k.reg pgCLS 0x078).field 0 12

/-- A frame goes to the exception path (12 R328, R338). -/
def Node.exception (n : Node) (w : Walk) (reason code status faddr cls : Nat) : Node :=
  let k := n.k
  if !(k.reg pgCLS 0x070).bit 0 || (k.excProd + 1) % k.excSize = k.excCons then (n.freeBuf w.frame.buf).clsCount 8
  else if k.cls.excused = (k.reg pgCLS 0x054).field 0 10 then (n.freeBuf w.frame.buf).clsCount 7
  else
    let a := (k.reg pgCLS 0x06C).toNat / 32 * 32 + 32 * k.excProd
    match n.put mCLS a (excEntry w reason code status faddr cls) with
    | (n, .ok _) =>
      let empty := n.k.excProd = n.k.excCons
      let n := (n.setReg pgCLS 0x074 (BitVec.ofNat 32 ((n.k.excProd + 1) % n.k.excSize))).onCls fun x =>
        { x with excused := x.excused + 1 }
      ((n.clsCount 6).giveFw w.frame.buf).raiseIf empty evCLS_EXCEPTION
    | (n, _) =>
      ((n.freeBuf w.frame.buf).fault pgCLS 0x10 0 (BitVec.ofNat 32 a)).setField pgCLS 0x070 0 1 0

/-- Stages 9 and 10: the policer, then the destination (01 R29, 12 R319, 13 R354). -/
def Node.deliver (n : Node) (w : Walk) (a : Action) (reason : Nat) : Node :=
  let fr := w.frame
  let (n, v) := if a.polen then n.police a.policer (fr.len + 4) fr.dei else (n, .pass)
  let go := fun (n : Node) (cls : Nat) =>
    match a.dest with
    | 0 => (n.clsCount 3).freeBuf fr.buf
    | 1 =>
      let (n, ok) := (n.clsCount 4).enq a.port cls ⟨.classifier, fr.buf, fr.len⟩
      if ok then n else n.freeBuf fr.buf
    | 2 => (n.clsCount 5).dmaDeliver a.func a.ring fr.buf fr.len (w.ver + 256 * cls + 2048 * fr.port.num)
    | _ => n.exception w reason a.excode stOK.toNat 0 cls
  match v with
  | .pass => go n a.cls
  | .recl c => go n c
  | .drop => n.freeBuf fr.buf

/-- What a walk's end leads to: its action or its exception (12 R319, R326, R328, R337). -/
def Node.walkAct (n : Node) (w : Walk) : WalkEnd → Node
  | .act a reason =>
    let n := match w.pos.store with
      | some key => n.fragPut key a reason w.ver
      | none => n
    n.deliver w a reason
  | .exc reason code status faddr =>
    let n := if 5 ≤ reason then
        let n := (n.clsCount 9).raise evCLS_WALK_FAULT
        let n := if reason = 6 then n.clsCount 10 else if reason = 7 then n.clsCount 11 else n
        if reason = 5 || reason = 6 then n.setReg pgCLS 0x068 (BitVec.ofNat 32 faddr) else n
      else n
    n.exception w reason code status faddr 0

/-- A walk makes the visits it has left, no more than 24 and one that finds the budget spent, and ends. -/
def Node.walkEnd (n : Node) : Node :=
  match n.k.cls.walk with
  | none => n
  | some w =>
    let (n, w) := n.walkGo w 25
    (n.onCls fun x => { x with walk := none, oldBusy := if w.old then false else x.oldBusy }).walkAct w (w.res.getD wBUDGET)

/-! ## Commit at the whistle (12 R322, R328) -/

/-- C+2: EXCUSED restarts; a swap of the page commits a version. -/
def Node.clsCommit (n : Node) (swapped : Bool) : Node :=
  let n := n.onCls fun x => { x with excused := 0 }
  if !swapped then n
  else
    (n.onCls fun x =>
      { x with version := (x.version + 1) % 256, oldBusy := x.oldBusy || x.walk.isSome,
               walk := x.walk.map fun w => { w with old := true } }).raise evCLS_COMMIT

/-- A block reset of the CLS page, which happens only with the pool and the exception ring disabled (12 R340). -/
def Node.clsReset (n : Node) : Node :=
  (n.onK fun k => k.clearPage pgCLS fun _ => false).onK fun k => { k with cls := Classifier.reset }

/-! ## Registers (12 R330, R340, R341) -/

/-- A write of CLS_EXCCFG (12 R331, R340; log entry 23). -/
def Node.excCfg (n : Node) (snd : Sender) (v : Word) : Node :=
  let old := n.reg pgCLS 0x070
  if old.bit 0 then
    if (v ^^^ old) &&& 0xF0 ≠ 0 then n.regFault snd pgCLS 0x070 cSTATE else n.setField pgCLS 0x070 0 1 (v.field 0 1)
  else
    let n := n.writeFields snd pgCLS 0x070 (v.setBit 0 false)
    if !v.bit 0 then n
    else
      let size := excSize n.k
      let base := (n.reg pgCLS 0x06C).toNat / 32 * 32
      if !(inSram base size && base % size == 0) then n.regFault snd pgCLS 0x070 cRSVD
      else ((n.setField pgCLS 0x070 0 1 1).setReg pgCLS 0x074 0).setReg pgCLS 0x078 0

/-- A write of CLS_EXCCONS: a value beyond PROD is rejected (12 R330). -/
def Node.excCons (n : Node) (snd : Sender) (v : Word) : Node :=
  let size := n.k.excSize
  let ahead := fun x => (x + size - n.k.excCons) % size
  if v.field 0 12 < size && ahead (v.field 0 12) ≤ ahead n.k.excProd then
    n.setReg pgCLS 0x078 (BitVec.ofNat 32 (v.field 0 12))
  else n.regFault snd pgCLS 0x078 cRSVD

/-- A register of the CLS page written. -/
def Node.clsWrite (n : Node) (snd : Sender) (off : Nat) (v : Word) : Node :=
  match off with
  | 0x070 => n.excCfg snd v
  | 0x078 => n.excCons snd v
  | 0x080 => n.poolCfg snd v
  | 0x088 => n.bufFree snd v
  | _ => n.writeFields snd pgCLS off v

/-- A register of the CLS page read. -/
def Channel.clsRead (k : Channel) (off : Nat) : Word :=
  match off with
  | 0x060 => BitVec.ofNat 32 k.cls.version
  | 0x064 => BitVec.ofNat 32 (k.cls.oldBusy.toNat + 2 * k.cls.walk.isSome.toNat + 16 * k.cls.backlog.length +
      65536 * k.cls.excused)
  | 0x084 => BitVec.ofNat 32 k.cls.free.length
  | _ => k.view pgCLS off

/-! ## The commands -/

/-- A walk starts. -/
def execWalkStart (c : Ch) (s : State) : Out := .next (s.within c Node.walkStart)

/-- The running walk ends; a walk under way when ENABLE is cleared still ends. -/
def execWalkEnd (c : Ch) (s : State) : Out :=
  .next (s.within c fun n => if n.k.running then n.walkEnd else n)

/-- A write of CLS_EXCCONS. -/
def execClsExcconsWrite (snd : Sender) (c : Ch) (v : Word) (s : State) : Out :=
  .next (s.regCmd snd c pgCLS 0x078 fun n => n.clsWrite snd 0x078 v)

/-- A write of CLS_BUFFREE. -/
def execClsBuffree (snd : Sender) (c : Ch) (v : Word) (s : State) : Out :=
  .next (s.regCmd snd c pgCLS 0x088 fun n => n.clsWrite snd 0x088 v)

/-- A write of CLS_EXCCFG. -/
def execClsExccfgEn (snd : Sender) (c : Ch) (v : Word) (s : State) : Out :=
  .next (s.regCmd snd c pgCLS 0x070 fun n => n.clsWrite snd 0x070 v)

/-- A write of CLS_POOLCFG. -/
def execClsPoolcfgEn (snd : Sender) (c : Ch) (v : Word) (s : State) : Out :=
  .next (s.regCmd snd c pgCLS 0x080 fun n => n.clsWrite snd 0x080 v)

end Sys2Proof.Machine
end

