-- ==== Sys2Proof/Machine/Die.lean ====
section
/-!
DEFINITION. Die units and the carry check's commands (10). Feeds take no time here (log entry 11): DIE_BUSY reads 0.
-/

namespace Sys2Proof.Machine

/-- The offset of unit u's block (10 R289). -/
def dieU (u : Nat) : Nat := 0x100 + 0x40 * u

/-- STATE and SEED of a unit. -/
def Channel.dieState (k : Channel) (u : Nat) : Nat := (k.reg pgDIE (dieU u + 0x08)).toNat

/-- Bytes fed to a unit: STATE and COUNT (10 R275). -/
def Node.dieFeed (n : Node) (u : Nat) (bs : List Byte) : Node :=
  let n := n.setReg pgDIE (dieU u + 0x08) (BitVec.ofNat 32 (dieFold u (n.k.dieState u) bs))
  n.countBy pgDIE (dieU u + 0x10) bs.length

/-- A feed write: refused while ENABLE is 0 (10 R284). -/
def Node.dieFeedWrite (n : Node) (snd : Sender) (u off : Nat) (bs : List Byte) : Node :=
  if n.k.enabled pgDIE then n.dieFeed u bs else n.regFault snd pgDIE (dieU u + off) cSTATE

/-- DIE_CTRLu written: START loads STATE and zeroes COUNT, MARK sets DONE and raises EVT_DIE_DONE (10 R275, R277,
R284). -/
def Node.dieCtrl (n : Node) (snd : Sender) (u : Nat) (w : Word) : Node :=
  if !(w.bit 0 || w.bit 1) then n
  else if !n.k.enabled pgDIE then n.regFault snd pgDIE (dieU u) cSTATE
  else
    let n := if w.bit 0 then
        (n.setReg pgDIE (dieU u + 0x08) (n.reg pgDIE (dieU u + 0x04))).setReg pgDIE (dieU u + 0x10) 0
      else n
    if w.bit 1 then (n.setReg pgDIE 0x040 ((n.reg pgDIE 0x040).setBit u true)).raise evDIE_DONE else n

/-- A register of the DIE page written. -/
def Node.dieWrite (n : Node) (snd : Sender) (off : Nat) (w : Word) : Node :=
  if 0x100 ≤ off ∧ off < 0x300 then
    let u := (off - 0x100) / 0x40
    match (off - 0x100) % 0x40 with
    | 0x00 => n.dieCtrl snd u w
    | 0x20 | 0x24 | 0x28 | 0x2C => n.dieFeedWrite snd u (off - dieU u) (bytesLE 4 w.toNat)
    | 0x30 => n.dieFeedWrite snd u 0x30 (bytesLE 2 w.toNat)
    | 0x34 => n.dieFeedWrite snd u 0x34 (bytesLE 1 w.toNat)
    | _ => n.writeFields snd pgDIE off w
  else n.writeFields snd pgDIE off w

/-- What a register of the DIE page reads: RESULT is computed from STATE (10 R272). -/
def Channel.dieRead (k : Channel) (off : Nat) : Word :=
  if 0x100 ≤ off ∧ off < 0x300 ∧ (off - 0x100) % 0x40 = 0x0C then
    BitVec.ofNat 32 (dieResult ((off - 0x100) / 0x40) (k.dieState ((off - 0x100) / 0x40)))
  else k.view pgDIE off

/-- DIE_CTRLu.START. -/
def execDieStart (snd : Sender) (c : Ch) (u : Fin 8) (s : State) : Out :=
  .next (s.regCmd snd c pgDIE (dieU u) fun n => n.dieCtrl snd u 1)

/-- A write to DIE_FEED8u. -/
def execDieFeed8 (snd : Sender) (c : Ch) (u : Fin 8) (v : Word) (s : State) : Out :=
  .next (s.regCmd snd c pgDIE (dieU u + 0x34) fun n => n.dieFeedWrite snd u 0x34 (bytesLE 1 v.toNat))

/-- A write to DIE_FEED16u: the low byte first. -/
def execDieFeed16 (snd : Sender) (c : Ch) (u : Fin 8) (v : Word) (s : State) : Out :=
  .next (s.regCmd snd c pgDIE (dieU u + 0x30) fun n => n.dieFeedWrite snd u 0x30 (bytesLE 2 v.toNat))

/-- Ascending words written to DIE_FEED32u, each an access of its own (03 R69). -/
def execDieFeed32 (snd : Sender) (c : Ch) (u : Fin 8) (ws : List Word) (s : State) : Out :=
  .next (s.regCmd snd c pgDIE (dieU u + 0x20) fun n =>
    (ws.foldl (fun (a : Node × Nat) w =>
      (a.1.dieFeedWrite snd u (0x20 + a.2 % 16) (bytesLE 4 w.toNat), a.2 + 4)) (n, 0)).1)

/-- A write of DIE_STATEu. -/
def execDieStateWrite (snd : Sender) (c : Ch) (u : Fin 8) (v : Word) (s : State) : Out :=
  .next (s.regCmd snd c pgDIE (dieU u + 0x08) fun n => n.writeFields snd pgDIE (dieU u + 0x08) v)

/-- DIE_CTRLu.MARK. -/
def execDieMark (snd : Sender) (c : Ch) (u : Fin 8) (s : State) : Out :=
  .next (s.regCmd snd c pgDIE (dieU u) fun n => n.dieCtrl snd u 2)

/-! ## Probe and re-tag (10 R282) -/

/-- The master a probe or re-tag is checked as (06 R165). -/
def carryMaster (snd : Sender) : Nat := if snd = .rook then mROOK else mPF

/-- A re-tag of a block: the tag agrees with its present data (10 R282). -/
def Node.retag (n : Node) (snd : Sender) (b : Nat) : Node :=
  let a := SRAM0 + b * 64
  let m := carryMaster snd
  if n.k.settled m a 64 true = .refused then n.deny m snd.id a true
  else if !(eccIn n.k.ecc.ue .sram a 64).isEmpty then n.eccUe snd.id a
  else
    let n := n.correct .sram a 64
    let n := n.onEcc fun x =>
      { x with ueTag := x.ueTag.filter (· ≠ b), ceTag := x.ceTag.filter (· ≠ b) }
    n.onK fun k => { k with tagDiff := SMap.put 0 k.tagDiff b 0 }

/-- PROBESTAT written: MATCH, DENIED, ECC; BUSY as told. -/
def Node.probeStat (n : Node) (v : Nat) : Node := n.setReg pgCARRY 0x04C (BitVec.ofNat 32 v)

/-- The probe of a block ends: PROBESTAT, PROBETAG, PROBECALC, a mismatch recorded (10 R282, R288). -/
def Node.probe (n : Node) (snd : Sender) (b : Nat) : Node :=
  let a := SRAM0 + b * 64
  let m := carryMaster snd
  if n.k.settled m a 64 false = .refused then (n.deny m snd.id a false).probeStat 4
  else if !(eccIn n.k.ecc.ue .sram a 64).isEmpty || n.k.ecc.ueTag.contains b then (n.eccUe snd.id a).probeStat 8
  else
    let n := n.correct .sram a 64
    let n := if n.k.ecc.ceTag.contains b then
        (n.onEcc fun x => { x with ceTag := x.ceTag.filter (· ≠ b) }).eccCe
      else n
    let tag := n.k.carryTag b
    let cal := BitVec.ofNat 32 (crc32c (n.k.sram.read a 64))
    let n := (n.setReg pgCARRY 0x050 tag).setReg pgCARRY 0x054 cal
    let n := n.probeStat (if tag = cal then 2 else 0)
    if tag = cal then n else n.carryMiss m 4 b snd.id

/-- The re-tags in front of the next probe run, and that probe starts: PROBESTAT.BUSY. -/
def Node.carryRun (n : Node) : Nat → Node
  | 0 => n
  | f + 1 =>
    match n.k.carryOps with
    | [] => n
    | o :: ops =>
      if o.retag then Node.carryRun ((n.onK fun k => { k with carryOps := ops }).retag o.snd o.block) f
      else n.setField pgCARRY 0x04C 0 1 1

/-- A write of a block address to CARRY_PROBE or CARRY_RETAG (10 R282). -/
def Node.carryAsk (n : Node) (snd : Sender) (off : Nat) (v : Word) : Node :=
  let a := v.toNat / 64 * 64
  if !inSram a 64 then n.regFault snd pgCARRY off cRSVD
  else
    let n := n.onK fun k => { k with carryOps := k.carryOps ++ [⟨snd, off == 0x058, (a - SRAM0) / 64⟩] }
    if n.k.carryOps.length = 1 then n.carryRun 1 else n

/-- A register of the CARRY page written. -/
def Node.carryWrite (n : Node) (snd : Sender) (off : Nat) (w : Word) : Node :=
  if off = 0x048 || off = 0x058 then n.carryAsk snd off w else n.writeFields snd pgCARRY off w

/-- A read of CARRY_FAILCNT clears it (10 R290). -/
def Node.carryRead (n : Node) (off : Nat) : Node × Word :=
  if off = 0x044 then (n.setReg pgCARRY 0x044 0, n.reg pgCARRY 0x044) else (n, n.k.view pgCARRY off)

/-- A write of CARRY_PROBE. -/
def execCarryProbe (snd : Sender) (c : Ch) (v : Word) (s : State) : Out :=
  .next (s.regCmd snd c pgCARRY 0x048 fun n => n.carryAsk snd 0x048 v)

/-- The running probe ends, and what waited behind it starts (10 R282). Without a probe nothing ends. -/
def execProbeEnd (c : Ch) (s : State) : Out :=
  .next (s.within c fun n =>
    match n.k.carryOps with
    | [] => n
    | o :: ops =>
      let n := (n.onK fun k => { k with carryOps := ops }).probe o.snd o.block
      n.carryRun (ops.length + 1))

/-- A write of CARRY_RETAG. -/
def execCarryRetag (snd : Sender) (c : Ch) (v : Word) (s : State) : Out :=
  .next (s.regCmd snd c pgCARRY 0x058 fun n => n.carryAsk snd 0x058 v)

/-- A read of CARRY_FAILCNT. -/
def execCarryFailcntRead (snd : Sender) (c : Ch) (s : State) : Out :=
  .next (s.regRead snd c pgCARRY 0x044 fun n => n.carryRead 0x044)

/-- A block reset of the DIE page (10 R284, 03 R73). -/
def Channel.dieReset (k : Channel) : Channel := k.clearPage pgDIE fun _ => false

end Sys2Proof.Machine
end

