-- ==== Sys2Proof/Machine/Eth.lean ====
section
/-!
DEFINITION. Ethernet ports, time stamps, PRP and MDIO (11); the receive path of 01 R29 and the scheduler's choice (13 R344).
A frame comes whole, from the destination to the FCS, its first byte as a command of its own before it.
-/

namespace Sys2Proof.Machine

def Node.onEth (n : Node) (p : Port) (g : EthPort → EthPort) : Node := n.onK fun k => k.setEth p (g (k.eth p))

def Node.onPrp (n : Node) (g : Prp → Prp) : Node := n.onK fun k => { k with prp := g k.prp }

/-- A counter of a port, a counter of the PRP page (11 R312). -/
def Node.ethCount (n : Node) (p : Port) (i : Nat) : Node := n.count (pgEth p) (0x100 + 4 * i)
def Node.prpCount (n : Node) (i : Nat) : Node := n.count pgPRP (0x100 + 4 * i)

def Channel.ethCfg (k : Channel) (p : Port) : Word := k.reg (pgEth p) 0x040
def Channel.linkUp (k : Channel) (p : Port) : Bool := (k.reg (pgEth p) 0x044).bit 0

/-- PRP_MODE.MODE in force (11 R293). -/
def Channel.portMode (k : Channel) : Nat := (k.reg pgPRP 0x040).field 0 2

/-- An address register pair as a number whose lowest byte is the first on the wire. -/
def Channel.macAddr (k : Channel) (p : Port) : Nat :=
  (k.reg (pgEth p) 0x048).toNat + 2 ^ 32 * (k.reg (pgEth p) 0x04C).field 0 16

/-- ETHx_TSFILT (11 R299). -/
def Channel.tsFilt (k : Channel) (p : Port) : Nat := (k.reg (pgEth p) 0x060).field 0 4

/-- The node address of a port (11 R293). -/
def Channel.nodeAddr (k : Channel) (p : Port) : Nat := if k.portMode = 0 then k.macAddr p else k.macAddr .a

/-! ## Time stamps (11 R298, R299, R307) -/

/-- Where the PTP header of a frame starts: behind EtherType 0x88F7, or behind UDP port 319 over IPv4 or IPv6 (11 R299). -/
def ptpAt (f : List Byte) : Option (Nat × Nat) :=
  let (t, i) := etherType f
  let b := i + 2
  if t = 0x88F7 then some (0, b)
  else if t = 0x0800 then
    let ihl := 4 * ((byteAt f b).toNat % 16)
    if byteAt f (b + 9) = 17 && ofBytesBE (slice f (b + 6) 2) % 8192 = 0 && ofBytesBE (slice f (b + ihl + 2) 2) = 319 then
      some (1, b + ihl + 8)
    else none
  else if t = 0x86DD then
    (if byteAt f (b + 6) = 17 && ofBytesBE (slice f (b + 42) 2) = 319 then some (2, b + 48) else none)
  else none

/-- The FIFO entry of a frame under a filter: L2, UDP4, UDP6, ALL; none where it does not match. -/
def tsEntry (filt : Nat) (f : List Byte) (time : DWord) : Option TsEntry :=
  match ptpAt f with
  | some (kind, h) =>
    if filt.testBit kind || filt.testBit 3 then
      some ⟨time, ofBytesBE (slice f (h + 30) 2), (byteAt f h).toNat % 16, (byteAt f (h + 4)).toNat⟩
    else none
  | none => if filt.testBit 3 then some ⟨time, 0, 0, 0⟩ else none

/-- The stamp of a frame that matches the filter enters a FIFO of 4, or is lost with OVF set (11 R299, R307). -/
def Node.stampFrame (n : Node) (p : Port) (tx : Bool) (filt : Nat) (f : List Byte) (time : DWord) : Node :=
  match tsEntry filt f time with
  | none => n
  | some e =>
    let l := if tx then (n.k.eth p).txTs else (n.k.eth p).rxTs
    if 4 ≤ l.length then n.setField (pgEth p) 0x064 (if tx then 9 else 8) 1 1
    else
      (n.onEth p fun x => if tx then { x with txTs := l ++ [e] } else { x with rxTs := l ++ [e] }).raise (evEthTs p)

/-- A read of RXTS0 or TXTS0 pops the head entry into its three registers (11 R310). -/
def Node.tsPop (n : Node) (p : Port) (tx : Bool) : Node × Word :=
  let b := if tx then 0x078 else 0x068
  let put := fun (n : Node) (a x y : Word) =>
    ((n.setReg (pgEth p) b a).setReg (pgEth p) (b + 4) x).setReg (pgEth p) (b + 8) y
  match (if tx then (n.k.eth p).txTs else (n.k.eth p).rxTs) with
  | [] => (put n 0 0 0, 0)
  | e :: l =>
    let n := n.onEth p fun x => if tx then { x with txTs := l } else { x with rxTs := l }
    (put n (BitVec.ofNat 32 e.time.toNat) (BitVec.ofNat 32 (e.time.toNat / 2 ^ 32))
      (BitVec.ofNat 32 (e.seq + 65536 * e.msg + 2 ^ 20 * e.dom + 2 ^ 31)), BitVec.ofNat 32 e.time.toNat)

/-! ## Transmit (11 R297, R300, R301; 13 R344, R350) -/

/-- A frame leaves its queue's hands with a status: its item, its pool buffer, its place in the receive buffer. -/
def Node.frameDone (n : Node) (p : Port) (q : QFrame) (st : Byte) : Node :=
  match q.src with
  | .ring m => n.txFix p (m % 16) (m / 16) st
  | .classifier | .pass _ _ _ | .ended => n.giveBack q

/-- The redundancy control trailer (11 R300); LSDUsize counts what follows the EtherType, the trailer included (log
entry 25). -/
def rct (seq lan lsdu : Nat) : List Byte := bytesBE 2 seq ++ bytesBE 2 (lan * 4096 + lsdu % 4096) ++ [0x88, 0xFB]

/-- The LSDU size of a frame without FCS. -/
def lsduSize (f : List Byte) : Nat := f.length - (if (vlanTag f).isSome then 18 else 14)

/-- Padding to 60 bytes and the FCS (11 R291). -/
def wireFrame (f : List Byte) : List Byte :=
  let f := f ++ List.replicate (60 - f.length) 0
  f ++ bytesLE 4 (crc32 f)

/-- A frame of a pair for one LAN: padding, trailer, FCS (11 R301). -/
def pairFrame (f : List Byte) (seq lan : Nat) : List Byte :=
  let f := f ++ List.replicate (54 - f.length) 0
  let f := f ++ rct seq lan (lsduSize f + 6)
  f ++ bytesLE 4 (crc32 f)

/-- A frame ends at a port without having been sent, or cut short: its counter (11 R312). -/
def Node.countEnd (n : Node) (p : Port) (st : Byte) : Node :=
  if st = stCARRY_FAIL then n.ethCount p 12 else if st = stECC_FAIL then n.ethCount p 13
  else if st = stDOWN || st = stABORTED then n.ethCount p 14 else n

/-- The carry tags of a frame in a receive buffer, one per 64 bytes, CRC-32C as in SRAM (10 R274, 11 R295). -/
def frameTags (f : List Byte) : List Word :=
  (List.range (ceilDiv f.length 64)).map fun i => BitVec.ofNat 32 (crc32c ((f.drop (64 * i)).take 64))

/-- The data of a frame at the MAC, verified: its bytes, or the status it ends with (11 R297). A mismatch
in a receive buffer lies at no SRAM address: PG_FAULTADDR shows 0 (log entry 58). -/
def Node.loadFrame (n : Node) (q : QFrame) : Node × (List Byte ⊕ Byte) :=
  match q.src with
  | .pass _ bytes tags =>
    if tags = frameTags bytes then (n, .inl bytes) else (n.carryMissAt mETH 1 0 0, .inr stCARRY_FAIL)
  | _ =>
    match n.exitBy mETH 1 q.addr q.len with
    | (n, .ok bs, false) => (n, .inl bs)
    | (n, .ok _, true) => (n, .inr stCARRY_FAIL)
    | (n, .ecc, _) => (n, .inr stECC_FAIL)
    | (n, .denied, _) => (n, .inr stABORTED)

/-- The status of a pair once both copies have ended (11 R301). -/
def pairStatus (a b : Byte) : Byte :=
  if a = stOK || b = stOK then stOK else if a = stDOWN && b = stDOWN then stDOWN else if a = stDOWN then b else a

/-- The pair's item completes when both copies have ended. -/
def Node.pairDone (n : Node) : Node :=
  match n.k.prp.pair with
  | some x =>
    (match x.outA, x.outB with
     | some a, some b => (n.onPrp fun y => { y with pair := none }).frameDone .a x.q (pairStatus a b)
     | _, _ => n)
  | none => n

/-- One copy of the pair ends. -/
def Node.pairEnd (n : Node) (p : Port) (st : Byte) : Node :=
  (n.onPrp fun y => { y with pair := y.pair.map fun x =>
    match p with
    | .a => { x with outA := some st }
    | .b => { x with outB := some st } }).pairDone

/-- LAN B's copy starts as soon as port B's wire is free (11 R301). -/
def Node.pairB (n : Node) : Node :=
  match n.k.prp.pair with
  | some x =>
    if x.outB.isSome || n.k.ethB.tx.isSome then n
    else if !(n.k.live pgETHB && n.k.linkUp .b) then (n.countEnd .b stDOWN).pairEnd .b stDOWN
    else n.onEth .b fun y => { y with tx := some ⟨x.cls, x.q, x.body, true, true⟩ }
  | none => n

/-- A frame of port A's queues sent on both LANs (11 R301). -/
def Node.startPair (n : Node) (cls : Nat) (q : QFrame) : Node :=
  if (n.k.ethCfg .a).field 16 14 < max 60 (q.len + 6) + 4 then (n.countEnd .a stABORTED).frameDone .a q stABORTED
  else
    match n.loadFrame q with
    | (n, .inr st) => (n.countEnd .a st).frameDone .a q st
    | (n, .inl data) =>
      let seq := (n.reg pgPRP 0x050).field 0 16
      let n := (n.setReg pgPRP 0x050 (BitVec.ofNat 32 ((seq + 1) % 65536))).prpCount 0
      let fa := pairFrame data seq 0xA
      let n := n.onPrp fun y => { y with pair := some ⟨cls, q, none, none, pairFrame data seq 0xB⟩ }
      let up := n.k.linkUp .a || (n.k.live pgETHB && n.k.linkUp .b)
      let n := if up then n.charge .a cls fa.length else n
      let n := if n.k.linkUp .a then n.onEth .a fun y => { y with tx := some ⟨cls, q, fa, false, true⟩ }
        else (n.countEnd .a stDOWN).pairEnd .a stDOWN
      n.pairB

/-- A frame at a port's MAC (11 R297). -/
def Node.startOne (n : Node) (p : Port) (cls : Nat) (q : QFrame) : Node :=
  if !n.k.linkUp p then (n.countEnd p stDOWN).frameDone p q stDOWN
  else
    match n.loadFrame q with
    | (n, .inr st) => (n.countEnd p st).frameDone p q st
    | (n, .inl data) =>
      let f := wireFrame data
      (n.charge p cls f.length).onEth p fun y => { y with tx := some ⟨cls, q, f, false, false⟩ }

/-- Whether a port's frames go out as pairs. -/
def Channel.pairs (k : Channel) (p : Port) : Bool := k.portMode = 1 && p = .a

/-- The length with FCS that a frame will have on the wire. -/
def Channel.wireLen (k : Channel) (p : Port) (q : QFrame) : Nat :=
  if k.pairs p then max 60 (q.len + 6) + 4 else withFcs q.len

/-- A class is eligible (13 R344). -/
def Channel.eligible (k : Channel) (p : Port) (c : Nat) : Bool :=
  match k.queue p c with
  | [] => false
  | q :: _ => k.guard p c (k.wireLen p q) && (!k.shapeOn p c || 0 < k.credit p c)

/-- The scheduler offers the head frame of the highest eligible class to a free MAC (13 R344). -/
def Node.txStart (n : Node) (p : Port) : Node :=
  let k := n.k
  if !(k.live (pgEth p) && k.live pgSHAPE) || (k.eth p).tx.isSome || (k.pairs p && k.prp.pair.isSome) then n
  else
    match [7, 6, 5, 4, 3, 2, 1, 0].find? fun c => k.eligible p c with
    | none => n
    | some c =>
      match k.queue p c with
      | [] => n
      | q :: rest =>
        let n := n.setQueue p c rest
        let n := match q.src with
          | .ring m => n.onTx p (m % 16) (List.map fun it => if it.idx = m / 16 then { it with queued := false } else it)
          | _ => n
        if k.pairs p then n.startPair c q else n.startOne p c q

/-- The frame on a port's wire ends with a status, its port's wire free (11 R297, R301). -/
def Node.wireStop (n : Node) (p : Port) (st : Byte) : Node :=
  match (n.k.eth p).tx with
  | none => n
  | some t =>
    let n := (n.onEth p fun y => { y with tx := none }).countEnd p st
    if t.pair then n.pairEnd p st else n.frameDone p t.q st

/-- The same on a port that works on: a LAN B copy that waits for port B's wire starts (11 R301, R308). -/
def Node.wireEnd (n : Node) (p : Port) (st : Byte) : Node :=
  if (n.k.eth p).tx.isNone then n else if p = .b then (n.wireStop p st).pairB else n.wireStop p st

/-- A frame has been sent; `stamp` is TIME_NOW at its first bit after the SFD (11 R298). -/
def Node.txSent (n : Node) (p : Port) (stamp : DWord) : Node :=
  match (n.k.eth p).tx with
  | none => n
  | some t =>
    let n := (n.ethCount p 10).countBy (pgEth p) (0x100 + 4 * 11) t.bytes.length
    let n := n.stampFrame p true (n.k.tsFilt p) t.bytes (stamp + BitVec.ofNat 64 ((n.reg (pgEth p) 0x058).field 16 16))
    n.wireEnd p stOK

/-! ## PRP receive (11 R300, R302–R304, R306) -/

/-- PRP_FORGET and PRP_LANTIMEOUT in ns. -/
def Channel.forgetNs (k : Channel) : Nat := (k.reg pgPRP 0x048).field 0 16 * 1000000
def Channel.lanNs (k : Channel) : Nat := (k.reg pgPRP 0x04C).field 0 16 * 1000000

/-- The trailer of a frame without FCS: SeqNr and LanId, where it is valid (11 R300). -/
def rctOf (f : List Byte) : Option (Nat × Nat) :=
  let t := slice f (f.length - 6) 6
  let x := ofBytesBE (slice t 2 2)
  if 20 ≤ f.length && slice t 4 2 = [0x88, 0xFB] && x % 4096 = lsduSize f % 4096 then
    some (ofBytesBE (slice t 0 2), x / 4096)
  else none

/-- The source address, lowest byte first on the wire. -/
def srcAddr (f : List Byte) : Nat := ofBytesLE (slice f 6 6)

/-- The first enabled compare mask that matches (11 R303). -/
def Channel.cmpMask (k : Channel) (f : List Byte) : Option Nat :=
  (List.range 16).find? fun i =>
    let o := 0x200 + 0x40 * i
    let hi := k.reg pgPRP (o + 4)
    let et := (k.reg pgPRP (o + 8)).field 0 16
    hi.bit 16 && (k.reg pgPRP o).toNat + 2 ^ 32 * hi.field 0 16 == srcAddr f && (et = 0 || et = (etherType f).1)

/-- Bytes of a mask's ranges made 0x00. -/
def Channel.masked (k : Channel) (i : Nat) (f : List Byte) : List Byte :=
  (List.range 8).foldl (fun f j =>
    let w := k.reg pgPRP (0x200 + 0x40 * i + 0x0C + 4 * j)
    let s := w.field 0 14
    let l := w.field 16 14
    f.take s ++ List.replicate (min l (f.length - s)) 0 ++ f.drop (s + l)) f

/-- The copy check: CRC-32C of the frame up to its trailer, masked (11 R303). -/
def Channel.copyCheck (k : Channel) (f : List Byte) : Word :=
  let b := f.take (f.length - 6)
  BitVec.ofNat 32 (crc32c (match k.cmpMask f with
    | some i => k.masked i b
    | none => b))

/-- A frame with a valid trailer on a LAN keeps it live, or brings it back (11 R304). -/
def Node.lanSeen (n : Node) (p : Port) : Node :=
  let now := n.k.nowNs
  let n := n.onPrp fun x => match p with
    | .a => { x with lastA := now }
    | .b => { x with lastB := now }
  if (n.reg pgPRP 0x044).bit p.num then n else (n.setField pgPRP 0x044 p.num 1 1).raise evPRP_LAN

/-- A LAN goes silent (11 R304). -/
def Node.lanSilent (n : Node) (p : Port) : Node :=
  let last := match p with
    | .a => n.k.prp.lastA
    | .b => n.k.prp.lastB
  if (n.reg pgPRP 0x044).bit p.num && last + n.k.lanNs ≤ n.k.nowNs then
    (n.setField pgPRP 0x044 p.num 1 0).raise evPRP_LAN
  else n

/-- A discarded copy is compared with the delivered one, unless a swap lies between the first bytes of the two (11 R303,
R306). -/
def Node.compareCopy (n : Node) (e : DupEntry) (swaps : Nat) (check : Word) : Node :=
  if e.gen ≠ swaps then n.prpCount 8
  else if e.check = check then n
  else
    let n := n.prpCount 7
    let n := if (n.reg pgPRP 0x060).bit 31 then n
      else ((n.setReg pgPRP 0x060 (BitVec.ofNat 32 (e.seq + 2 ^ 31))).setReg pgPRP 0x064 (BitVec.ofNat 32 e.sa)).setReg
        pgPRP 0x068 (BitVec.ofNat 32 (e.sa / 2 ^ 32))
    n.raise evCOPY_MISMATCH

/-- Duplicate discard (11 R302): the frame to deliver, if any. `v` is the channel as the frame's first byte found it, `swaps`
the swaps before it. -/
def Node.prpRx (n : Node) (p : Port) (v : Channel) (swaps : Nat) (f : List Byte) : Node × Option (List Byte) :=
  match rctOf f with
  | none => (n.prpCount 4, some f)
  | some (seq, lan) =>
    let n := n.prpCount (1 + p.num)
    let n := if lan = 0xA + p.num then n else n.prpCount (5 + p.num)
    let now := n.k.nowNs
    let live := n.k.prp.dup.filter fun e => now < e.time + n.k.forgetNs
    let check := v.copyCheck f
    match live.find? fun e => e.sa = srcAddr f && e.seq = seq with
    | some e =>
      (((n.onPrp fun x => { x with dup := live.filter (· ≠ e) }).prpCount 3).compareCopy e swaps check, none)
    | none =>
      let e : DupEntry := ⟨srcAddr f, seq, now, check, swaps⟩
      let n := if 1024 ≤ live.length then (n.onPrp fun x => { x with dup := live.drop 1 ++ [e] }).prpCount 9
        else n.onPrp fun x => { x with dup := live ++ [e] }
      (n, some (if (v.reg pgPRP 0x040).bit 2 then f.take (f.length - 6) else f))

/-! ## Receive (01 R29, 11 R294, R295) -/

/-- Why stage 1 drops a frame: its counter, in the order of 11 R294. -/
def Channel.rxError (k : Channel) (p : Port) (frame : List Byte) (phyErr : Bool) : Option Nat :=
  let f := frame.take (frame.length - 4)
  if frame.length < 4 || bytesLE 4 (crc32 f) ≠ frame.drop (frame.length - 4) then some 2
  else if frame.length < 64 then some 3
  else if (k.ethCfg p).field 16 14 < frame.length then some 4
  else if phyErr then some 5
  else if ofBytesBE (slice f 12 2) = 0x8808 then some 7
  else none

/-- A frame is addressed to the node (11 R294). -/
def Channel.addressed (k : Channel) (p : Port) (f : List Byte) : Bool :=
  let dst := slice f 0 6
  let h := crc32 dst / 2 ^ 26
  let hash := if h < 32 then (k.reg (pgEth p) 0x050).bit h else (k.reg (pgEth p) 0x054).bit (h - 32)
  let multi := (byteAt f 0).getLsbD 0
  ofBytesLE dst = k.nodeAddr p || dst = List.replicate 6 0xFF || (multi && ((k.ethCfg p).bit 7 || hash)) || (k.ethCfg p).bit 6

/-- A frame forwarded to the other port (11 R295). -/
def Node.passOn (n : Node) (p : Port) (f : List Byte) : Node :=
  let cls := (n.reg (pgEth p) 0x05C).field 0 3
  let (n, ok) := n.enq p.other cls ⟨.pass p f (frameTags f), 0, f.length⟩
  if ok then (n.onEth p fun x => { x with rxUsed := x.rxUsed + f.length + 4 }).ethCount p 15 else n

/-- Stages 6 and 7: admission, then the receive pool (13 R356, 12 R314, 11 R309). -/
def Node.takeIn (n : Node) (p : Port) (f : List Byte) (stamp : DWord) : Node :=
  let c := n.k.admitClass p f
  let (ok, nobuf) := n.k.admits c f.length
  if !ok then n.admitDrop c nobuf
  else
    match n.takeBuf with
    | (n, none) => n
    | (n, some a) =>
      match n.put mETH a f true with
      | (n, .ok _) =>
        let dei := match vlanTag f with
          | some t => t / 4096 % 2 = 1
          | none => false
        n.onCls fun x => { x with backlog := x.backlog ++ [⟨a, f.length, p, stamp, f.take 128, dei⟩] }
      | (n, _) => (n.freeBuf a).ethCount p 6

/-- Whether a port's receive inputs have their supply: bank 4c or 4c + 1 over RGMII (18 R485, R486). -/
def Node.ethInput (n : Node) (p : Port) : Bool := (n.k.ethCfg p).field 0 2 = 1 || n.bankUp (4 * n.c.num + p.num)

/-- Whether a port takes in what it receives: it works, and its link is up. -/
def Channel.hears (k : Channel) (p : Port) : Bool := k.live (pgEth p) && k.linkUp p

/-- The first byte of a frame: what judges the frame is fixed (11 R293, R306, R307). -/
def Node.rxFirst (n : Node) (p : Port) : Node :=
  if n.k.hears p && (n.k.eth p).rx.isNone then n.onEth p fun x => { x with rx := some ⟨n.k.regs, n.k.prp.swaps⟩ } else n

/-- The frame in reception, or one that starts now. -/
def Channel.rxOpen (k : Channel) (p : Port) : RxOpen := (k.eth p).rx.getD ⟨k.regs, k.prp.swaps⟩

/-- Stages 1 to 7 of 01 R29 for a frame; `v` is the channel as the frame's first byte found it, `swaps` the swaps of the PRP
page before it. -/
def Node.rxJudge (n : Node) (p : Port) (v : Channel) (swaps : Nat) (frame : List Byte) (phyErr : Bool) (stamp : DWord) : Node :=
  if 32768 < (n.k.eth p).rxUsed + frame.length then n.ethCount p 6
  else
    match v.rxError p frame phyErr with
    | some i => n.ethCount p i
    | none =>
      let n := (n.ethCount p 0).countBy (pgEth p) 0x104 frame.length
      let f := frame.take (frame.length - 4)
      let t := stamp - BitVec.ofNat 64 ((v.reg (pgEth p) 0x058).field 0 16)
      let n := n.stampFrame p false (v.tsFilt p) f t
      let mine := v.addressed p f
      match v.portMode with
      | 2 =>
        if srcAddr f = v.nodeAddr p then n.ethCount p 9
        else
          let group := (byteAt f 0).getLsbD 0
          let n := if !mine || group then n.passOn p f else n
          if mine then n.takeIn p f t else n
      | 1 =>
        let n := if (rctOf f).isSome then n.lanSeen p else n
        if !mine then n.ethCount p 8
        else
          (match n.prpRx p v swaps f with
           | (n, some f) => n.takeIn p f t
           | (n, none) => n)
      | _ => if mine then n.takeIn p f t else n.ethCount p 8

/-- A frame received whole on a port (01 R29). -/
def Node.rxFrame (n : Node) (p : Port) (frame : List Byte) (phyErr : Bool) (stamp : DWord) : Node :=
  if !n.k.hears p then n
  else
    let o := n.k.rxOpen p
    (n.onEth p fun x => { x with rx := none }).rxJudge p { n.k with regs := o.regs } o.swaps frame phyErr stamp

/-- What a port receives. -/
def Node.rx (n : Node) (p : Port) (r : EthRx) (phyErr : Bool) (stamp : DWord) : Node :=
  match r with
  | .first => n.rxFirst p
  | .whole frame => n.rxFrame p frame phyErr stamp

/-- A frame in reception is cut off: a receive error where the port works on (11 R308). -/
def Node.rxCut (n : Node) (p : Port) : Node :=
  if (n.k.eth p).rx.isSome then (n.onEth p fun x => { x with rx := none }).ethCount p 5 else n

/-! ## Link, MDIO, ends by cause -/

/-- A port's link changes (11 R308, R310); a fixed CFG.SPEED is the link's speed. -/
def Node.link (n : Node) (p : Port) (up : Bool) (speed : Nat) : Node :=
  let fixed := (n.k.ethCfg p).field 2 2
  let v := up.toNat + 2 * (if fixed < 3 then fixed else speed)
  let was := n.reg (pgEth p) 0x044
  let n := n.setReg (pgEth p) 0x044 (BitVec.ofNat 32 v)
  let n := n.raiseIf (was ≠ BitVec.ofNat 32 v) (evEthLink p)
  if up then n else (n.rxCut p).wireEnd p stABORTED

/-- A write of ETHA_MDIO (11 R309, R310). -/
def Node.mdioWrite (n : Node) (snd : Sender) (v : Word) : Node :=
  if (n.reg pgETHA 0x090).bit 31 then n.regFault snd pgETHA 0x090 cSTATE
  else
    let n := n.writeFields snd pgETHA 0x090 v
    if v.bit 31 then n.setField pgETHA 0x090 31 1 1 else n

/-- The MDIO frame ends: a read leaves its result in DATA (11 R310). OP 0b10 and, in Clause 45, 0b11 read. -/
def Node.mdioEnd (n : Node) (data : Half) : Node :=
  let w := n.reg pgETHA 0x090
  if !w.bit 31 then n
  else
    let n := n.setField pgETHA 0x090 31 1 0
    if w.field 26 2 = 2 || (w.bit 28 && w.field 26 2 = 3) then n.setField pgETHA 0x090 0 16 data.toNat else n

/-- A port's block reset or ENABLE cleared: the frame on its wire ends, at port B also a pair's copy that waits for the wire
(17 R478); a frame in reception is dropped uncounted (11 R305). -/
def Node.portEnd (n : Node) (p : Port) (st : Byte) : Node :=
  let n := (n.wireStop p st).onEth p fun x => { x with rx := none }
  match p, n.k.prp.pair with
  | .b, some x => if x.outB.isNone then (n.countEnd .b st).pairEnd .b st else n
  | _, _ => n

/-- A port's block reset: what its receive buffer and FIFOs held is lost. -/
def Node.portReset (n : Node) (p : Port) : Node :=
  let n := n.portEnd p stABORTED
  let n := allQueues.foldl (fun n x => n.setQueue x.1 x.2 ((n.k.queue x.1 x.2).filter fun q =>
    match q.src with
    | .pass rx _ _ => rx ≠ p
    | .classifier | .ring _ | .ended => true)) n
  let n := n.detach fun _ src => match src with
    | .pass rx _ _ => rx = p
    | .classifier | .ring _ | .ended => false
  (n.onK fun k => k.clearPage (pgEth p) fun _ => false).onEth p fun _ => EthPort.reset

/-- A swap of the PRP page, counted (11 R306); entry into pair mode empties the duplicate table (R293). -/
def Channel.prpSwap (k : Channel) (oldMode : Nat) : Channel :=
  { k with prp := { k.prp with swaps := k.prp.swaps + 1,
                               dup := if k.portMode = 1 && oldMode ≠ 1 then [] else k.prp.dup } }

/-- A register of an ETH page written. -/
def Node.ethWrite (n : Node) (snd : Sender) (p : Port) (off : Nat) (v : Word) : Node :=
  if off = 0x040 && n.k.enabled (pgEth p) then n.regFault snd (pgEth p) off cSTATE
  else if off = 0x090 && p = .a then n.mdioWrite snd v
  else n.writeFields snd (pgEth p) off v

/-- A register of an ETH page read. -/
def Node.ethRead (n : Node) (p : Port) (off : Nat) : Node × Word :=
  match off with
  | 0x064 => (n, n.reg (pgEth p) 0x064 ||| BitVec.ofNat 32 ((n.k.eth p).rxTs.length + 16 * (n.k.eth p).txTs.length))
  | 0x068 => n.tsPop p false
  | 0x078 => n.tsPop p true
  | _ => (n, n.k.view (pgEth p) off)

/-! ## The commands -/

/-- Port A or B receives; `phyErr` is the PHY's error and `stamp` TIME_NOW at the first bit after the SFD (11 R298). Over RGMII the inputs of a bank without supply read 0, and nothing comes in (18 R486, R487); the
SGMII lanes lie in no I/O bank. -/
def execEthRxFrame (c : Ch) (p : Port) (r : EthRx) (phyErr : Bool) (stamp : DWord) (s : State) : Out :=
  .next (s.within c fun n => if n.ethInput p then n.rx p r phyErr stamp else n)

/-- The scheduler offers a frame to the MAC of a port. -/
def execEthTransmitStart (c : Ch) (p : Port) (s : State) : Out := .next (s.within c fun n => n.txStart p)

/-- The frame on a port's wire has been sent. -/
def execEthTransmitEnd (c : Ch) (p : Port) (stamp : DWord) (s : State) : Out :=
  .next (s.within c fun n => if n.k.running then n.txSent p stamp else n)

/-- A read of ETHx_RXTS0. -/
def execEthRxtsRead (snd : Sender) (c : Ch) (p : Port) (s : State) : Out :=
  .next (s.regRead snd c (pgEth p) 0x068 fun n => n.ethRead p 0x068)

/-- A read of ETHx_TXTS0. -/
def execEthTxtsRead (snd : Sender) (c : Ch) (p : Port) (s : State) : Out :=
  .next (s.regRead snd c (pgEth p) 0x078 fun n => n.ethRead p 0x078)

/-- A port's link goes up or down; the MAC of a port that is not enabled sees no link, and none comes up on inputs without
supply. -/
def execLinkChange (c : Ch) (p : Port) (up : Bool) (speed : Fin 3) (s : State) : Out :=
  .next (s.within c fun n => if n.k.live (pgEth p) && (!up || n.ethInput p) then n.link p up speed else n)

/-- A write of 1 to ETHA_MDIO.BUSY. -/
def execMdioStart (snd : Sender) (c : Ch) (v : Word) (s : State) : Out :=
  .next (s.regCmd snd c pgETHA 0x090 fun n => n.ethWrite snd .a 0x090 (v.setBit 31 true))

/-- The MDIO frame ends; MDIO of a FIELD bank without supply reads 0 (18 R486). -/
def execMdioDone (c : Ch) (data : Half) (s : State) : Out :=
  .next (s.within c fun n => if n.k.running then n.mdioEnd (if n.fieldUp then data else 0) else n)

/-- A LAN has been silent for PRP_LANTIMEOUT ms. -/
def execPrpLanTimeout (c : Ch) (p : Port) (s : State) : Out :=
  .next (s.within c fun n => if n.k.running then n.lanSilent p else n)

end Sys2Proof.Machine
end

