-- ==== Sys2Proof/Machine/Mailbox.lean ====
section
/-!
DEFINITION. Private and common mailboxes, Tokens and doorbells (06 R168, R174–R182, R187–R189, R192, R193, R196, R197).
Mailbox words, Token holders and pending bits stand in the register file at their offsets in the Rook region.
-/

namespace Sys2Proof.Machine

/-- The offset of the own view in the MBOX page (06 R197). -/
def ownBase : Nat := 0x800

def mbIN (i w : Nat) : Nat := 0x300 + 0x40 * i + 4 * w
def mbOUT (i w : Nat) : Nat := 0x580 + 0x40 * i + 4 * w
def mbCOMMON (t w : Nat) : Nat := 0x200 + 0x40 * t + 4 * w

/-- The pair of a host sender (06 R168). -/
def pairOf : Sender → Fin 9
  | .rook | .pf => 0
  | .vf v => ⟨v.val + 1, by omega⟩
  | .pf4 => 8

/-- The owner number of a sender (06 R168). -/
def ownerNum (snd : Sender) : Nat := snd.id + 1

/-- The host function of pair i in channel c. -/
def pairFn (c : Ch) (i : Fin 9) : HostFn :=
  if i.val = 0 then .pf c
  else if h : i.val < 8 then (if h0 : 0 < i.val then .vf c ⟨i.val - 1, by omega⟩ else .pf c)
  else .pf4

/-- A mailbox word written: its stored errors go (06 R191). -/
def Node.mailPut (n : Node) (off : Nat) (v : Word) : Node :=
  (n.onEcc fun x => { x with ueMail := x.ueMail.filter (· ≠ off), ceMail := x.ceMail.filter (· ≠ off) }).setReg pgMBOX off v

/-- Word w of a mailbox written by software: the stamp bits [3:0] of word 0 are discarded (06 R176). -/
def Node.mailWord (n : Node) (off w : Nat) (v : Word) : Node :=
  n.mailPut off (if w = 0 then v.setField 0 4 ((n.reg pgMBOX off).field 0 4) else v)

/-- The stamp of word 0 (06 R176): a write of part of the word, which reads and merges it (R191). One that meets an
uncorrectable error is recorded and not performed; the message or the write that brings the stamp goes on (log entry 56). -/
def Node.stamp (n : Node) (off id : Nat) : Node :=
  if n.k.ecc.ueMail.contains off then n.eccUe id (0x08005000 + off)
  else
    let n := if n.k.ecc.ceMail.contains off then
        (n.onEcc fun x => { x with ceMail := x.ceMail.filter (· ≠ off) }).eccCe
      else n
    n.setReg pgMBOX off ((n.reg pgMBOX off).setField 0 4 id)

/-- Whether an uncorrectable error stands in a mailbox word (06 R191). -/
def Channel.mailBad (k : Channel) (off : Nat) : Bool := k.ecc.ueMail.contains off

/-- A mailbox word read (06 R191). -/
def Node.mailGet (n : Node) (snd off : Nat) : Node × Word :=
  if n.k.mailBad off then (n.eccUe snd (0x08005000 + off), 0)
  else if n.k.ecc.ceMail.contains off then
    ((n.onEcc fun x => { x with ceMail := x.ceMail.filter (· ≠ off) }).eccCe, n.reg pgMBOX off)
  else (n, n.reg pgMBOX off)

/-! ## Who reaches what (06 R196, R197) -/

/-- A fault of an own view: the address is the same offset in the PF's own view (06 R197). -/
def Node.ownFault (n : Node) (snd : Sender) (off code : Nat) : Node := n.regFault snd pgMBOX (ownBase + off) code

/-- An access to the Rook region: only sender 0 reaches it. -/
def Node.rookRegion (n : Node) (snd : Sender) (off : Nat) (f : Node → Node) : Node :=
  if snd = .pf4 then n.fault pgCHCTL cSENDER snd.id (regAddr pgMBOX off)
  else if n.k.busy pgMBOX then n.regFault snd pgMBOX off cBUSY
  else if snd = .rook then f n
  else n.regFault snd pgMBOX off cSENDER

/-- An access to an own view: a host sender reaches its own pair. -/
def Node.ownView (n : Node) (snd : Sender) (off : Nat) (f : Node → Node) : Node :=
  if n.k.busy pgMBOX then n.ownFault snd off cBUSY
  else if snd.isHost then f n
  else n.ownFault snd off cSENDER

/-- The BAR offset of an own-view access: VF BAR0, PF BAR0, or the MGMT view of PF4 (06 R181, R197). -/
def ownAddr (snd : Sender) (c : Ch) (off : Nat) : Nat :=
  match snd with
  | .rook | .pf => regKey pgMBOX (ownBase + off)
  | .vf _ => off
  | .pf4 => 0x800 + 0x200 * c.num + off

/-- A mailbox write from a sender: the Rook's by its region, a host sender's by its own view, which CHCTL_GRANT does
not gate (06 R181); DOWN while the channel is not in RUN (06 R193). -/
def State.mailWrite (s : State) (snd : Sender) (c : Ch) (addr : Nat) (f : Node → Node) : State :=
  if snd.isHost then
    (if !s.arrives (senderFn snd c) then s
     else if !(s.ch c).running then (s.downLog snd c addr).elofLatch (senderFn snd c) elERR_DOWN
     else s.within c f)
  else if (s.ch c).running then s.within c f
  else s

/-- A mailbox read from a sender. -/
def State.mailRead (s : State) (snd : Sender) (c : Ch) (addr : Nat) (f : Rd) : State :=
  if snd.isHost then
    (if !s.arrives (senderFn snd c) then s
     else if !(s.ch c).running then (s.downLog snd c addr).answer (senderFn snd c) (some elERR_DOWN) []
     else
       let (s, v) := s.withinR c f
       s.answer (senderFn snd c) none (bytesLE 4 v.toNat))
  else if (s.ch c).running then (s.withinR c f).1
  else s

/-! ## Notifications to the host (05 R143, 06 R175, R180) -/

def mailVec : HostFn → Nat
  | .pf _ => 24 | .vf _ _ => 12 | .pf4 => 0

def bellVec (c : Ch) : HostFn → Nat
  | .pf _ => 25 | .vf _ _ => 13 | .pf4 => 32 + c.num

/-- The pending and mask bits of pair i's doorbell (06 R180). -/
def Channel.bellPend (k : Channel) (i : Fin 9) : Word := k.reg pgMBOX (0x0C0 + 4 * i.val)

/-- The doorbell of pair i changes: signalled when PEND AND MASK goes from zero to nonzero (06 R180). -/
def Node.setBell (n : Node) (i : Fin 9) (pend mask : Word) : Node :=
  let was := n.k.bellPend i &&& n.k.dbMask[i]
  let n := (n.setReg pgMBOX (0x0C0 + 4 * i.val) pend).onK fun k => { k with dbMask := k.dbMask.set i mask }
  if was = 0 && (pend &&& mask) ≠ 0 then n.msi (pairFn n.c i) (bellVec n.c (pairFn n.c i)) else n

/-- The Rook's doorbell changes (06 R180). -/
def Node.setRookBell (n : Node) (pend mask : Word) : Node :=
  let was := n.reg pgMBOX 0x050 &&& n.reg pgMBOX 0x054
  let n := (n.setReg pgMBOX 0x050 pend).setReg pgMBOX 0x054 mask
  n.raiseIf (was = 0 && (pend &&& mask) ≠ 0) evDOORBELL

/-! ## Messages -/

def Channel.inFull (k : Channel) (i : Nat) : Bool := (k.reg pgMBOX 0x040).bit i
def Channel.outFull (k : Channel) (i : Nat) : Bool := (k.reg pgMBOX 0x048).bit i

/-- The result of a sender's last inbound message. -/
def Node.setInLast (n : Node) (i : Fin 9) (st : Byte) : Node :=
  n.onK fun k => { k with inLast := k.inLast.set i st }

/-- A word of MB_IN in the sender's own view (06 R174). -/
def Node.inWrite (n : Node) (snd : Sender) (w : Nat) (v : Word) : Node :=
  let i := pairOf snd
  if n.k.inFull i then n.ownFault snd (0x040 + 4 * w) cSTATE else n.mailWord (mbIN i w) w v

/-- MB_HCMD.SEND (06 R174). -/
def Node.sendIn (n : Node) (snd : Sender) : Node :=
  let i := pairOf snd
  if n.k.inFull i then n.ownFault snd 0x084 cSTATE
  else
    ((n.stamp (mbIN i 0) snd.id).setReg pgMBOX 0x040 ((n.reg pgMBOX 0x040).setBit i true)).raise evMBOX_IN

/-- MB_INACK: consumes inbound messages; a bit with no message has no effect (06 R174, R187). -/
def Node.inAck (n : Node) (v : Word) : Node :=
  (List.finRange 9).foldl (fun n (i : Fin 9) =>
    if v.bit i && n.k.inFull i then
      (n.setReg pgMBOX 0x040 ((n.reg pgMBOX 0x040).setBit i false)).setInLast i stOK
    else n) n

/-- A word of MB_OUTi (06 R175). -/
def Node.outWrite (n : Node) (snd : Sender) (i : Fin 9) (w : Nat) (v : Word) : Node :=
  if n.k.outFull i then n.regFault snd pgMBOX (mbOUT i w) cSTATE else n.mailWord (mbOUT i w) w v

/-- Whether pair i has its function: a VF may not exist (06 R175, 05 R140). -/
def Node.pairExists (n : Node) (i : Fin 9) : Bool :=
  match pairFn n.c i with
  | .vf c v => n.host.vfExists c v
  | _ => true

/-- MB_OUTSEND (06 R175, R187): STATE for a full mailbox, NOFN (0x10) for a VF that does not exist. -/
def Node.outSend (n : Node) (snd : Sender) (v : Word) : Node :=
  (List.finRange 9).foldl (fun n (i : Fin 9) =>
    if !v.bit i then n
    else if n.k.outFull i then n.regFault snd pgMBOX 0x04C cSTATE
    else if !n.pairExists i then n.regFault snd pgMBOX 0x04C 0x10
    else
      let n := (n.stamp (mbOUT i 0) 0).setReg pgMBOX 0x048 ((n.reg pgMBOX 0x048).setBit i true)
      if i = 8 then n.devEvent (dvCh n.c dvMBOX_MGMT) else n.msi (pairFn n.c i) (mailVec (pairFn n.c i))) n

/-- An outbound message ends (06 R175, R192). -/
def Node.endOut (n : Node) (i : Fin 9) (st : Byte) : Node :=
  (n.setReg pgMBOX 0x048 ((n.reg pgMBOX 0x048).setBit i false)).setReg pgMBOX (0x140 + 4 * i.val)
    (BitVec.ofNat 32 st.toNat)

/-- MB_HCMD.FREE (06 R175, R187). -/
def Node.freeOut (n : Node) (snd : Sender) : Node :=
  let i := pairOf snd
  if n.k.outFull i then (n.endOut i stOK).raise evMBOX_OUT_FREE else n

/-- MB_HCMD (06 R197). -/
def Node.hcmd (n : Node) (snd : Sender) (v : Word) : Node :=
  let n := if v.bit 0 then n.sendIn snd else n
  if v.bit 1 then n.freeOut snd else n

/-! ## Tokens and common mailboxes (06 R177, R178) -/

/-- The holder of Token t: an owner number, 0 free. -/
def Channel.token (k : Channel) (t : Nat) : Nat := (k.reg pgMBOX 0x068).field (4 * t) 4

def Node.setToken (n : Node) (t o : Nat) : Node := n.setField pgMBOX 0x068 (4 * t) 4 o

/-- A read of TOKENt by a sender. -/
def Node.claim (n : Node) (snd : Sender) (t : Nat) : Node × Word :=
  if n.k.token t = 0 then (n.setToken t (ownerNum snd), 0) else (n, BitVec.ofNat 32 (n.k.token t))

/-- Where a sender reads and writes TOKENt and COMMONt, as an MBOX page offset. -/
def tokenOff (snd : Sender) (t : Nat) : Nat := if snd = .rook then 0x100 + 4 * t else ownBase + 0x0C0 + 4 * t
def commonOff (snd : Sender) (t w : Nat) : Nat := if snd = .rook then mbCOMMON t w else ownBase + 0x100 + 0x40 * t + 4 * w

/-- A write to TOKENt (06 R177). -/
def Node.release (n : Node) (snd : Sender) (t : Nat) (v : Word) : Node :=
  if n.k.token t = ownerNum snd ∧ v.field 0 4 = ownerNum snd then (n.setToken t 0).raise evTOKEN_FREE
  else n.regFault snd pgMBOX (tokenOff snd t) cSENDER

/-- A write to COMMONt (06 R176, R178). -/
def Node.commonPut (n : Node) (snd : Sender) (t w : Nat) (v : Word) : Node :=
  if n.k.token t = ownerNum snd then (n.mailWord (mbCOMMON t w) w v).stamp (mbCOMMON t 0) snd.id
  else n.regFault snd pgMBOX (commonOff snd t w) cSENDER

/-- Tokens freed with their event, those a test names (06 R177, R192, R478). -/
def Node.freeTokens (n : Node) (p : Nat → Nat → Bool) : Node :=
  (List.range 4).foldl (fun n t =>
    if n.k.token t ≠ 0 && p t (n.k.token t) then (n.setToken t 0).raise evTOKEN_FREE else n) n

/-! ## Doorbells (06 R179) -/

/-- Whether MB_RDB_SEL lets a sender ring bit b of the Rook's doorbell. -/
def Channel.selAllows (k : Channel) (snd : Sender) (b : Nat) : Bool :=
  let x := (k.reg pgMBOX (0x058 + 4 * (b / 8))).field (4 * (b % 8)) 4
  x = 0xF || (1 ≤ x && x ≤ 9 && x = snd.id)

/-- A host sender rings the Rook. -/
def Node.ringRook (n : Node) (snd : Sender) (v : Word) : Node :=
  let m := (List.range 32).foldl (fun a b => if v.bit b && n.k.selAllows snd b then a + 2 ^ b else a) 0
  n.setRookBell (n.reg pgMBOX 0x050 ||| BitVec.ofNat 32 m) (n.reg pgMBOX 0x054)

/-- The Rook rings pair i. -/
def Node.ringHost (n : Node) (i : Fin 9) (v : Word) : Node := n.setBell i (n.k.bellPend i ||| v) n.k.dbMask[i]

/-! ## The registers -/

/-- A mailbox word offset taken apart: mailbox number and word. -/
def mailAt (off base cnt : Nat) : Option (Nat × Nat) :=
  if base ≤ off ∧ off < base + 0x40 * cnt ∧ off % 4 = 0 then some ((off - base) / 0x40, (off - base) % 0x40 / 4) else none

/-- A write in the Rook region (06 R196). -/
def Node.rookMailWrite (n : Node) (off : Nat) (v : Word) : Node :=
  match mailAt off 0x200 4, mailAt off 0x580 9 with
  | some (t, w), _ => n.commonPut .rook t w v
  | none, some (i, w) => if h : i < 9 then n.outWrite .rook ⟨i, h⟩ w v else n
  | none, none =>
    if off = 0x044 then n.inAck v
    else if off = 0x04C then n.outSend .rook v
    else if off = 0x050 then n.setReg pgMBOX 0x050 (n.reg pgMBOX 0x050 &&& ~~~v)
    else if off = 0x054 then n.setRookBell (n.reg pgMBOX 0x050) v
    else if inWords off 0x058 4 then n.setReg pgMBOX off v
    else if off = 0x06C then n.freeTokens fun t _ => v.bit t
    else if inWords off 0x080 9 then
      (if h : (off - 0x080) / 4 < 9 then n.ringHost ⟨(off - 0x080) / 4, h⟩ v else n)
    else if inWords off 0x100 4 then n.release .rook ((off - 0x100) / 4) v
    else n

/-- A write in a sender's own view (06 R197). -/
def Node.ownMailWrite (n : Node) (snd : Sender) (off : Nat) (v : Word) : Node :=
  match mailAt off 0x040 1, mailAt off 0x100 4 with
  | some (_, w), _ => n.inWrite snd w v
  | none, some (t, w) => n.commonPut snd t w v
  | none, none =>
    if off = 0x084 then n.hcmd snd v
    else if off = 0x088 then n.ringRook snd v
    else if off = 0x08C then n.setReg pgMBOX (0x0C0 + 4 * (pairOf snd).val) (n.k.bellPend (pairOf snd) &&& ~~~v)
    else if off = 0x090 then n.setBell (pairOf snd) (n.k.bellPend (pairOf snd)) v
    else if inWords off 0x0C0 4 then n.release snd ((off - 0x0C0) / 4) v
    else n

/-- A read in the Rook region. -/
def Node.rookMailRead (n : Node) (off : Nat) : Node × Word :=
  if inWords off 0x100 4 then n.claim .rook ((off - 0x100) / 4)
  else if 0x200 ≤ off && off < 0x7C0 then n.mailGet 0 off
  else if off = 0x044 || off = 0x04C || off = 0x06C || inWords off 0x080 9 then (n, 0)
  else (n, if (chanReg pgMBOX off).isSome && off < 0x164 then n.reg pgMBOX off else 0)

/-- A read in a sender's own view. -/
def Node.ownMailRead (n : Node) (snd : Sender) (off : Nat) : Node × Word :=
  let i := pairOf snd
  match mailAt off 0x000 1, mailAt off 0x040 1, mailAt off 0x100 4 with
  | some (_, w), _, _ => n.mailGet snd.id (mbOUT i w)
  | none, some (_, w), _ => n.mailGet snd.id (mbIN i w)
  | none, none, some (t, w) => n.mailGet snd.id (mbCOMMON t w)
  | none, none, none =>
    if off = 0x080 then
      (n, BitVec.ofNat 32 ((n.k.inFull i).toNat + 2 * (n.k.outFull i).toNat + 256 * (n.k.inLast[i]).toNat))
    else if off = 0x08C then (n, n.k.bellPend i)
    else if off = 0x090 then (n, n.k.dbMask[i])
    else if off = 0x094 then (n, n.reg pgMBOX 0x068)
    else if inWords off 0x0C0 4 then n.claim snd ((off - 0x0C0) / 4)
    else (n, 0)

/-- The mailbox word an offset of a sender's view names, if any. -/
def mailCell (snd : Sender) (own : Bool) (off : Nat) : Option Nat :=
  if own then
    match mailAt off 0x000 1, mailAt off 0x040 1, mailAt off 0x100 4 with
    | some (_, w), _, _ => some (mbOUT (pairOf snd) w)
    | none, some (_, w), _ => some (mbIN (pairOf snd) w)
    | none, none, some (t, w) => some (mbCOMMON t w)
    | none, none, none => none
  else if 0x200 ≤ off && off < 0x7C0 then some off else none

/-! ## Resets (06 R182, R192, R193, 17 R478) -/

/-- Every listed word of the MBOX page below the own view, but for OUTSTAT, back at Reset. -/
def Channel.mailClear (k : Channel) : Channel :=
  let k := k.clearPage pgMBOX fun o => 0x140 ≤ o && o < 0x164
  { k with dbMask := Vector.replicate 9 0, ecc := { k.ecc with ueMail := [], ceMail := [] } }

/-- Open messages of the page end: inbound in INLAST, outbound in OUTSTAT (17 R478). -/
def Node.endMail (n : Node) (st : Byte) (outToo : Bool) : Node :=
  (List.finRange 9).foldl (fun n (i : Fin 9) =>
    let n := if n.k.inFull i then n.setInLast i st else n
    if outToo && n.k.outFull i then n.endOut i st else n) n

/-- A block reset of the MBOX page (06 R182). -/
def Node.mailReset (n : Node) : Node :=
  ((n.endMail stABORTED true).freeTokens fun _ _ => true).onK Channel.mailClear

/-- A function reset of pair i (06 R192); a link loss keeps the contents of the mailboxes' storage apart (17 R477). -/
def Node.flrMail (n : Node) (i : Fin 9) : Node :=
  let owner := i.val + 2
  let n := if n.k.outFull i then (n.endOut i stABORTED).raise evMBOX_OUT_FREE else n
  let n := if n.k.inFull i then
      (n.setReg pgMBOX 0x040 ((n.reg pgMBOX 0x040).setBit i false)).setInLast i stABORTED
    else n
  let n := (List.range 16).foldl (fun n w => (n.mailPut (mbIN i w) 0).mailPut (mbOUT i w) 0) n
  let n := (n.setReg pgMBOX (0x0C0 + 4 * i.val) 0).onK fun k => { k with dbMask := k.dbMask.set i 0 }
  n.freeTokens fun _ o => o = owner

/-! ## The commands -/

/-- A sender writes a word of its inbound mailbox. -/
def execMbInWrite (snd : Sender) (c : Ch) (word : Fin 16) (v : Word) (s : State) : Out :=
  .next (s.mailWrite snd c (ownAddr snd c (0x040 + 4 * word)) fun n =>
    n.ownView snd (0x040 + 4 * word) fun n => n.inWrite snd word v)

/-- MB_HCMD.SEND. -/
def execSend (snd : Sender) (c : Ch) (s : State) : Out :=
  .next (s.mailWrite snd c (ownAddr snd c 0x084) fun n => n.ownView snd 0x084 fun n => n.hcmd snd 1)

/-- A write of MB_INACK. -/
def execMbInack (snd : Sender) (c : Ch) (v : Word) (s : State) : Out :=
  .next (s.chanWrite snd c (regKey pgMBOX 0x044) fun n => n.rookRegion snd 0x044 fun n => n.inAck v)

/-- A write of a word of MB_OUTi. -/
def execMbOutWrite (snd : Sender) (c : Ch) (i : Fin 9) (word : Fin 16) (v : Word) (s : State) : Out :=
  .next (s.chanWrite snd c (regKey pgMBOX (mbOUT i word)) fun n =>
    n.rookRegion snd (mbOUT i word) fun n => n.outWrite snd i word v)

/-- A write of MB_OUTSEND. -/
def execMbOutsend (snd : Sender) (c : Ch) (v : Word) (s : State) : Out :=
  .next (s.chanWrite snd c (regKey pgMBOX 0x04C) fun n => n.rookRegion snd 0x04C fun n => n.outSend snd v)

/-- MB_HCMD.FREE. -/
def execFree (snd : Sender) (c : Ch) (s : State) : Out :=
  .next (s.mailWrite snd c (ownAddr snd c 0x084) fun n => n.ownView snd 0x084 fun n => n.hcmd snd 2)

/-- An access to a register that the Rook and every own view have, each at its place. -/
def Node.bothViews (n : Node) (snd : Sender) (rookOff ownOff : Nat) (f : Node → Node) : Node :=
  if snd = .rook then n.rookRegion .rook rookOff f else n.ownView snd ownOff f

/-- A write to COMMONt. -/
def execCommonWrite (snd : Sender) (c : Ch) (t : Fin 4) (word : Fin 16) (v : Word) (s : State) : Out :=
  .next (s.mailWrite snd c (ownAddr snd c (0x100 + 0x40 * t + 4 * word)) fun n =>
    n.bothViews snd (mbCOMMON t word) (0x100 + 0x40 * t + 4 * word) fun n => n.commonPut snd t word v)

/-- A read of TOKENt: refused during a block reset, it claims nothing (06 R182). -/
def execTokenClaim (snd : Sender) (c : Ch) (t : Fin 4) (s : State) : Out :=
  .next (s.mailRead snd c (ownAddr snd c (0x0C0 + 4 * t)) fun n =>
    if n.k.busy pgMBOX then (n.regFault snd pgMBOX (tokenOff snd t) cBUSY, 0) else n.claim snd t)

/-- A write to TOKENt. -/
def execTokenRelease (snd : Sender) (c : Ch) (t : Fin 4) (v : Word) (s : State) : Out :=
  .next (s.mailWrite snd c (ownAddr snd c (0x0C0 + 4 * t)) fun n =>
    n.bothViews snd (0x100 + 4 * t) (0x0C0 + 4 * t) fun n => n.release snd t v)

/-- A write of MB_TOKFORCE. -/
def execMbTokforce (snd : Sender) (c : Ch) (v : Word) (s : State) : Out :=
  .next (s.chanWrite snd c (regKey pgMBOX 0x06C) fun n =>
    n.rookRegion snd 0x06C fun n => n.freeTokens fun t _ => v.bit t)

/-- A write of DB_RING. -/
def execDbRing (snd : Sender) (c : Ch) (v : Word) (s : State) : Out :=
  .next (s.mailWrite snd c (ownAddr snd c 0x088) fun n => n.ownView snd 0x088 fun n => n.ringRook snd v)

/-- A write of MB_HDB_RINGi. -/
def execMbHdbRing (snd : Sender) (c : Ch) (i : Fin 9) (v : Word) (s : State) : Out :=
  .next (s.chanWrite snd c (regKey pgMBOX (0x080 + 4 * i)) fun n =>
    n.rookRegion snd (0x080 + 4 * i) fun n => n.ringHost i v)

/-- A receiver clears its doorbell bits: MB_RDB_PEND or DB_PEND. -/
def execDoorbellClear (snd : Sender) (c : Ch) (v : Word) (s : State) : Out :=
  .next (s.mailWrite snd c (ownAddr snd c 0x08C) fun n =>
    n.bothViews snd 0x050 0x08C fun n =>
      if snd = .rook then n.rookMailWrite 0x050 v else n.ownMailWrite snd 0x08C v)

/-- A receiver writes its doorbell mask: MB_RDB_MASK or DB_MASK. -/
def execDoorbellMaskWrite (snd : Sender) (c : Ch) (v : Word) (s : State) : Out :=
  .next (s.mailWrite snd c (ownAddr snd c 0x090) fun n =>
    n.bothViews snd 0x054 0x090 fun n =>
      if snd = .rook then n.rookMailWrite 0x054 v else n.ownMailWrite snd 0x090 v)

end Sys2Proof.Machine
end

