-- ==== Sys2Proof/Machine/Memown.lean ====
section
/-!
DEFINITION. Bank ownership and handover (06 R166–R170, R194), the memory window (05 R138, 06 R190, R191) and PF4's reads
of channel memory (01 R38, R40). No master's access waits for a handover but the window's (log entry 12).
-/

namespace Sys2Proof.Machine

/-- MEMOWN_BANKn. -/
def Node.setBank (n : Node) (b : Nat) (w : Word) : Node := n.setReg pgMEMOWN (0x040 + 4 * b) w

/-- Whether a sender controls a master (06 R165): the channel PF its own and its VFs' accesses, the Rook the rest. -/
def controls (snd : Sender) (m : Nat) : Bool :=
  match snd with
  | .pf => 1 ≤ m && m ≤ 8
  | .rook => m = 0 || (9 ≤ m && m ≤ 17)
  | _ => false

/-- A handover starts (06 R170). -/
def Node.startHandover (n : Node) (b owner : Nat) (shared : Bool) : Node :=
  (n.setBank b ((n.k.bank b).setBit 1 true)).onK fun k => { k with handovers := k.handovers ++ [⟨b, owner, shared, []⟩] }

/-- A write of MEMOWN_BANKn (06 R167, R169, R170): a held or busy bank refuses with STATE, a sender that does not
control the bank is recorded with SENDER, a reserved OWNER keeps its value. -/
def Node.bankWrite (n : Node) (snd : Sender) (b : Nat) (v : Word) : Node :=
  let off := 0x040 + 4 * b
  let w := n.k.bank b
  let own := w.field 8 5
  if w.bit 2 || w.bit 1 then n.regFault snd pgMEMOWN off cSTATE
  else
    let bad := 18 ≤ v.field 8 5
    let owner := if bad then own else v.field 8 5
    let shared := v.bit 0
    let rsv := fun (n : Node) => if bad then n.regFault snd pgMEMOWN off cRSVD else n
    if !w.bit 0 then
      if !bad && owner = own && !shared then n
      else if !controls snd own then n.regFault snd pgMEMOWN off cSENDER
      else
        let n := rsv n
        if owner = own && !shared then n else n.startHandover b owner shared
    else if snd ≠ .rook && snd ≠ .pf then n.regFault snd pgMEMOWN off cSENDER
    else
      let n := rsv n
      if shared then n.setBank b (w.setField 8 5 owner) else n.startHandover b owner false

/-- A handover ends: OWNER and MODE take their values, BUSY clears (06 R170 H+k+1); the accesses it held are returned. -/
def Node.endHandover (n : Node) (b : Nat) : Node × List Held :=
  match n.k.handovers.find? (fun h => h.bank = b) with
  | none => (n, [])
  | some h =>
    let n := n.onK fun k => { k with handovers := k.handovers.filter fun x => x.bank ≠ b }
    let n := n.setBank b (BitVec.ofNat 32 (h.shared.toNat + 256 * h.newOwner))
    (n, h.held)

/-- Where a window offset leads (05 R138): the memory and its internal address. -/
def windowAt (off len : Nat) : Option (MemKind × Nat) :=
  if off + len ≤ 0x40000 then some (.iram, off)
  else if 0x100000 ≤ off ∧ off + len ≤ 0x140000 then some (.dtcm, off)
  else if 0x400000 ≤ off ∧ off + len ≤ 0x800000 then some (.sram, off - 0x400000 + SRAM0)
  else none

/-- The length of a window access. -/
def accLen : MemAcc → Nat
  | .read n => n
  | .write data _ => data.length

/-- What a window access ends in: its bytes, an uncorrectable error, or a wait for a handover. -/
inductive WinRes where
  | data (bs : List Byte)
  | bad
  | wait
deriving DecidableEq, Repr

/-- An access to an unimplemented window offset (05 R138). -/
def Node.windowUnmapped (n : Node) (snd : Sender) (off : Nat) : Node :=
  n.fault pgMEMOWN cUNMAPPED snd.id (BitVec.ofNat 32 off)

def MemRes.win (len : Nat) : MemRes → WinRes
  | .ok bs => .data bs
  | .denied => .data (List.replicate len 0)
  | .ecc => .bad

/-- A window access of the channel PF as its bank answers it (05 R138, 06 R166, R190): refused, it reads 0 and writes
nothing; a poisoned write is discarded (05 R162). -/
def Node.windowNow (n : Node) (off : Nat) (acc : MemAcc) : Node × WinRes :=
  let len := accLen acc
  match acc with
  | .write _ true => (n, .data [])
  | .read _ =>
    match windowAt off len with
    | none => (n.windowUnmapped .pf off, .data (List.replicate len 0))
    | some (.sram, a) =>
      let (n, r) := n.getBy mPF a len
      (n, r.win len)
    | some (kind, a) =>
      let (n, r) := n.coreRead kind 1 a len
      (n, r.win len)
  | .write data false =>
    match windowAt off len with
    | none => (n.windowUnmapped .pf off, .data [])
    | some (.sram, a) =>
      let (n, r) := n.sramWrite mPF 1 a data false
      (n, r.win 0)
    | some (kind, a) =>
      let (n, r) := n.coreWrite kind 1 a data
      (n, r.win 0)

/-- Whether a handover holds a window access (06 R170). -/
def Channel.windowHeld (k : Channel) (off : Nat) (acc : MemAcc) : Bool :=
  match acc, windowAt off (accLen acc) with
  | .read len, some (.sram, a) => k.grant mPF a len false = .held
  | .write data false, some (.sram, a) => k.grant mPF a data.length true = .held
  | _, _ => false

/-- A window access of the channel PF, which waits while a handover holds it. -/
def Node.windowPf (n : Node) (off : Nat) (acc : MemAcc) : Node × WinRes :=
  if n.k.windowHeld off acc then (n, .wait) else n.windowNow off acc

/-- An access that waits joins the handover that holds it (06 R170). -/
def Node.holdAccess (n : Node) (off : Nat) (acc : MemAcc) : Node :=
  let a := off - 0x400000 + SRAM0
  n.onK fun k =>
    let go := fun (st : Bool × List Handover) (h : Handover) =>
      if !st.1 && bankOf a ≤ h.bank && h.bank ≤ bankOf (a + accLen acc - 1) then
        (true, st.2 ++ [{ h with held := h.held ++ [⟨.pf, off, acc⟩] }])
      else (st.1, st.2 ++ [h])
    { k with handovers := (k.handovers.foldl go (false, [])).2 }

/-- A window access of the PF as the host sees it: data or zeros, or an error where an uncorrectable one was met
(05 R162). -/
def State.windowAccess (s : State) (c : Ch) (off : Nat) (acc : MemAcc) : State :=
  let (n, r) := (s.node c).windowPf off acc
  let s := s.within c fun _ => n
  match r, acc with
  | .wait, _ => s.within c fun n => n.holdAccess off acc
  | .data bs, .read _ => s.answer (.pf c) none bs
  | .bad, .read _ => s.answer (.pf c) (some elERR_MEM) []
  | .bad, .write _ _ => s
  | .data _, .write _ _ => s

/-- PF4's read of channel memory: no ownership or region rule applies (06 R165). -/
def Node.windowPf4 (n : Node) (off len : Nat) : Node × WinRes :=
  match windowAt off len with
  | none => (n.windowUnmapped .pf4 off, .data (List.replicate len 0))
  | some (.sram, a) =>
    let (n, r) := n.sramFetch 9 a len
    (n, r.win len)
  | some (kind, a) =>
    let (n, r) := n.coreRead kind 9 a len
    (n, r.win len)

/-- A write of MEMOWN_BANKn. -/
def execMemownBankWrite (snd : Sender) (c : Ch) (bank : Fin 16) (v : Word) (s : State) : Out :=
  .next (s.regCmd snd c pgMEMOWN (0x040 + 4 * bank) fun n => n.bankWrite snd bank v)

/-- Whether a handover of a bank runs. -/
def Channel.handing (k : Channel) (b : Nat) : Bool := k.handovers.any fun h => h.bank = b

/-- A running handover of the bank ends: the accesses it held are performed in arrival order, then EVT_MEM_HANDOVER is raised
(06 R170). -/
def execHandoverEnd (c : Ch) (bank : Fin 16) (s : State) : Out :=
  let (n, held) := (s.node c).endHandover bank
  let t := held.foldl (fun s h => s.windowAccess c h.addr h.acc) (s.within c fun _ => n)
  .next (if (s.ch c).handing bank then t.within c fun n => n.raise evMEM_HANDOVER else t)

/-- A corrected word is written back (06 R191). -/
def execEccWriteback (c : Ch) (k : MemKind) (addr : Nat) (s : State) : Out :=
  .next (s.within c fun n => n.onEcc fun x => { x with wb := x.wb.filter (· ≠ (k, addr)) })

/-- A read of MEMOWN_CECNT clears it (06 R194). -/
def Node.memownRead (n : Node) (off : Nat) : Node × Word :=
  if off = 0x080 then (n.setReg pgMEMOWN 0x080 0, n.reg pgMEMOWN 0x080) else (n, n.k.view pgMEMOWN off)

/-- A read of MEMOWN_CECNT. -/
def execMemownCecntRead (snd : Sender) (c : Ch) (s : State) : Out :=
  .next (s.regRead snd c pgMEMOWN 0x080 fun n => n.memownRead 0x080)

/-- A register of the MEMOWN page written. -/
def Node.memownWrite (n : Node) (snd : Sender) (off : Nat) (v : Word) : Node :=
  if inWords off 0x040 16 then n.bankWrite snd ((off - 0x040) / 4) v else n.writeFields snd pgMEMOWN off v

/-- A memory-window access by the channel PF (05 R138, R158, R162). -/
def execMemoryWindowAccess (c : Ch) (off : Nat) (acc : MemAcc) (s : State) : Out :=
  .next (
    let s := match acc with
      | .write _ true => s.poison (.pf c)
      | .write _ false | .read _ => s
    if !s.arrives (.pf c) then s
    else if !(s.ch c).running then
      let s := s.downLog .pf c off
      match acc with
      | .read _ => s.answer (.pf c) (some elERR_DOWN) []
      | .write _ _ => s.elofLatch (.pf c) elERR_DOWN
    else s.windowAccess c off acc)

end Sys2Proof.Machine
end

