-- ==== Sys2Proof/Machine/Pawn.lean ====
section
/-!
DEFINITION. The Pawn engines (09). A step's command carries the levels of the balls as they reach the engines. X and Y of
09 R252 are C0 and C1, EBASE and START of R271 the code base and entry of R258, R259 (log entry 8).
-/

namespace Sys2Proof.Machine

def Channel.eng (k : Channel) (e : Nat) : Engine := k.pawn.eng.getD e Engine.reset

def Node.eng (n : Node) (e : Nat) : Engine := n.k.eng e

def Node.onPawn (n : Node) (g : Pawn → Pawn) : Node := n.onK fun k => { k with pawn := g k.pawn }

def Node.onEng (n : Node) (e : Nat) (g : Engine → Engine) : Node :=
  n.onPawn fun p => { p with eng := p.eng.setIfInBounds e (g (p.eng.getD e Engine.reset)) }

/-- A register of engine e. -/
def Channel.engReg (k : Channel) (e off : Nat) : Word := k.reg pgPAWN (0x100 + 0x40 * e + off)

def Channel.ebase (k : Channel) (e : Nat) : Nat := (k.engReg e 0).field 0 9

def Engine.gwidth (g : Engine) : Nat := g.gw + 1
def Engine.frameLen (g : Engine) : Nat := if g.framelen = 0 then 32 else g.framelen

/-! ## Pins (09 R250) -/

/-- PAWN_PINSEL of a pin. -/
def Channel.pinOwner (k : Channel) (p : Nat) : Nat := (k.reg pgPAWN (0x060 + 4 * (p / 8))).field (4 * (p % 8)) 4

/-- A pin drives its output latch. -/
def Channel.pinDriven (k : Channel) (p : Nat) : Bool :=
  k.live pgPAWN && k.pinOwner p < 8 && k.pawn.dirL.getLsbD p

/-- The bits of a number placed on the pins. -/
def pinBits (f : Nat → Bool) : BitVec 24 :=
  BitVec.ofNat 24 ((List.range 24).foldl (fun a p => if f p then a + 2 ^ p else a) 0)

/-- The levels of the pins: a driven pin's own, else its ball's; in a bank that is down no pin is driven and every one reads
0 (18 R486, R487). -/
def Node.pinLevels (n : Node) (balls : BitVec 24) : BitVec 24 :=
  if n.bankUp (4 * n.c.num + 3) then
    pinBits fun p => if n.k.pinDriven p then n.k.pawn.outL.getLsbD p else balls.getLsbD p
  else 0

/-- A PAWN cycle goes by with these levels at the balls: the synchroniser takes the pins one stage on (R250). -/
def Node.pinCycle (n : Node) (balls : BitVec 24) : Node :=
  let now := n.pinLevels balls
  n.onPawn fun p => { p with sync2 := p.sync1, sync1 := p.pins, pins := now }

/-- The levels that the engines read: two PAWN cycles old, or at once where PAWN_PINSYNC.BYPASS is 1 (R250). -/
def Channel.pinsRead (k : Channel) : BitVec 24 :=
  pinBits fun p => if (k.reg pgPAWN 0x06C).bit p then k.pawn.pins.getLsbD p else k.pawn.sync2.getLsbD p

/-- PAWN_PININ: the synchroniser has settled on the latches and the last levels of the balls (R270, log entry 8). -/
def Node.pinIn (n : Node) : Word := (n.pinLevels n.k.pawn.pins).setWidth 32

/-- Latches of the pins `base` up, `w` of them, take the bits of a value where engine e owns the pin. -/
def Channel.latch (k : Channel) (e base w v : Nat) (old : BitVec 24) : BitVec 24 :=
  pinBits fun p =>
    let i := (p + 24 - base % 24) % 24
    if i < w && k.pinOwner p = e then v.testBit i else old.getLsbD p

def Node.setOut (n : Node) (e base w v : Nat) : Node :=
  n.onPawn fun p => { p with outL := n.k.latch e base w v p.outL }

def Node.setDir (n : Node) (e base w v : Nat) : Node :=
  n.onPawn fun p => { p with dirL := n.k.latch e base w v p.dirL }

/-- The levels of an engine's pin group, GBASE as bit 0. -/
def Engine.group (g : Engine) (lv : BitVec 24) : Nat :=
  (List.range g.gwidth).foldl (fun a i => if lv.getLsbD ((g.gbase + i) % 24) then a + 2 ^ i else a) 0

/-! ## FIFOs (09 R260, R261) -/

def Engine.rxCap (g : Engine) : Nat := match g.depth with
  | 0 => 8 | 1 => 16 | _ => 0

def Engine.txCap (g : Engine) : Nat := match g.depth with
  | 0 => 8 | 2 => 16 | _ => 0

def Engine.rxFull (g : Engine) : Bool := g.rxCap ≤ g.rx.length
def Engine.txEmpty (g : Engine) : Bool := g.tx.isEmpty || g.txCap = 0

/-- PAWN_DRAIN of engine e: EN, and whether it fills. -/
def Channel.drainOn (k : Channel) (e : Nat) (fill : Bool) : Bool :=
  (k.engReg e 0x24).bit 0 && (k.engReg e 0x24).bit 1 == fill

/-! ## Events (09 R262) -/

/-- PAWN_EVSTAT. While the block is disabled its sources rest at the Reset value (R74, R270, log entry 8). -/
def Channel.pawnStat (k : Channel) : Word :=
  if !k.live pgPAWN then 0 else
  let lv := fun (e : Nat) =>
    let g := k.eng e
    let sh := k.engReg e 0x0C
    (if sh.field 16 5 ≤ g.rx.length then 2 ^ (8 + e) else 0) + (if g.tx.length ≤ sh.field 21 5 then 2 ^ (16 + e) else 0) +
    (if g.halted || (k.engReg e 0x30).bit 0 then 2 ^ (24 + e) else 0)
  BitVec.ofNat 32 ((k.reg pgPAWN 0x04C).field 0 8 + ((List.range 8).map lv).sum)

/-- EVT_PAWN where an enabled source has risen. -/
def Node.pawnJudge (n : Node) : Node :=
  let now := n.k.pawnStat
  let up := now &&& ~~~n.k.pawn.evPrev &&& n.reg pgPAWN 0x058
  (n.onPawn fun p => { p with evPrev := now }).raiseIf (up ≠ 0) evPAWN

/-- IRQ bits set, and cleared. -/
def Node.irqBit (n : Node) (i : Nat) (b : Bool) : Node := n.setField pgPAWN 0x04C i 1 b.toNat

def Channel.irq (k : Channel) (i : Nat) : Bool := (k.reg pgPAWN 0x04C).bit i
def Channel.flag (k : Channel) (i : Nat) : Bool := (k.reg pgPAWN 0x048).bit i

/-! ## Instructions (09 R251–R257) -/

/-- The program word at absolute address a (09 R258). -/
def Channel.pawnWord (k : Channel) (a : Nat) : Nat :=
  (k.reg pgPAWN (0x800 + 4 * (a / 2))).field (16 * (a % 2)) 16

/-- A word that an engine executes (09 R251, R257). -/
def pawnLegal (w : Nat) : Bool :=
  let x := w % 1024
  let hi := x / 256
  let lo := x % 32
  let mid := x / 32 % 8
  match w / 4096 with
  | 0 => true
  | 1 =>
    let sense := x / 64 % 4
    (match hi with
     | 0 => lo ≤ 23
     | 1 => lo ≤ 7 && sense ≤ 1
     | 2 => lo ≤ 7 && sense ≤ 2
     | _ => lo = 0 && sense ≤ 1)
  | 2 | 3 => mid = 0 && (2 ≤ hi || lo = 0)
  | 4 => x % 128 = 0
  | 5 =>
    let dst := x / 128
    let src := x / 16 % 8
    x % 4 = 0 && src ≠ 5 && src ≠ 7 && dst ≠ 7 && (x / 4 % 4 ≠ 3 || dst = 0 || dst = 2 || dst = 3)
  | 6 => true
  | 7 => hi ≤ 1
  | 8 => mid = 0 && lo ≤ 23
  | 9 => x / 8 % 32 = 0 && hi ≤ 2
  | 10 => mid = 0 && (match hi with
    | 0 => lo ≤ 23
    | 3 => true
    | _ => lo ≤ 7)
  | 15 => hi ≤ 1 && x % 256 = 0
  | _ => false

/-- How an instruction leaves its step: complete, going on at an offset or the next; stalled; the engine stopped. -/
inductive PawnEnd where
  | done (jump : Option Nat)
  | stall
  | halt

/-- BR (09 R252). COND has three bits (R251), so that its values 8 to 15 cannot be written. OSC is N, PULLTH stands in
PAWN_ESHIFT (R271, log entry 8). -/
def Node.pawnBr (n : Node) (e x : Nat) (lv : BitVec 24) : Node × PawnEnd :=
  let g := n.eng e
  let jpin := (n.k.engReg e 8).field 23 5
  let pullth := (n.k.engReg e 0x0C).field 9 5
  let take := match x / 128 with
    | 0 => true
    | 1 => g.c0 = 0
    | 2 => g.c0 ≠ 0
    | 3 => g.c1 = 0
    | 4 => g.c1 ≠ 0
    | 5 => g.c0 ≠ g.c1
    | 6 => lv.getLsbD jpin
    | _ => g.n < (if pullth = 0 then 32 else pullth)
  let n := match x / 128 with
    | 2 => n.onEng e fun g => { g with c0 := g.c0 - 1 }
    | 4 => n.onEng e fun g => { g with c1 := g.c1 - 1 }
    | _ => n
  (n, .done (if take then some (x % 128) else none))

/-- The condition of an AWAIT (09 R253). -/
def Channel.awaitHolds (k : Channel) (e x : Nat) (lv : BitVec 24) : Bool :=
  let g := k.eng e
  let i := x % 32
  let now := lv.getLsbD i
  let was := g.prev.getLsbD i
  match x / 256, x / 64 % 4 with
  | 0, 0 => !now
  | 0, 1 => now
  | 0, 2 => g.stepped && was && !now
  | 0, _ => g.stepped && !was && now
  | 1, s => k.flag i == (s == 1)
  | 2, 0 => !k.irq i
  | 2, _ => k.irq i
  | _, 0 => !g.txEmpty
  | _, _ => !g.rxFull

/-- AWAIT. -/
def Node.pawnAwait (n : Node) (e x : Nat) (lv : BitVec 24) : Node × PawnEnd :=
  let bound := x / 32 % 2 = 1
  if n.k.awaitHolds e x lv then
    let n := if x / 256 = 2 && x / 64 % 4 = 2 then n.irqBit (x % 32) false else n
    (if bound then n.onEng e fun g => { g with f := false } else n, .done none)
  else if !bound then (n, .stall)
  else
    let c := (n.eng e).c1
    if c ≤ 1 then (n.onEng e fun g => { g with c1 := 0, f := true }, .done none)
    else (n.onEng e fun g => { g with c1 := g.c1 - 1 }, .stall)

/-- XFR IN, HOLD or not; the answer says whether it stalls (09 R255). -/
def Node.xferIn (n : Node) (e : Nat) (hold : Bool) : Node × Bool :=
  let g := n.eng e
  if g.rxFull then
    (if hold then (n, true)
     else (n.onEng e fun g => { g with s := 0, n := 0, rxovf := true, f := true }, false))
  else
    let w := if g.order then g.s else g.s >>> (32 - g.n)
    (n.onEng e fun g => { g with rx := g.rx ++ [w], s := 0, n := 0, fresh := false, f := false }, false)

/-- XFR OUT. -/
def Node.xferOut (n : Node) (e : Nat) (hold : Bool) : Node × Bool :=
  let g := n.eng e
  if g.txEmpty then (if hold then (n, true) else (n.onEng e fun g => { g with f := true }, false))
  else
    let w := g.tx.headD 0
    let s := if g.order then w <<< (32 - g.frameLen) else w
    (n.onEng e fun g => { g with tx := g.tx.drop 1, s := s, n := 0, fresh := true, f := false }, false)

def stallIf (r : Node × Bool) : Node × PawnEnd := (r.1, if r.2 then .stall else .done none)

/-- XFR. -/
def Node.pawnXfr (n : Node) (e x : Nat) : Node × PawnEnd :=
  let g := n.eng e
  let out := x / 512 = 1
  let full := x / 256 % 2 = 1
  let hold := x / 128 % 2 = 1
  let skip := full && !(g.frameLen ≤ g.n || (out && !g.fresh))
  if skip then (n, .done none) else stallIf (if out then n.xferOut e hold else n.xferIn e hold)

/-- `w` bits taken into S. -/
def Engine.take (g : Engine) (v w : Nat) : Engine :=
  let b : Word := BitVec.ofNat 32 (v % 2 ^ w)
  { g with s := if g.order then (g.s <<< w) ||| b else (g.s >>> w) ||| (b <<< (32 - w)), n := min 32 (g.n + w) }

/-- SAMPLE (09 R254); `entered` says that its bits are in and its transfer waits. -/
def Node.pawnSample (n : Node) (e x : Nat) (lv : BitVec 24) : Node × PawnEnd :=
  let g := n.eng e
  let cnt := if x % 32 = 0 then 32 else x % 32
  let (v, w) := match x / 256 with
    | 0 => (g.group lv, g.gwidth)
    | 1 => ((lv.getLsbD g.tpin).toNat, 1)
    | 2 => (0, cnt)
    | _ => (g.a.toNat, cnt)
  let n := if g.entered then n else n.onEng e fun g => g.take v w
  let g := n.eng e
  if g.autox && g.frameLen ≤ g.n then
    let (n, stall) := n.xferIn e true
    if stall then (n.onEng e fun g => { g with entered := true }, .stall) else (n, .done none)
  else (n, .done none)

/-- EMIT (09 R254). -/
def Node.pawnEmit (n : Node) (e x : Nat) : Node × PawnEnd :=
  let g := n.eng e
  let (n, stall) := if g.autox && (!g.fresh || g.frameLen ≤ g.n) then n.xferOut e true else (n, false)
  if stall then (n, .stall)
  else
    let g := n.eng e
    let w := if x / 256 < 2 then g.gwidth else if x % 32 = 0 then 32 else x % 32
    let v := if g.order then (g.s >>> (32 - w)).toNat else g.s.toNat % 2 ^ w
    let n := n.onEng e fun g => { g with s := if g.order then g.s <<< w else g.s >>> w, n := min 32 (g.n + w) }
    (match x / 256 with
     | 0 => n.setOut e g.gbase g.gwidth v
     | 1 => n.setDir e g.gbase g.gwidth v
     | 2 => n.onEng e fun g => { g with a := BitVec.ofNat 32 v }
     | _ => n, .done none)

/-- A word with its bits in reverse order. -/
def bitReverse (w : Word) : Word := w.reverse

/-- MOVE (09 R256). -/
def Node.pawnMove (n : Node) (e x : Nat) (lv : BitVec 24) : Node × PawnEnd :=
  let g := n.eng e
  let src : Word := match x / 16 % 8 with
    | 0 => g.a
    | 1 => g.s
    | 2 => g.c0.setWidth 32
    | 3 => g.c1.setWidth 32
    | 4 => BitVec.ofNat 32 (g.group lv)
    | _ => BitVec.ofNat 32 g.n
  let dst := x / 128
  let old : Word := match dst with
    | 0 => g.a
    | 2 => g.c0.setWidth 32
    | _ => g.c1.setWidth 32
  let v := match x / 4 % 4 with
    | 0 => src
    | 1 => ~~~src
    | 2 => bitReverse src
    | _ => old + src
  (match dst with
   | 0 => n.onEng e fun g => { g with a := v }
   | 1 => n.onEng e fun g => { g with s := v, n := 0 }
   | 2 => n.onEng e fun g => { g with c0 := v.setWidth 16 }
   | 3 => n.onEng e fun g => { g with c1 := v.setWidth 16 }
   | 4 => n.setOut e g.gbase g.gwidth v.toNat
   | 5 => n.setDir e g.gbase g.gwidth v.toNat
   | _ => n.onEng e fun g => { g with n := min 32 v.toNat }, .done none)

/-- LOAD and LOADH (09 R256). -/
def Node.pawnLoad (n : Node) (e x : Nat) (high : Bool) : Node × PawnEnd :=
  let g := n.eng e
  let d := x % 256
  (match high, x / 256 with
   | false, 0 => n.setOut e g.gbase g.gwidth d
   | false, 1 => n.setDir e g.gbase g.gwidth d
   | false, 2 => n.onEng e fun g => { g with c0 := BitVec.ofNat 16 d }
   | false, _ => n.onEng e fun g => { g with c1 := BitVec.ofNat 16 d }
   | true, 0 => n.onEng e fun g => { g with c0 := BitVec.ofNat 16 (d * 256 + g.c0.toNat % 256) }
   | true, _ => n.onEng e fun g => { g with c1 := BitVec.ofNat 16 (d * 256 + g.c1.toNat % 256) }, .done none)

/-- PIN (09 R256). -/
def Node.pawnPin (n : Node) (e x : Nat) : Node × PawnEnd :=
  let p := x % 32
  let lvl := n.k.pawn.outL.getLsbD p
  (match x / 256 with
   | 0 => (n.setOut e p 1 0).setDir e p 1 1
   | 1 => (n.setOut e p 1 1).setDir e p 1 1
   | 2 => (n.setOut e p 1 (!lvl).toNat).setDir e p 1 1
   | _ => n.setDir e p 1 0, .done none)

/-- SIG (09 R256, R266); a set that waits has set its bit in its first step. -/
def Node.pawnSig (n : Node) (e x : Nat) : Node × PawnEnd :=
  let i := x % 8
  match x / 256 with
  | 0 => (n.irqBit i true, .done none)
  | 1 => (n.irqBit i false, .done none)
  | _ =>
    if (n.eng e).entered then (n, if n.k.irq i then .stall else .done none)
    else ((n.irqBit i true).onEng e fun g => { g with entered := true }, .stall)

/-- TEST (09 R256). -/
def Node.pawnTest (n : Node) (e x : Nat) (lv : BitVec 24) : Node × PawnEnd :=
  let i := x % 32
  let b := match x / 256 with
    | 0 => lv.getLsbD i
    | 1 => n.k.flag i
    | 2 => n.k.irq i
    | _ => (n.eng e).a.getLsbD i
  (n.onEng e fun g => { g with f := b }, .done none)

/-- One instruction. -/
def Node.pawnDo (n : Node) (e w : Nat) (lv : BitVec 24) : Node × PawnEnd :=
  let x := w % 1024
  match w / 4096 with
  | 0 => n.pawnBr e x lv
  | 1 => n.pawnAwait e x lv
  | 2 => n.pawnSample e x lv
  | 3 => n.pawnEmit e x
  | 4 => n.pawnXfr e x
  | 5 => n.pawnMove e x lv
  | 6 => n.pawnLoad e x false
  | 7 => n.pawnLoad e x true
  | 8 => n.pawnPin e x
  | 9 => n.pawnSig e x
  | 10 => n.pawnTest e x lv
  | _ => (n, if x / 256 = 1 then .halt else .done none)

/-- The extra steps of a PACE. -/
def Engine.pace (g : Engine) : Nat → Nat
  | 0 => 0 | 1 => g.p1 | 2 => g.p2 | _ => g.p3

/-- The step of an engine at its PC. -/
def Node.pawnExec (n : Node) (e : Nat) (lv : BitVec 24) : Node :=
  let g := n.eng e
  let addr := (n.k.ebase e + g.pc) % 512
  let w := n.k.pawnWord addr
  if !pawnLegal w then
    (n.onEng e fun g => { g with run := false, halted := true, illegal := true, stall := false }).fault pgPAWN 0x10 0
      (BitVec.ofNat 32 addr)
  else match n.pawnDo e w lv with
  | (n, .stall) => n.onEng e fun g => { g with stall := true }
  | (n, .halt) => n.onEng e fun g => { g with run := false, halted := true, stall := false, entered := false }
  | (n, .done j) => n.onEng e fun g =>
      { g with pc := (match j with
                 | some t => t
                 | none => (g.pc + 1) % 128),
               delay := g.pace (w / 1024 % 4), stall := false, entered := false }

/-- D of an engine's divider (09 R248). -/
def Channel.divD (k : Channel) (e : Nat) : Nat :=
  let w := k.engReg e 4
  if w.field 8 16 = 0 then 65536 * 256 else 256 * w.field 8 16 + w.field 0 8

/-- A step of a running engine: its divider has come to D (09 R248, R249). The PAWN cycles since the last step of the
channel go by first; a disabled block ignores its pins (18 R491). -/
def Node.pawnStep (n : Node) (e : Nat) (balls : List (BitVec 24)) : Node :=
  let n := if n.k.live pgPAWN then balls.foldl Node.pinCycle n else n
  if !(n.k.live pgPAWN && (n.eng e).run) then n
  else
    let lv := n.k.pinsRead
    let d := n.k.divD e
    let n := n.onEng e fun g => { g with div := g.div + 256 * ceilDiv (d - g.div) 256 - d }
    let n := if (n.eng e).delay = 0 then n.pawnExec e lv
      else n.onEng e fun g => { g with delay := g.delay - 1, stall := false }
    (n.onEng e fun g => { g with prev := lv, stepped := true }).pawnJudge

/-! ## Starting and stopping (09 R259, R264) -/

/-- GO for one engine. -/
def Node.engGo (n : Node) (e : Nat) : Node :=
  n.onEng e fun g =>
    { g with run := true, pc := (n.k.engReg e 0).field 9 6, a := 0, s := 0, c0 := 0, c1 := 0, n := 0, f := false,
             fresh := false, halted := false, illegal := false, delay := 0, stepped := false, entered := false,
             stall := false, div := n.k.divD e - 256 }

def Node.engStop (n : Node) (e : Nat) : Node := n.onEng e fun g => { g with run := false }

/-- PAWN_RUNCTL; while ENABLE is 0 every engine is stopped. -/
def Node.runCtl (n : Node) (v : Word) : Node :=
  (List.range 8).foldl (fun n e =>
    if v.bit (8 + e) then n.engStop e else if v.bit e && n.k.live pgPAWN then n.engGo e else n) n

/-- ENABLE cleared. -/
def Node.pawnDown (n : Node) : Node := (List.range 8).foldl (fun n e => n.engStop e) n

/-! ## Registers (09 R260, R264, R270, R271) -/

/-- A write of PAWN_TXF. -/
def Node.txfPush (n : Node) (snd : Sender) (e : Nat) (v : Word) : Node :=
  let off := 0x100 + 0x40 * e + 0x14
  let g := n.eng e
  if g.depth = 1 || n.k.drainOn e true then n.regFault snd pgPAWN off cSTATE
  else if g.txCap ≤ g.tx.length then (n.onEng e fun g => { g with txovf := true }).regFault snd pgPAWN off 0x11
  else n.onEng e fun g => { g with tx := g.tx ++ [v] }

/-- A read of PAWN_RXF. -/
def Node.rxfPop (n : Node) (snd : Sender) (e : Nat) : Node × Word :=
  let off := 0x100 + 0x40 * e + 0x18
  let g := n.eng e
  if g.depth = 2 || n.k.drainOn e false then (n.regFault snd pgPAWN off cSTATE, 0)
  else match g.rx with
  | [] => ((n.onEng e fun g => { g with rxunf := true }).regFault snd pgPAWN off 0x12, 0)
  | w :: _ => (n.onEng e fun g => { g with rx := g.rx.drop 1 }, w)

/-- A register of engine e written. -/
def Node.engWrite (n : Node) (snd : Sender) (e o : Nat) (v : Word) : Node :=
  let off := 0x100 + 0x40 * e + o
  let run := (n.eng e).run
  match o with
  | 0x00 | 0x04 => if run then n.regFault snd pgPAWN off cSTATE else n.writeFields snd pgPAWN off v
  | 0x0C =>
    let j := v.field 14 2
    if run && j ≠ (n.eng e).depth then n.regFault snd pgPAWN off cSTATE
    else
      let n := n.writeFields snd pgPAWN off (v.setField 14 2 0)
      if j = 3 then n.regFault snd pgPAWN off cRSVD else n.onEng e fun g => { g with depth := j }
  | 0x10 => n.onEng e fun g =>
      { g with txovf := g.txovf && !v.bit 10, rxunf := g.rxunf && !v.bit 11, rxovf := g.rxovf && !v.bit 12 }
  | 0x14 => n.txfPush snd e v
  | 0x18 => if n.k.drainOn e false then n.regFault snd pgPAWN off cSTATE else n
  | 0x24 =>
    if (n.k.engReg e 0x24).bit 0 && v.bit 0 then n.regFault snd pgPAWN off cSTATE else n.writeFields snd pgPAWN off v
  | _ => n.writeFields snd pgPAWN off v

/-- A register of the PAWN page written. -/
def Node.pawnWrite (n : Node) (snd : Sender) (off : Nat) (v : Word) : Node :=
  let n :=
    if 0x100 ≤ off ∧ off < 0x300 then n.engWrite snd ((off - 0x100) / 0x40) ((off - 0x100) % 0x40) v
    else match off with
    | 0x040 => n.runCtl v
    | 0x050 => v.bits.foldl (fun n i => if i < 8 then n.irqBit i true else n) n
    | _ => n.writeFields snd pgPAWN off v
  n.pawnJudge

/-- A register that chapter 09 names without an offset (log entry 8). -/
def Node.pawnNamed (n : Node) (snd : Sender) (e : Nat) (r : PawnNamed) : Node :=
  let off := 0x100 + 0x40 * e
  if (n.eng e).run then n.regFault snd pgPAWN off cSTATE
  else
    let bad := fun (b : Bool) (n : Node) => if b then n.regFault snd pgPAWN off cRSVD else n
    match r with
    | .ecode base entry => (n.setField pgPAWN off 0 9 base).setField pgPAWN off 9 6 entry
    | .egroup gw gbase tpin =>
      bad (24 ≤ gbase || 24 ≤ tpin) (n.onEng e fun g =>
        { g with gw := gw, gbase := if gbase < 24 then gbase else g.gbase, tpin := if tpin < 24 then tpin else g.tpin })
    | .eframe order autox len depth =>
      bad (33 ≤ len || 3 ≤ depth) (n.onEng e fun g =>
        { g with order := order, autox := autox, framelen := if len < 33 then len else g.framelen,
                 depth := if depth < 3 then depth else g.depth })
    | .epace p1 p2 p3 => n.onEng e fun g => { g with p1 := p1.toNat, p2 := p2.toNat, p3 := p3.toNat }

/-- A register of the PAWN page read; a read of RXF pops. -/
def Node.pawnRead (n : Node) (snd : Sender) (off : Nat) : Node × Word :=
  let e := (off - 0x100) / 0x40
  let g := n.eng e
  if 0x100 ≤ off ∧ off < 0x300 then
    match (off - 0x100) % 0x40 with
    | 0x0C => (n, (n.k.view pgPAWN off).setField 14 2 g.depth)
    | 0x10 =>
      (n, BitVec.ofNat 32 (g.tx.length + 32 * g.rx.length + 1024 * g.txovf.toNat + 2048 * g.rxunf.toNat +
        4096 * g.rxovf.toNat + 8192 * g.illegal.toNat + 16384 * g.halted.toNat + 32768 * g.stall.toNat +
        65536 * ((n.k.ebase e + g.pc) % 512)))
    | 0x14 => (if n.k.drainOn e true then n.regFault snd pgPAWN off cSTATE else n, 0)
    | 0x18 =>
      let (n, w) := n.rxfPop snd e
      (n.pawnJudge, w)
    | 0x1C => (n, g.c0.setWidth 32)
    | 0x20 => (n, g.c1.setWidth 32)
    | _ => (n, n.k.view pgPAWN off)
  else match off with
  | 0x044 => (n, BitVec.ofNat 32 ((List.range 8).foldl (fun a e => if (n.eng e).run then a + 2 ^ e else a) 0))
  | 0x054 => (n, n.k.pawnStat)
  | 0x070 => (n, n.pinIn)
  | _ => (n, n.k.view pgPAWN off)

/-! ## Drain units (09 R261, R268) -/

def Channel.drainStopped (k : Channel) (e : Nat) : Bool := (k.engReg e 0x30).bit 0
def Channel.drainHw (k : Channel) (e : Nat) : Nat := (k.engReg e 0x28).field 0 16
def Channel.drainSw (k : Channel) (e : Nat) : Nat := (k.engReg e 0x2C).field 0 16
def Channel.drainBytes (k : Channel) (e : Nat) : Nat := drainSize ((k.engReg e 0x24).field 2 4)
def Channel.drainBase (k : Channel) (e : Nat) : Nat := (k.engReg e 0x24).toNat / 64 * 64

/-- An access failed: the unit stops. -/
def Node.drainFail (n : Node) (e cause : Nat) : Node :=
  n.setReg pgPAWN (0x100 + 0x40 * e + 0x30) (BitVec.ofNat 32 (1 + 256 * cause))

def Node.drainNext (n : Node) (e : Nat) : Node :=
  n.setReg pgPAWN (0x100 + 0x40 * e + 0x28) (BitVec.ofNat 32 ((n.k.drainHw e + 4) % n.k.drainBytes e))

/-- One word from the RX FIFO to the ring. -/
def Node.drainWord (n : Node) (e : Nat) : Node :=
  let k := n.k
  if !(k.live pgPAWN && k.drainOn e false && !k.drainStopped e) || (k.drainHw e + 4) % k.drainBytes e = k.drainSw e then n
  else match (n.eng e).rx with
  | [] => n
  | w :: _ =>
    let (n, r) := n.put mPAWN (k.drainBase e + k.drainHw e) (bytesLE 4 w.toNat) true
    (match r with
     | .ok _ => (n.onEng e fun g => { g with rx := g.rx.drop 1 }).drainNext e
     | .denied => n.drainFail e 1
     | .ecc => n.drainFail e 2).pawnJudge

/-- One word from the ring to the TX FIFO. -/
def Node.fillWord (n : Node) (e : Nat) : Node :=
  let k := n.k
  let g := n.eng e
  if !(k.live pgPAWN && k.drainOn e true && !k.drainStopped e) || k.drainHw e = k.drainSw e || g.txCap ≤ g.tx.length then n
  else
    let (n, r) := n.getBy mPAWN (k.drainBase e + k.drainHw e) 4
    (match r with
     | .ok bs => (n.onEng e fun g => { g with tx := g.tx ++ [wordAt bs 0] }).drainNext e
     | .denied => n.drainFail e 1
     | .ecc => n.drainFail e 2).pawnJudge

/-! ## The commands -/

/-- A step of an engine; `balls` are the levels at the balls in each PAWN cycle since the last step of the channel, this
cycle's last; none for a step in the same cycle. -/
def execPawnEngineStep (c : Ch) (e : Fin 8) (balls : List (BitVec 24)) (s : State) : Out :=
  .next (s.within c fun n => n.pawnStep e balls)

/-- A write of PAWN_RUNCTL. -/
def execPawnGo (snd : Sender) (c : Ch) (v : Word) (s : State) : Out :=
  .next (s.regCmd snd c pgPAWN 0x040 fun n => n.pawnWrite snd 0x040 v)

/-- A write of PAWN_RUNCTL that stops engines: GO bits 0. -/
def execPawnStop (snd : Sender) (c : Ch) (v : Word) (s : State) : Out :=
  .next (s.regCmd snd c pgPAWN 0x040 fun n => n.pawnWrite snd 0x040 (v.setField 0 8 0))

/-- A write of PAWN_TXF. -/
def execPawnTxfPush (snd : Sender) (c : Ch) (e : Fin 8) (v : Word) (s : State) : Out :=
  .next (s.regCmd snd c pgPAWN (0x100 + 0x40 * e + 0x14) fun n => n.pawnWrite snd (0x100 + 0x40 * e + 0x14) v)

/-- A read of PAWN_RXF. -/
def execPawnRxfPop (snd : Sender) (c : Ch) (e : Fin 8) (s : State) : Out :=
  .next (s.regRead snd c pgPAWN (0x100 + 0x40 * e + 0x18) fun n => n.pawnRead snd (0x100 + 0x40 * e + 0x18))

/-- A write of PAWN_IRQSET. -/
def execPawnIrqset (snd : Sender) (c : Ch) (v : Word) (s : State) : Out :=
  .next (s.regCmd snd c pgPAWN 0x050 fun n => n.pawnWrite snd 0x050 v)

/-- A W1C write of PAWN_IRQ. -/
def execPawnIrqClear (snd : Sender) (c : Ch) (v : Word) (s : State) : Out :=
  .next (s.regCmd snd c pgPAWN 0x04C fun n => n.pawnWrite snd 0x04C v)

/-- The drain unit moves a word. -/
def execPawnDrainWord (c : Ch) (e : Fin 8) (s : State) : Out :=
  .next (s.within c fun n => n.drainWord e)

/-- The fill unit moves a word. -/
def execPawnFillWord (c : Ch) (e : Fin 8) (s : State) : Out :=
  .next (s.within c fun n => n.fillWord e)

/-- A W1C write of PAWN_DRAINSTAT.STOPPED. -/
def execPawnDrainResume (snd : Sender) (c : Ch) (e : Fin 8) (s : State) : Out :=
  .next (s.regCmd snd c pgPAWN (0x100 + 0x40 * e + 0x30) fun n => n.pawnWrite snd (0x100 + 0x40 * e + 0x30) 1)

end Sys2Proof.Machine
end

