-- ==== Sys2Proof/Machine/Slb.lean ====
section
/-!
DEFINITION. The slotted bus (16). The commands are the instants of the schedule and what the media bring; a frame the node
sends stands in its medium's `tx` for the slot (log entry 11).
-/

namespace Sys2Proof.Machine

def Node.slb (n : Node) : Slb := n.k.slb

def Node.onSlb (n : Node) (g : Slb → Slb) : Node := n.onK fun k => { k with slb := g k.slb }

def Node.slbCount (n : Node) (i : Nat) : Node := n.count pgSLB (0x200 + 4 * i)

def Slb.med (x : Slb) : Port → SlbMed
  | .a => x.medA | .b => x.medB

def Slb.onMed (x : Slb) (m : Port) (g : SlbMed → SlbMed) : Slb :=
  match m with
  | .a => { x with medA := g x.medA }
  | .b => { x with medB := g x.medB }

def Slb.onBoth (x : Slb) (g : SlbMed → SlbMed) : Slb := { x with medA := g x.medA, medB := g x.medB }

/-! ## Configuration (16 R429, R430, R456, R457) -/

def Channel.sl (k : Channel) (off lo len : Nat) : Nat := (k.reg pgSLB off).field lo len

def Channel.slMed (k : Channel) (m : Port) : Bool := (k.reg pgSLB 0x040).bit (2 + m.num)
def Channel.slSync (k : Channel) : Bool := (k.reg pgSLB 0x040).bit 4
def Channel.slCold (k : Channel) : Bool := (k.reg pgSLB 0x040).bit 5
def Channel.syncSlot (k : Channel) : Nat := k.sl 0x040 6 10
def Channel.tssLen (k : Channel) : Nat := k.sl 0x040 16 4
def Channel.mtNom (k : Channel) : Nat := k.sl 0x044 0 9
def Channel.stSlots (k : Channel) : Nat := k.sl 0x048 0 10
def Channel.mSlots (k : Channel) : Nat := k.sl 0x04C 0 13
def Channel.mSlotMt (k : Channel) : Nat := k.sl 0x04C 16 6
def Channel.dapo (k : Channel) : Nat := k.sl 0x04C 24 6
def Channel.stPlen (k : Channel) : Nat := k.sl 0x050 16 8
def Channel.syncWin (k : Channel) : Nat := k.sl 0x054 0 16

/-- Microticks of a bit. -/
def Channel.slTb (k : Channel) : Nat := 8 * 2 ^ k.sl 0x040 0 2

/-- Microticks of a received sample, of which a bit has 8 (16 R433). -/
def Channel.slSample (k : Channel) : Nat := 2 ^ k.sl 0x040 0 2

def Channel.slotMt (k : Channel) : Nat := k.sl 0x048 16 10
def Channel.cycleMt (k : Channel) : Nat := k.sl 0x050 0 16

/-- When macrotick m of a cycle begins, in microticks after the cycle's start: the RATE in force is spread evenly over the
cycle's macroticks (16 R441, log entry 61). -/
def Channel.mtAt (k : Channel) (m : Nat) : Int :=
  m * ((k.cycleMt * k.mtNom : Nat) + k.slb.rate) / (k.cycleMt : Int)

/-- The macroticks in which static slot s, its action point and minislot q begin (16 R437, R438). -/
def Channel.slotAt (k : Channel) (s : Nat) : Nat := (s - 1) * k.slotMt
def Channel.actionAt (k : Channel) (s : Nat) : Nat := k.slotAt s + k.sl 0x044 16 6
def Channel.miniAt (k : Channel) (q : Nat) : Nat := k.stSlots * k.slotMt + q * k.mSlotMt

/-- Microticks of 12.5 ns as nanoseconds, rounded down. -/
def tickNs (d : Int) : DWord := BitVec.ofInt 64 (d * 25 / 2)

/-- The first buffer area. -/
def Channel.slBase (k : Channel) : Nat := (k.reg pgSLB 0x0B4).toNat / 64 * 64

/-- What RUN checks (16 R457). -/
def Channel.slbCfgOk (k : Channel) : Bool :=
  let mt := k.mtNom
  let apo := k.sl 0x044 16 6
  let slotMt := k.sl 0x048 16 10
  let ofs := k.sl 0x058 0 16
  40 ≤ mt && mt ≤ 480 && 1 ≤ apo && 1 ≤ k.dapo && k.dapo < k.mSlotMt && 2 ≤ k.stSlots && 4 ≤ slotMt &&
  k.mSlots ≤ 4096 && 2 ≤ k.mSlotMt && 8 ≤ k.sl 0x050 0 16 && k.stPlen ≤ 254 && 3 ≤ k.tssLen && 1 ≤ k.syncWin &&
  2 ≤ k.sl 0x060 0 6 && (k.slMed .a || k.slMed .b) && (!k.slCold || k.slSync) &&
  (!k.slSync || (1 ≤ k.syncSlot && k.syncSlot ≤ k.stSlots)) &&
  apo * mt + k.syncWin + (k.tssLen + 94 + 10 * k.stPlen) * k.slTb ≤ slotMt * mt &&
  k.stSlots * slotMt + k.mSlots * k.mSlotMt + 2 + ceilDiv ofs mt ≤ k.sl 0x050 0 16 &&
  inSram k.slBase (128 * 0x140)

/-! ## State changes -/

/-- STATE takes a value; a change raises EVT_SLB_SYNC (16 R455). -/
def Node.slbGo (n : Node) (st : SlbSt) : Node :=
  if n.slb.state = st then n else (n.onSlb fun x => { x with state := st }).raise evSLB_SYNC

/-- A state with a schedule that follows a cluster or the node's own startup (16 R431). -/
def SlbSt.timed : SlbSt → Bool
  | .integrate | .coldstart | .active | .passive => true
  | .config | .listen | .sleep => false

/-! ## Frames (16 R434, R435) -/

/-- A frame on a medium. -/
def slbFrame (m : Port) (sync cold null : Bool) (id cyc : Nat) (pay : List Byte) : List Byte :=
  let h := [BitVec.ofNat 8 (128 * sync.toNat + 64 * cold.toNat + 32 * null.toNat + id / 256 % 8), BitVec.ofNat 8 id,
            BitVec.ofNat 8 pay.length, BitVec.ofNat 8 (cyc % 64)]
  let h := h ++ [BitVec.ofNat 8 (dieFold 4 0 h)]
  let seed := match m with
    | .a => 0 | .b => 0xA5A5A5
  h ++ pay ++ bytesBE 3 (crc24 seed (h ++ pay))

/-- The fields of a received frame. -/
structure SlbFields where
  sync  : Bool
  cold  : Bool
  null  : Bool
  rsv   : Bool
  id    : Nat
  plen  : Nat
  cycle : Nat
  pay   : List Byte
deriving DecidableEq, Repr

def slbFields (bs : List Byte) : SlbFields :=
  let b0 := byteAt bs 0
  let plen := (byteAt bs 2).toNat
  { sync := b0.getLsbD 7, cold := b0.getLsbD 6, null := b0.getLsbD 5,
    rsv := b0.getLsbD 4 || b0.getLsbD 3 || (byteAt bs 3).getLsbD 7 || (byteAt bs 3).getLsbD 6,
    id := b0.toNat % 8 * 256 + (byteAt bs 1).toNat, plen := plen, cycle := (byteAt bs 3).toNat % 64,
    pay := slice bs 5 plen }

/-! ### Line coding (16 R432, R433) -/

/-- Where a receiver stands in a frame: idle, in the TSS, at the first high bit of a BSS, at its falling edge, at its low bit,
in a byte, after a byte, at the high bit of the FES, behind it, or behind a coding error. -/
inductive LinePh where
  | idle | tss | high | edge | low | data | sep | fes | done | bad
deriving DecidableEq, Repr

/-- A receiver: the last two samples, the voted level before, samples seen, the sample of the bit it is in, bits counted, the
byte under way, bytes received; the first voted low sample, and the sample behind the end of the frame. -/
structure SlbLine where
  s1 : Bool
  s2 : Bool
  was : Bool
  pos : Nat
  ph : LinePh
  n : Nat
  count : Nat
  acc : Nat
  bytes : List Byte
  first : Nat
  fin : Nat
deriving DecidableEq, Repr

def SlbLine.start : SlbLine := ⟨true, true, true, 0, .idle, 0, 0, 0, [], 0, 0⟩

/-- A bit decided at its sample 5 as the voted level `v`. -/
def SlbLine.bit (tssLen : Nat) (l : SlbLine) (v : Bool) : SlbLine :=
  match l.ph with
  | .tss =>
    if !v then { l with count := l.count + 1 }
    else if 2 ≤ l.count && l.count ≤ tssLen + 1 then { l with ph := .high } else { l with ph := .bad }
  | .high => { l with ph := if v then .edge else .bad }
  | .low => if v then { l with ph := .bad } else { l with ph := .data, count := 0, acc := 0 }
  | .data =>
    let acc := 2 * l.acc + v.toNat
    if l.count = 7 then { l with ph := .sep, bytes := l.bytes ++ [BitVec.ofNat 8 acc] }
    else { l with count := l.count + 1, acc := acc }
  | .sep => { l with ph := if v then .edge else .fes }
  | .fes => if v then { l with ph := .done, fin := l.pos + 3 } else { l with ph := .bad }
  | .edge => { l with ph := .bad }
  | .idle | .done | .bad => l

/-- One sample: the voted level is the majority of the last three; a voted falling edge starts the TSS, or the low bit of a
BSS; every bit is decided at its sample 5. -/
def SlbLine.step (tssLen : Nat) (l : SlbLine) (b : Bool) : SlbLine :=
  let v := (b && l.s1) || (b && l.s2) || (l.s1 && l.s2)
  let fall := l.was && !v
  let l := { l with s1 := b, s2 := l.s1, was := v, pos := l.pos + 1, n := l.n % 8 + 1 }
  let l := if v || l.ph = .done then l else { l with fin := l.pos }
  if l.ph = .idle then (if fall then { l with ph := .tss, n := 1, count := 0, first := l.pos - 1 } else l)
  else if l.ph = .edge && fall then { l with ph := .low, n := 1 }
  else if l.n = 5 then l.bit tssLen v else l

def SlbLine.run (tssLen : Nat) (bs : List Bool) : SlbLine := bs.foldl (SlbLine.step tssLen) SlbLine.start

/-- A frame as received: whether its coding is right, its bytes from the header to FCRC, its time and the end of its FES in
microticks after the start of the cycle, both less RXDLY, and its time as TIME_NOW (16 R433). -/
structure SlbIn where
  coded : Bool
  bytes : List Byte
  time : Int
  fes : Int
  stamp : DWord
deriving DecidableEq, Repr

/-- What a medium's samples bring; none where the bus stays idle. -/
def Channel.slbIn (k : Channel) (bs : List Bool) (at0 : Int) (stamp : DWord) : Option SlbIn :=
  let l := SlbLine.run k.tssLen bs
  let dly : Int := k.sl 0x054 16 16
  let t := fun (i : Nat) => at0 + (i * k.slSample : Nat) - dly
  if l.ph = .idle then none
  else some ⟨l.ph = .done, l.bytes, t l.first, t l.fin, stamp + tickNs ((l.first * k.slSample : Nat) - dly)⟩

/-- The deviation of a frame from the action point of a slot (16 R439). -/
def Channel.slbDev (k : Channel) (f : SlbIn) (slot : Nat) : Int := f.time - k.mtAt (k.actionAt slot)

/-- A frame lies inside static slot s (16 R436 rule 5). -/
def Channel.inSlot (k : Channel) (f : SlbIn) (s : Nat) : Bool :=
  k.mtAt (k.slotAt s) ≤ f.time && f.fes ≤ k.mtAt (k.slotAt (s + 1))

/-- The first of rules 1 to 3 of 16 R436 that a frame breaks, as its counter on medium A. -/
def slbRules13 (m : Port) (f : SlbIn) : Option Nat :=
  let x := slbFields f.bytes
  let head := f.bytes.take 4
  if !f.coded || f.bytes.length ≠ 8 + x.plen || 254 < x.plen then some 2
  else if byteAt f.bytes 4 ≠ BitVec.ofNat 8 (dieFold 4 0 head) then some 4
  else if f.bytes ≠ f.bytes.take (5 + x.plen) ++
      bytesBE 3 (crc24 (match m with | .a => 0 | .b => 0xA5A5A5) (f.bytes.take (5 + x.plen))) then some 6
  else if x.rsv || (x.null && !x.sync) then some 8
  else none

/-- Rules 4 to 6, for a node with a schedule. -/
def Channel.slbRules46 (k : Channel) (m : Port) (f : SlbIn) : Bool :=
  let x := slbFields f.bytes
  let s := k.slb
  x.id = (s.med m).slot && x.cycle = s.cycle &&
  (if s.dynamic then !x.sync && !x.cold && !x.null else x.plen = k.stPlen && k.inSlot f (s.med m).slot)

/-! ## Message buffers (16 R448, R449, R451, R466) -/

def slbBufBlank : SlbBuf := ⟨false, false, none, false, false, 0⟩

def Channel.slbBuf (k : Channel) (b : Nat) : SlbBuf := (SMap.get? k.slb.bufs b).getD slbBufBlank

def Node.onBuf (n : Node) (b : Nat) (g : SlbBuf → SlbBuf) : Node :=
  n.onSlb fun x => { x with bufs := SMap.put slbBufBlank x.bufs b (g (n.k.slbBuf b)) }

/-- SLB_BUFCFGb. -/
def Channel.bufCfg (k : Channel) (b w : Nat) : Word := k.reg pgSLB (0x400 + 8 * b + 4 * w)

def Channel.bufAt (k : Channel) (b : Nat) : Nat := k.slBase + 0x140 * b

/-- A cycle filter holds. -/
def cycleFilter (cyc base log2 : Nat) : Bool := cyc % 2 ^ log2 == base % 2 ^ log2

/-- The lowest buffer of a direction that matches a slot on a medium (16 R448). -/
def Channel.slbMatch (k : Channel) (tx : Bool) (slot cyc : Nat) (m : Port) : Option Nat :=
  (List.range 128).find? fun b =>
    let w := k.bufCfg b 0
    w.bit 31 && w.bit 11 == tx && w.field 0 11 == slot && w.bit (12 + m.num) &&
    cycleFilter cyc (w.field 14 6) (w.field 20 3)

/-- A buffer goes out on a medium: it names it, and the medium is enabled. -/
def Channel.bufOn (k : Channel) (b : Nat) (m : Port) : Bool := (k.bufCfg b 0).bit (12 + m.num) && k.slMed m

/-- Whether a buffer is bad at READY (16 R466). -/
def Channel.bufBad (k : Channel) (b : Nat) : Bool :=
  let w := k.bufCfg b 0
  !w.bit 11 || !(k.bufOn b .a || k.bufOn b .b) || (w.field 0 11 = k.syncSlot && w.field 0 11 ≤ k.stSlots && !k.slSync) ||
  254 < (k.bufCfg b 1).field 0 8

/-- The cycle and the time that an item's report shows; of one that was not sent the specification states neither (log
entry 4). -/
def Node.sentAt (n : Node) (sent : Option (Nat × DWord)) : (Nat × DWord) × Node :=
  match sent with
  | some x => (x, n)
  | none =>
    let (c, n) := n.free
    let (t, n) := n.free
    ((c.toNat % 64, t), n)

/-- A report that cannot be written (16 R462). -/
def Node.slbPut (n : Node) (code a : Nat) (bs : List Byte) : Node × Bool :=
  let (n, r) := n.put mSLB a bs
  match r with
  | .ok _ => (n, true)
  | .denied | .ecc => (n.fault pgSLB code 0 (BitVec.ofNat 32 a), false)

/-- An item completes (16 R449). -/
def Node.slbDone (n : Node) (b : Nat) (st : Byte) (sent : Option (Nat × DWord)) : Node :=
  let ((cyc, time), n) := n.sentAt sent
  let a := n.k.bufAt b
  let (n, ok) := n.slbPut 0x12 a (bytesLE 4 (st.toNat + 65536 * cyc + 2 ^ 31))
  let n := if ok then (n.slbPut 0x12 (a + 8) (bytesLE 8 time.toNat)).1 else n
  let n := n.onBuf b fun x => { x with ready := false, taken := false, fire := none, sentA := false, sentB := false }
  let n := n.onSlb fun x => x.onBoth fun y => { y with pend := if y.pend = some b then none else y.pend }
  let n := if st = stOK then n.slbCount 17 else if st = stLATE || st = stTIMEOUT then n.slbCount 18
    else if st = stDOWN then n.slbCount 19 else n
  let n := n.setField pgSLB (0x0A0 + b / 32 * 4) (b % 32) 1 1
  n.raiseIf ((n.k.bufCfg b 0).bit 23) evSLB_BUF

/-- Every open item ends, in buffer order. -/
def Node.slbEndAll (n : Node) (st : Byte) : Node :=
  (List.range 128).foldl (fun n b => if (n.k.slbBuf b).ready then n.slbDone b st none else n) n

/-- A buffer is set READY: checked, and accepted or completed at once. -/
def Node.slbReady (n : Node) (b : Nat) : Node :=
  if (n.k.slbBuf b).ready then n
  else
    let n := n.onBuf b fun x => { x with ready := true, taken := false, sentA := false, sentB := false,
                                         fire := n.k.fireAt ((n.k.bufCfg b 1).field 8 8) }
    if !n.k.live pgSLB then n.slbDone b stDOWN none else if n.k.bufBad b then n.slbDone b stBAD_DESC none else n

/-- An item whose slot is not taken ends. -/
def Node.slbEnd (n : Node) (b : Nat) (st : Byte) : Node :=
  let x := n.k.slbBuf b
  if x.ready && !x.taken then n.slbDone b st none else n

/-- The abandon policy; a deadline that fires at this whistle comes first (16 R459). -/
def Node.slbAbandon (n : Node) : Node :=
  (List.range 128).foldl (fun n b =>
    if (n.k.bufCfg b 0).bit 24 then n.slbEnd b (if n.k.due (n.k.slbBuf b).fire then stTIMEOUT else stLATE) else n) n

/-! ## Taking a buffer for a slot (16 R437, R449) -/

/-- A buffer is taken: its payload is read. -/
def Node.slbTake (n : Node) (b len : Nat) : Node × Option (List Byte) :=
  let n := n.onBuf b fun x => { x with taken := true }
  let (n, r) := if len = 0 then (n, MemRes.ok []) else n.getBy mSLB (n.k.bufAt b + 0x10) len
  match r with
  | .ok bs => (n, some bs)
  | .ecc => (n.slbDone b stECC_FAIL none, none)
  | .denied => (n.slbDone b stBAD_DESC none, none)

/-- Whether a buffer is to be taken on a medium. -/
def Channel.bufDue (k : Channel) (b : Nat) (m : Port) : Bool :=
  let x := k.slbBuf b
  x.ready && k.slMed m && !(match m with | .a => x.sentA | .b => x.sentB)

def Node.setPend (n : Node) (m : Port) (b : Nat) (bs : List Byte) : Node :=
  n.onSlb fun x => x.onMed m fun y => { y with pend := some b, pay := bs }

/-- Medium m's buffer of a static slot, where it is READY. -/
def Channel.staticBuf (k : Channel) (m : Port) : Option Nat :=
  match k.slbMatch true (k.slb.med m).slot k.slb.cycle m with
  | some b => if k.bufDue b m then some b else none
  | none => none

/-- A static slot starts: the buffers READY are taken. A sync node's buffer serves every enabled medium. -/
def Node.slotStart (n : Node) : Node :=
  if n.slb.state ≠ .active then n
  else
    let bA := n.k.staticBuf .a
    let bB := n.k.staticBuf .b
    let len := n.k.stPlen
    if n.k.slSync && n.slb.medA.slot = n.k.syncSlot then
      (match (bA <|> bB) with
       | none => n
       | some b =>
         let (n, r) := n.slbTake b len
         match r with
         | none => n
         | some bs => [Port.a, .b].foldl (fun n m => if n.k.slMed m then n.setPend m b bs else n) n)
    else
      let one := fun (n : Node) (m : Port) (b : Option Nat) => match b with
        | none => n
        | some b =>
          let (n, r) := n.slbTake b len
          match r with
          | none => n
          | some bs => n.setPend m b bs
      if bA = bB then
        (match bA with
         | none => n
         | some b =>
           let (n, r) := n.slbTake b len
           match r with
           | none => n
           | some bs => (n.setPend .a b bs).setPend .b b bs)
      else one (one n .a bA) .b bB

/-- A frame goes out on a medium, its TSS at a time. -/
def Node.slbSend (n : Node) (m : Port) (bs : List Byte) (data : Bool) (time : DWord) : Node :=
  (n.slbCount (10 + m.num)).onSlb fun x => x.onMed m fun y => { y with tx := bs, data := data, back := false, time := time }

/-- The action point of a static slot (16 R437); in COLDSTART the startup frame is the sync frame without data (log entry
28). -/
def Node.slbAction (n : Node) : Node :=
  let x := n.slb
  let own := n.k.slSync && x.medA.slot = n.k.syncSlot
  let zeros := List.replicate n.k.stPlen (0 : Byte)
  if x.dynamic || !(x.state = .active || (x.state = .coldstart && own)) then n
  else
    [Port.a, .b].foldl (fun n m =>
      let y := n.slb.med m
      if !n.k.slMed m || !y.tx.isEmpty then n
      else match y.pend with
      | some _ => n.slbSend m (slbFrame m own (own && n.k.slCold) false y.slot x.cycle y.pay) true n.k.now
      | none => if own then n.slbSend m (slbFrame m true n.k.slCold true y.slot x.cycle zeros) false n.k.now else n) n

/-! ## Synchronisation (16 R439–R442) -/

/-- A deviation measured in a slot. -/
def measAdd (l : List SlbMeas) (slot : Nat) (m : Port) (d : Int) : List SlbMeas :=
  let put := fun (x : SlbMeas) => match m with
    | .a => { x with dA := some d }
    | .b => { x with dB := some d }
  if l.any (fun x => x.slot = slot) then l.map fun x => if x.slot = slot then put x else x
  else l ++ [put ⟨slot, none, none⟩]

/-- The value of a measurement. -/
def SlbMeas.value (x : SlbMeas) : Int :=
  match x.dA, x.dB with
  | some a, some b => (a + b) / 2
  | some a, none => a
  | none, some b => b
  | none, none => 0

/-- The values of a cycle by slot, a sync node's own 0 among them, at most 15 in slot order (16 R439). -/
def Channel.slbValues (k : Channel) (l : List SlbMeas) : List (Nat × Int) :=
  let vs := l.map fun x => (x.slot, x.value)
  let vs := if k.slSync then (k.syncSlot, 0) :: vs else vs
  (vs.mergeSort fun a b => a.1 ≤ b.1).take 15

/-- The fault-tolerant midpoint (16 R440). -/
def midpoint (vs : List Int) : Int :=
  let n := vs.length
  let k := if n ≤ 2 then 0 else if n ≤ 7 then 1 else 2
  let s := ((vs.mergeSort fun a b => a ≤ b).drop k).take (n - 2 * k)
  match s.head?, s.getLast? with
  | some lo, some hi => (lo + hi) / 2
  | _, _ => 0

/-- A value limited to ±lim. -/
def clampTo (lim : Nat) (v : Int) : Int := max (-(lim : Int)) (min lim v)

/-- OFFSET and RATE at the end of the static segment of an odd cycle; the RATE is in force from the next even cycle on (16 R441,
R442, R455). -/
def Node.slbCorrect (n : Node) : Node :=
  let x := n.slb
  let k := n.k
  if !x.state.timed || x.cycle % 2 = 0 then n
  else
    let odd := k.slbValues x.measOdd
    let even := k.slbValues x.measEven
    let ofs := midpoint (odd.map Prod.snd)
    let diffs := odd.filterMap fun p => (even.find? fun q => q.1 = p.1).map fun q => p.2 - q.2
    let rate := x.rate + midpoint diffs
    let ofs' := clampTo (k.sl 0x058 0 16) ofs
    let rate' := clampTo (k.sl 0x058 16 16) rate
    let n := if ofs' = ofs then n else (n.setField pgSLB 0x06C 3 1 1).slbCount 21
    let n := if rate' = rate then n else (n.setField pgSLB 0x06C 4 1 1).slbCount 22
    let hit := ofs' ≠ ofs || rate' ≠ rate
    let n := n.onSlb fun x => { x with offset := ofs', rateNext := rate', clamped := x.clamped || hit }
    let th := k.sl 0x05C 8 16
    let n := n.raiseIf (th ≠ 0 && th ≤ ofs'.natAbs) evSLB_SYNC
    if hit && x.state = .active then
      ((n.onSlb fun x => { x with pairs := 0, passed := 0, first := true, alone := false }).slbCount 29).slbGo .passive
    else n

/-- A medium with nothing seen, taken or sent in its slot. -/
def SlbMed.clear (y : SlbMed) : SlbMed :=
  { y with seen := SlbSeen.reset, pend := none, pay := [], tx := [], data := false, back := false }

/-- The node sleeps (16 R446). -/
def Node.slbSleep (n : Node) : Node :=
  let n := n.slbEndAll stDOWN
  let n := n.onSlb fun x =>
    { x.onBoth (fun y => { y.clear with had := false, wake := false }) with
      freeRun := x.sched, measEven := [], measOdd := [], other := false, alone := false, pairs := 0, passed := 0,
      clamped := false, first := false, cold := false, sleepReq := false, rate := 0, rateNext := 0 }
  n.slbGo .sleep

/-- The node listens: open items end DOWN, the schedule goes unless it runs free (16 R442, R443, R449); a SLEEP that waited for
the end of the cycle acts at once (R446). -/
def Node.slbListen (n : Node) : Node :=
  let req := n.slb.sleepReq
  let n := n.slbEndAll stDOWN
  let n := n.onSlb fun x =>
    let keep := x.freeRun && x.state = .sleep
    { x.onBoth (fun y => { y.clear with had := false, wake := false }) with
      sched := keep, freeRun := keep, measEven := [], measOdd := [], other := false, alone := false, pairs := 0, passed := 0,
      clamped := false, first := false, cold := false, sleepReq := false, rate := 0, rateNext := 0 }
  let n := n.slbGo .listen
  if req then n.slbSleep else n

/-- LIVE of the media at the end of a cycle pair (16 R455). -/
def Node.slbLive (n : Node) : Node :=
  let x := n.slb
  (n.onSlb fun x => x.onBoth fun y => { y with live := y.had, had := false }).raiseIf
    (x.medA.live ≠ x.medA.had || x.medB.live ≠ x.medB.had) evSLB_SYNC

/-- The end of a cycle pair (16 R442, R444, R445, R455); a free-running schedule has pairs too, and judges none. -/
def Node.slbPairEnd (n : Node) : Node :=
  let x := n.slb
  if !x.sched || x.cycle % 2 = 0 then n
  else if !x.state.timed then n.slbLive
  else
    let good := !x.measEven.isEmpty && !x.measOdd.isEmpty && !x.clamped
    let n := n.slbLive.onSlb fun x =>
      { x with cntEven := min 15 x.measEven.length, cntOdd := min 15 x.measOdd.length, measEven := [], measOdd := [],
               clamped := false, other := false, first := false }
    let set := fun (n : Node) (g : Slb → Slb) => n.onSlb g
    match x.state with
    | .coldstart =>
      if x.cycle = 3 then ((set n fun y => { y with pairs := 0, alone := !x.other }).slbCount 24).slbGo .active else n
    | .integrate =>
      if x.first then n
      else if x.measEven.isEmpty && x.measOdd.isEmpty then n.slbListen
      else if !good then set n fun x => { x with pairs := 0 }
      else if x.pairs + 1 = 2 then ((set n fun x => { x with pairs := 0, alone := false }).slbCount 25).slbGo .active
      else set n fun x => { x with pairs := x.pairs + 1 }
    | .active =>
      if n.k.slSync then set n fun y => { y with alone := !x.other }
      else if good then n
      else ((set n fun x => { x with pairs := 0, passed := 0 }).slbCount 29).slbGo .passive
    | .passive =>
      if x.first then n
      else
        let pairs := if good then x.pairs + 1 else 0
        let passed := x.passed + 1
        let max := n.k.sl 0x05C 0 8
        if pairs = 2 then (set n fun x => { x with pairs := 0, passed := 0, alone := false }).slbGo .active
        else if max ≠ 0 && max ≤ passed then (n.slbCount 26).slbListen
        else set n fun x => { x with pairs := pairs, passed := passed }
    | .config | .listen | .sleep => n

/-! ## Received frames (16 R436, R439, R443, R444) -/

/-- DRIFT against a free-running schedule (16 R443). -/
def Node.setDrift (n : Node) (d : Int) : Node :=
  let v := clampTo (2 ^ 23 - 1) d
  (n.setReg pgSLB 0x070 (BitVec.ofNat 32 (toBits 24 v + 2 ^ 31))).raise evSLB_SYNC

/-- What a valid frame leaves in its slot. -/
def SlbSeen.valid1 (s : SlbSeen) (f : SlbIn) : SlbSeen :=
  let y := slbFields f.bytes
  ⟨true, s.invalid, y.null, f.fes, y.cycle, y.pay, f.stamp⟩

/-- The node takes a schedule from a sync frame, or keeps its own, and integrates (16 R443). The frame it adopts stands in its
slot with D = 0 (R451, R452). -/
def Node.slbAdopt (n : Node) (m : Port) (f : SlbIn) : Node :=
  let x := n.slb
  let y := slbFields f.bytes
  let free := x.freeRun && x.state = .listen
  let dev := n.k.slbDev f y.id
  let n := if free then n.setDrift dev else n
  let keep := free && dev.natAbs ≤ n.k.syncWin && y.cycle = x.cycle
  let fits := y.plen = n.k.stPlen
  let n := n.onSlb fun x =>
    let x := if keep then x
      else
        let x := x.onBoth fun z => { z.clear with slot := y.id, mini := 0, had := false }
        let x := x.onMed m fun z =>
          if fits then { z with had := true, seen := z.seen.valid1 f } else { z with seen := { z.seen with invalid := true } }
        { x with cycle := y.cycle, dynamic := false }
    { x.onBoth (fun z => { z with wake := false }) with
      sched := true, freeRun := false, measEven := [], measOdd := [], other := false, pairs := 0, passed := 0,
      clamped := false, first := true, cold := false, rate := 0, rateNext := 0 }
  n.slbGo .integrate

/-- A coldstart attempt is lost (16 R444). -/
def Node.coldLost (n : Node) : Node := (n.setField pgSLB 0x06C 2 1 1).slbCount 23

/-- A frame that breaks a rule. -/
def Node.slbInvalid (n : Node) (m : Port) (i : Nat) (f : SlbIn) : Node :=
  (n.slbCount (i + m.num)).onSlb fun x => x.onMed m fun y => { y with seen := { y.seen with invalid := true, fes := f.fes } }

/-- A sync frame of another node measured (16 R439). -/
def Node.slbMeasure (n : Node) (m : Port) (slot : Nat) (d : Int) : Node :=
  let n := n.onSlb fun x => { x with other := true }
  if n.k.syncWin < d.natAbs then n.slbCount 15
  else
    let x := n.slb
    let l := if x.cycle % 2 = 0 then x.measEven else x.measOdd
    let n := if l.any (fun y => y.slot = slot) then n else n.slbCount 14
    n.onSlb fun x =>
      if x.cycle % 2 = 0 then { x with measEven := measAdd x.measEven slot m d }
      else { x with measOdd := measAdd x.measOdd slot m d }

/-- A valid frame in a slot of the schedule; a free-running one measures nothing (16 R446). -/
def Node.slbValid (n : Node) (m : Port) (f : SlbIn) : Node :=
  let y := slbFields f.bytes
  let n := n.slbCount m.num
  let n := if y.null then n.slbCount 13 else n
  let n := n.onSlb fun x => x.onMed m fun z => { z with had := true, seen := z.seen.valid1 f }
  if y.sync && !n.slb.dynamic && n.slb.state.timed then n.slbMeasure m y.id (n.k.slbDev f y.id) else n

/-- The read-back of the node's own frame. -/
def Node.slbOwn (n : Node) (m : Port) (f : SlbIn) : Node :=
  if f.coded && f.bytes = (n.slb.med m).tx then n.onSlb fun x => x.onMed m fun y => { y with back := true }
  else if n.slb.state = .coldstart then n.coldLost.slbListen
  else n.slbInvalid m ((slbRules13 m f).getD 8) f

/-- A frame judged by the rules of 16 R436: 4 to 6 where the node has a schedule. -/
def Node.slbJudge (n : Node) (m : Port) (f : SlbIn) : Node :=
  match slbRules13 m f with
  | some i => n.slbInvalid m i f
  | none =>
    if !n.slb.sched then n.slbCount m.num
    else if n.k.slbRules46 m f then n.slbValid m f
    else n.slbInvalid m 8 f

/-- A sync frame that rules 1 to 3 find valid (16 R443). -/
def syncFrame (m : Port) (f : SlbIn) : Bool := (slbRules13 m f).isNone && (slbFields f.bytes).sync

/-- A frame received on a medium. -/
def Node.slbTakeIn (n : Node) (m : Port) (f : SlbIn) : Node :=
  let x := n.slb
  match x.state with
  | .config => n
  | .sleep => n.slbJudge m f
  | .listen =>
    let n := (n.onSlb fun x => { x with cold := false }).slbJudge m f
    if syncFrame m f then n.slbAdopt m f else n
  | .integrate | .coldstart | .active | .passive =>
    if !(x.med m).tx.isEmpty then n.slbOwn m f
    else
      let y := slbFields f.bytes
      if x.state = .coldstart && syncFrame m f && y.cold && y.id < n.k.syncSlot then
        (n.slbCount m.num).coldLost.slbAdopt m f
      else n.slbJudge m f

/-- The samples of a medium up to the end of a frame. -/
def Node.slbRx (n : Node) (m : Port) (f : SlbRx) : Node :=
  if !(n.k.live pgSLB && n.k.slMed m) then n
  else match n.k.slbIn (n.rxd f.samples) f.at0 f.stamp with
    | none => n
    | some x => n.slbTakeIn m x

/-! ## The ends of slots (16 R438, R451, R452) -/

/-- A receive buffer written from what media brought in the slot: `ms` are the media that use it. -/
def Node.slbRxWrite (n : Node) (b : Nat) (ms : List Port) : Node :=
  let x := n.slb
  let has := fun m => ms.contains m && n.k.slMed m
  let va := has .a && x.medA.seen.valid
  let vb := has .b && x.medB.seen.valid
  if !(va || vb) then n
  else
    let s := if va then x.medA.seen else x.medB.seen
    let mis := va && vb && x.medA.seen.payload ≠ x.medB.seen.payload
    let n := if mis then n.slbCount 16 else n
    let seq := ((n.k.slbBuf b).seq + 1) % 256
    let word := fun (wip : Bool) (seq : Nat) =>
      wip.toNat + 2 * va.toNat + 4 * vb.toNat + 8 * s.null.toNat + 16 * (has .a && x.medA.seen.invalid).toNat +
      32 * (has .b && x.medB.seen.invalid).toNat + 64 * mis.toNat + 256 * seq + 65536 * s.cycle + 2 ^ 24 * s.payload.length
    let a := n.k.bufAt b
    let drop := fun (n : Node) => n.slbCount 20
    let (n, ok) := n.slbPut 0x11 a (bytesLE 4 (word true (n.k.slbBuf b).seq))
    if !ok then drop n
    else
      let (n, ok) := if s.payload.isEmpty then (n, true) else n.slbPut 0x11 (a + 0x10) s.payload
      if !ok then drop n
      else
        let (n, ok) := n.slbPut 0x11 (a + 8) (bytesLE 8 s.stamp.toNat)
        if !ok then drop n
        else
          let (n, ok) := n.slbPut 0x11 a (bytesLE 4 (word false seq))
          if !ok then drop n
          else
            let n := n.onBuf b fun y => { y with seq := seq }
            (n.setField pgSLB (0x0A0 + b / 32 * 4) (b % 32) 1 1).raiseIf ((n.k.bufCfg b 0).bit 23) evSLB_BUF

/-- The receive buffers of a slot that ends on media. -/
def Node.slbStore (n : Node) (ms : List Port) : Node :=
  let at' := fun m => if ms.contains m then n.k.slbMatch false (n.slb.med m).slot n.slb.cycle m else none
  match at' .a, at' .b with
  | some a, some b => if a = b then n.slbRxWrite a [.a, .b] else (n.slbRxWrite a [.a]).slbRxWrite b [.b]
  | some a, none => n.slbRxWrite a [.a]
  | none, some b => n.slbRxWrite b [.b]
  | none, none => n

/-- The frame a medium has sent in the slot is done: its item ends OK once every medium of the buffer has it, with the time of
the TSS on the last of them (log entry 61). -/
def Node.slbSent (n : Node) (m : Port) : Node :=
  let y := n.slb.med m
  match y.pend with
  | none => n
  | some b =>
    if y.tx.isEmpty then n
    else
      let n := n.onBuf b fun x => match m with
        | .a => { x with sentA := true }
        | .b => { x with sentB := true }
      let x := n.k.slbBuf b
      if x.ready && (x.sentA || !n.k.bufOn b .a) && (x.sentB || !n.k.bufOn b .b) then
        n.slbDone b stOK (some (n.slb.cycle, (n.slb.med m).time))
      else n

/-- A medium's slot counter moves on, with nothing seen or sent in the new slot. -/
def SlbMed.next (y : SlbMed) (slot mini : Nat) : SlbMed :=
  { y.clear with slot := slot, mini := mini }

/-- Bit times of a dynamic frame with the idle time after it (16 R438). -/
def Channel.dynBits (k : Channel) (plen : Nat) : Nat := k.tssLen + 94 + 10 * plen

/-- A dynamic slot starts on a medium: its buffer is taken, and sent at the action point where it fits (16 R438). -/
def Node.dynStart (n : Node) (m : Port) : Node :=
  let x := n.slb
  let y := x.med m
  if x.state ≠ .active || !x.dynamic || n.k.mSlots ≤ y.mini || 2047 ≤ y.slot then n
  else match n.k.slbMatch true y.slot x.cycle m with
  | none => n
  | some b =>
    if !n.k.bufDue b m then n
    else
      let plen := (n.k.bufCfg b 1).field 0 8
      let start := n.k.miniAt y.mini
      let action := n.k.mtAt (start + n.k.dapo)
      if n.k.mtAt (n.k.miniAt n.k.mSlots) ≤ action + (n.k.dynBits plen * n.k.slTb : Nat) then n.slbCount 28
      else
        let (n, r) := n.slbTake b plen
        match r with
        | none => n
        | some bs => (n.setPend m b bs).slbSend m (slbFrame m false false false y.slot x.cycle bs) true
            (n.k.now + tickNs (action - n.k.mtAt start))

/-- The end of a static slot (16 R452): the empty count, receive buffers, the item sent; then the next slot. -/
def Node.slbSlotEnd (n : Node) : Node :=
  let x := n.slb
  if !(n.k.live pgSLB && x.sched) || x.dynamic || x.medA.slot = 0 then n
  else
    let slot := x.medA.slot
    let got := fun (m : Port) =>
      n.k.slMed m && (((x.med m).seen.valid && !(x.med m).seen.null) || ((x.med m).data && (x.med m).back))
    let n := if !x.state.timed || got .a || got .b then n
      else (n.countSat pgSLB (0x800 + 4 * (slot / 2)) (16 * (slot % 2)) 16).slbCount 12
    let n := ((n.slbStore [.a, .b]).slbSent .a).slbSent .b
    let last := n.k.stSlots ≤ slot
    let n := n.onSlb fun x => { x.onBoth (fun y => y.next (slot + 1) 0) with dynamic := last }
    if last then (n.dynStart .a).dynStart .b else n.slotStart

/-- How many minislots a slot that began at minislot q takes with a frame whose FES ends at `fes`: up to the first that ends at
least 11 bit times later, or the end of the segment (16 R438, R461). -/
def Channel.miniSpan (k : Channel) (q : Nat) (fes : Int) : Nat :=
  match (List.range (k.mSlots - q)).find? fun j => fes + (11 * k.slTb : Nat) ≤ k.mtAt (k.miniAt (q + j + 1)) with
  | some j => j + 1
  | none => k.mSlots - q

/-- When the FES of the frame that a medium sends in its dynamic slot ends. -/
def Channel.ownFes (k : Channel) (y : SlbMed) : Int :=
  k.mtAt (k.miniAt y.mini + k.dapo) + ((k.dynBits (y.tx.length - 8) - 11) * k.slTb : Nat)

/-- The end of a minislot at which a medium's counter advances (16 R438). -/
def Node.slbMini (n : Node) (m : Port) : Node :=
  let x := n.slb
  let y := x.med m
  if !(n.k.live pgSLB && x.sched && x.dynamic) || n.k.mSlots ≤ y.mini then n
  else
    let n := (n.slbStore [m]).slbSent m
    let used := if !y.tx.isEmpty then n.k.miniSpan y.mini (n.k.ownFes y)
      else if y.seen.valid || y.seen.invalid then n.k.miniSpan y.mini y.seen.fes else 1
    let n := n.onSlb fun x => x.onMed m fun y => y.next (min 2047 (y.slot + 1)) (y.mini + used)
    n.dynStart m

/-! ## Cycles, sleep, startup (16 R443–R447, R453, R454) -/

/-- A cycle starts (16 R430, R446, R454). -/
def Node.slbCycle (n : Node) : Node :=
  let x := n.slb
  if !(n.k.live pgSLB && x.sched) then n
  else
    let n := if x.sleepReq then n.slbSleep else n
    let n := n.onSlb fun x =>
      let c := (x.cycle + 1) % 64
      { x.onBoth (fun y => y.next 1 0) with
        cycle := c, dynamic := false, first := x.first && c % 2 = 1, rate := if c % 2 = 0 then x.rateNext else x.rate }
    let n := if n.slb.state.timed then n.servo 4 n.k.now else n
    n.slotStart

/-- The node is configured: open items end DOWN, and it has no schedule (16 R431). -/
def Node.slbConfig (n : Node) (st : Byte) : Node :=
  let n := n.slbEndAll st
  let n := n.onSlb fun x =>
    { Slb.reset with bufs := x.bufs, offset := x.offset, cntEven := x.cntEven, cntOdd := x.cntOdd, state := x.state,
                     medA := { SlbMed.reset with live := x.medA.live }, medB := { SlbMed.reset with live := x.medB.live } }
  n.slbGo .config

/-- A cycle point (16 R453). -/
def Node.slbPoint (n : Node) (i : Nat) : Node :=
  let w := n.reg pgSLB (0x100 + 4 * i)
  let x := n.slb
  if n.k.live pgSLB && x.sched && w.bit 31 && cycleFilter x.cycle (w.field 16 6) (w.field 22 3) then
    (n.setField pgSLB 0x0B0 i 1 1).raise evSLB_CYCLE
  else n

/-- The LISTEN timer (16 R444). -/
def Node.slbTimer (n : Node) : Node :=
  if n.k.live pgSLB && n.slb.state = .listen && n.k.slCold then n.onSlb fun x => { x with cold := true } else n

/-- The coldstart wait ends: this instant is the action point of SYNCSLOT in cycle 0 (16 R444). -/
def Node.slbColdEnd (n : Node) (silent : Bool) : Node :=
  let x := n.slb
  if !(n.k.live pgSLB && x.state = .listen && x.cold) then n
  else if !(silent && n.fieldUp) then n.onSlb fun x => { x with cold := false }
  else
    let n := n.onSlb fun x =>
      { x.onBoth (fun y => y.next n.k.syncSlot 0) with
        cold := false, sched := true, freeRun := false, cycle := 0, dynamic := false, rate := 0, rateNext := 0, other := false }
    (n.slbGo .coldstart).slbAction

/-! ## Control (16 R446, R447, R457, R458) -/

def Node.slbState (n : Node) (snd : Sender) : Node := n.regFault snd pgSLB 0x064 cSTATE

def Node.slbRun (n : Node) (snd : Sender) : Node :=
  if !n.k.live pgSLB then n.slbState snd
  else match n.slb.state with
  | .config => if n.k.slbCfgOk then n.slbListen else n.regFault snd pgSLB 0x064 0x10
  | .sleep => n.slbListen
  | .listen | .integrate | .coldstart | .active | .passive => n.slbState snd

def Node.slbSleepCmd (n : Node) (snd : Sender) : Node :=
  if !n.k.live pgSLB then n.slbState snd
  else match n.slb.state with
  | .sleep => n.slbState snd
  | .config | .listen => n.slbSleep
  | .integrate | .coldstart | .active | .passive => n.onSlb fun x => { x with sleepReq := true }

/-- WAKEUP: a pattern on each medium that WUA and WUB select (16 R447). -/
def Node.slbWake (n : Node) (snd : Sender) : Node :=
  if n.k.live pgSLB && n.slb.state = .listen then
    n.onSlb fun x =>
      { x with medA := { x.medA with wake := (n.reg pgSLB 0x060).bit 8 }, medB := { x.medB with wake := (n.reg pgSLB 0x060).bit 9 } }
  else n.slbState snd

def Node.slbStopCmd (n : Node) : Node := if n.slb.state = .config then n else n.slbConfig stDOWN

/-- SLB_CTRL: the commands of one write take effect in the order STOP, SLEEP, RUN, WAKEUP. -/
def Node.slbCtrl (n : Node) (snd : Sender) (v : Word) : Node :=
  let n := if v.bit 3 then n.slbStopCmd else n
  let n := if v.bit 1 then n.slbSleepCmd snd else n
  let n := if v.bit 0 then n.slbRun snd else n
  if v.bit 2 then n.slbWake snd else n

/-- A wake-up pattern on a medium (16 R446), which an RXD without supply never brings. -/
def Node.slbWoken (n : Node) (m : Port) : Node :=
  if n.fieldUp && n.k.live pgSLB && n.slb.state = .sleep && (n.reg pgSLB 0x040).bit 20 then
    ((n.setField pgSLB 0x06C m.num 1 1).slbCount 27).raise evSLB_SYNC
  else n

/-! ## Registers (16 R465, R466) -/

/-- A configuration register. -/
def slbFixed (off : Nat) : Bool := (0x040 ≤ off && off ≤ 0x060) || off == 0x0B4

/-- A register of the SLB page written. -/
def Node.slbWrite (n : Node) (snd : Sender) (off : Nat) (v : Word) : Node :=
  if slbFixed off then
    (if n.slb.state = .config then n.writeFields snd pgSLB off v else n.regFault snd pgSLB off cSTATE)
  else if off = 0x064 then n.slbCtrl snd v
  else if inWords off 0x080 4 then v.bits.foldl (fun n b => n.slbReady (32 * ((off - 0x080) / 4) + b)) n
  else if inWords off 0x090 4 then v.bits.foldl (fun n b => n.slbEnd (32 * ((off - 0x090) / 4) + b) stABORTED) n
  else if inWords off 0x400 256 then
    (if (n.k.slbBuf ((off - 0x400) / 8)).ready then n.regFault snd pgSLB off cSTATE else n.writeFields snd pgSLB off v)
  else n.writeFields snd pgSLB off v

def slbStNum : SlbSt → Nat
  | .config => 0 | .listen => 1 | .integrate => 2 | .coldstart => 3 | .active => 4 | .passive => 5 | .sleep => 6

/-- A register of the SLB page read; a read of SLB_EMPTY clears it (16 R465). -/
def Node.slbRead (n : Node) (off : Nat) : Node × Word :=
  let x := n.slb
  match off with
  | 0x068 =>
    (n, BitVec.ofNat 32 (slbStNum x.state + 16 * x.cycle + 1024 * x.medA.slot + 2 ^ 24 * x.alone.toNat +
      2 ^ 25 * x.medA.live.toNat + 2 ^ 26 * x.medB.live.toNat + 2 ^ 28 * (x.pairs % 16)))
  | 0x074 => (n, BitVec.ofNat 32 (toBits 24 x.offset))
  | 0x078 => (n, BitVec.ofNat 32 (x.cntEven + 16 * x.cntOdd))
  | 0x07C => (n, BitVec.ofNat 32 (toBits 24 x.rate))
  | _ =>
    if inWords off 0x080 4 then
      (n, BitVec.ofNat 32 ((List.range 32).foldl (fun a b =>
        if (n.k.slbBuf (32 * ((off - 0x080) / 4) + b)).ready then a + 2 ^ b else a) 0))
    else if inWords off 0x800 512 then (n.setReg pgSLB off 0, n.k.view pgSLB off)
    else (n, n.k.view pgSLB off)

/-! ## The commands -/

/-- A write of SLB_CTRL with RUN 1. -/
def execRun (snd : Sender) (c : Ch) (v : Word) (s : State) : Out :=
  .next (s.regCmd snd c pgSLB 0x064 fun n => n.slbWrite snd 0x064 (v.setBit 0 true))

/-- A write of SLB_CTRL with SLEEP 1. -/
def execSleep (snd : Sender) (c : Ch) (v : Word) (s : State) : Out :=
  .next (s.regCmd snd c pgSLB 0x064 fun n => n.slbWrite snd 0x064 (v.setBit 1 true))

/-- A write of SLB_CTRL with WAKEUP 1. -/
def execWakeup (snd : Sender) (c : Ch) (v : Word) (s : State) : Out :=
  .next (s.regCmd snd c pgSLB 0x064 fun n => n.slbWrite snd 0x064 (v.setBit 2 true))

/-- A write of SLB_CTRL with STOP 1. -/
def execStop (snd : Sender) (c : Ch) (v : Word) (s : State) : Out :=
  .next (s.regCmd snd c pgSLB 0x064 fun n => n.slbWrite snd 0x064 (v.setBit 3 true))

/-- The wake-up pattern on a medium has been sent, or has met a low level in a high phase; the other medium's goes on. -/
def execWakeupPatternEnd (w : SlbPlace) (s : State) : Out :=
  .next (s.within w.chan fun n => if n.k.running then n.onSlb fun x => x.onMed w.medium fun y => { y with wake := false } else n)

/-- A wake-up pattern is received. -/
def execWakeupPatternDetect (c : Ch) (m : Port) (s : State) : Out :=
  .next (s.within c fun n => n.slbWoken m)

/-- A frame is received on a medium. -/
def execSlbFrameRx (c : Ch) (m : Port) (f : SlbRx) (s : State) : Out :=
  .next (s.within c fun n => n.slbRx m f)

/-- The action point of a static slot. -/
def execSlbActionPoint (c : Ch) (s : State) : Out :=
  .next (s.within c fun n => if n.k.live pgSLB then n.slbAction else n)

/-- A minislot ends, and a medium's counter advances. -/
def execSlbMinislotEnd (c : Ch) (m : Port) (s : State) : Out :=
  .next (s.within c fun n => n.slbMini m)

/-- A static slot ends. -/
def execSlbStaticSlotEnd (c : Ch) (s : State) : Out :=
  .next (s.within c fun n => n.slbSlotEnd)

/-- The end of the static segment of an odd cycle. -/
def execSlbOffsetRateCorrection (c : Ch) (s : State) : Out :=
  .next (s.within c fun n => if n.k.live pgSLB then n.slbCorrect else n)

/-- A cycle pair ends. -/
def execSlbCyclePairEnd (c : Ch) (s : State) : Out :=
  .next (s.within c fun n => if n.k.live pgSLB then n.slbPairEnd else n)

/-- A cycle starts. -/
def execSlbCycleStart (c : Ch) (s : State) : Out :=
  .next (s.within c fun n => n.slbCycle)

/-- The LISTEN timer expires. -/
def execSlbListenTimerExpiry (c : Ch) (s : State) : Out :=
  .next (s.within c fun n => n.slbTimer)

/-- The coldstart wait ends, in silence or with activity. -/
def execSlbColdstartWaitEnd (c : Ch) (silent : Bool) (s : State) : Out :=
  .next (s.within c fun n => n.slbColdEnd silent)

/-- A cycle point fires. -/
def execCyclePoint (c : Ch) (i : Fin 8) (s : State) : Out :=
  .next (s.within c fun n => n.slbPoint i)

/-- A write of SLB_TXREADYi. -/
def execSlbTxready (snd : Sender) (c : Ch) (i : Fin 4) (v : Word) (s : State) : Out :=
  .next (s.regCmd snd c pgSLB (0x080 + 4 * i) fun n => n.slbWrite snd (0x080 + 4 * i) v)

/-- A write of SLB_TXABORTi. -/
def execSlbTxabort (snd : Sender) (c : Ch) (i : Fin 4) (v : Word) (s : State) : Out :=
  .next (s.regCmd snd c pgSLB (0x090 + 4 * i) fun n => n.slbWrite snd (0x090 + 4 * i) v)

/-- A deadline fires (16 R450). -/
def execSlbDeadline (c : Ch) (b : Fin 128) (s : State) : Out :=
  .next (s.within c fun n => if n.k.live pgSLB && n.k.due (n.k.slbBuf b).fire then n.slbEnd b stTIMEOUT else n)

/-- A read of SLB_EMPTYj. -/
def execSlbEmptyRead (snd : Sender) (c : Ch) (j : Fin 512) (s : State) : Out :=
  .next (s.regRead snd c pgSLB (0x800 + 4 * j) fun n => n.slbRead (0x800 + 4 * j))

end Sys2Proof.Machine
end

