-- ==== Sys2Proof/Machine/Tpb.lean ====
section
/-!
DEFINITION. The token and poll bus MACs (15). A command carries the samples of RXD up to the end of a frame; idle times, the
slot timer and the back-off are the commands that end them (log entry 11). What is sent stands in `wire`.
-/

namespace Sys2Proof.Machine

def Node.tpb (n : Node) (u : Unit2) : Tpb := n.k.tpb u

def Node.onTpb (n : Node) (u : Unit2) (g : Tpb → Tpb) : Node := n.onK fun k => k.setTpb u (g (k.tpb u))

def Node.tpbCount (n : Node) (u : Unit2) (i : Nat) : Node := n.count (pgTpb u) (0x200 + 4 * i)

/-- A half-word of counter 15: RXDROP low, BREAK high (15 R427). -/
def Node.tpbHalf (n : Node) (u : Unit2) (lo : Nat) : Node :=
  n.setField (pgTpb u) 0x23C lo 16 ((n.reg (pgTpb u) 0x23C).field lo 16 + 1)

/-! ## Configuration (15 R401, R402, R408, R420) -/

def Channel.tpbCfg (k : Channel) (u : Unit2) : Word := k.reg (pgTpb u) 0x040
def Channel.tpbMode (k : Channel) (u : Unit2) : Nat := (k.tpbCfg u).field 0 2
def Channel.tpbAddr (k : Channel) (u : Unit2) : Nat := (k.tpbCfg u).field 6 7
def Channel.tpbMaxRetry (k : Channel) (u : Unit2) : Nat := (k.tpbCfg u).field 13 3

/-- Nanoseconds as bit times of the port's rate: a bit lasts 16 × (INT + FRAC/16) cycles of 192 MHz (15 R402). -/
def Channel.bitTimes (k : Channel) (u : Unit2) (ns : Nat) : Nat :=
  let b := k.reg (pgTpb u) 0x044
  ns * 192 / (1000 * max 1 (16 * b.field 0 12 + b.field 12 4))

/-- The check characters of a frame (15 R408). -/
def tpbCheck (kind : Nat) (bs : List Byte) : List Byte :=
  match kind with
  | 0 => [bs.foldl (· + ·) 0]
  | 1 => bytesLE 2 (crc16a 0 bs)
  | _ => bytesBE 2 (dieFold 2 0 bs)

def tpbCheckLen (kind : Nat) : Nat := if kind = 0 then 1 else 2

def Channel.tpbKind (k : Channel) (u : Unit2) : Nat := (k.tpbCfg u).field 4 2

/-- A frame with its delimiter and check (15 R407). -/
def Channel.tpbFrame (k : Channel) (u : Unit2) (delim : Byte) (body : List Byte) : List Byte :=
  delim :: body ++ tpbCheck (k.tpbKind u) body

def Channel.dataFrame (k : Channel) (u : Unit2) (da fc : Nat) (data : List Byte) : List Byte :=
  k.tpbFrame u 0x9C ([BitVec.ofNat 8 da, BitVec.ofNat 8 (k.tpbAddr u), BitVec.ofNat 8 fc, BitVec.ofNat 8 data.length] ++ data)

def Channel.tokenFrame (k : Channel) (u : Unit2) (da : Nat) : List Byte :=
  k.tpbFrame u 0xE1 [BitVec.ofNat 8 da, BitVec.ofNat 8 (k.tpbAddr u)]

/-! ## The receiver (15 R403, R404, R409) -/

/-- A character as decided: its byte, a parity error, a framing error, the samples between it and the one before. -/
structure TpbChar where
  byte : Byte
  par  : Bool
  frm  : Bool
  gap  : Nat
deriving DecidableEq, Repr

/-- Which bit of a character is its (first) stop bit, the start bit being bit 0 (15 R402). -/
def stopBit (fmt : Nat) : Nat := if fmt = 0 then 10 else 9

/-- The character of the bits between start and stop bit, lowest first; FMT 0 has even parity behind them (15 R402, R403). -/
def charOf (bits : List Bool) (stop : Bool) (gap : Nat) (fmt : Nat) : TpbChar :=
  { byte := BitVec.ofNat 8 ((bits.take 8).foldr (fun b a => b.toNat + 2 * a) 0),
    par := fmt = 0 && (bits.map Bool.toNat).sum % 2 = 1, frm := !stop, gap := gap }

/-- A bit of the character is decided: a start bit that reads 1 is a false start, the stop bit ends the character. -/
def TpbSamp.bitDone (s : TpbSamp) (fmt n : Nat) (bit : Bool) : TpbSamp × Option TpbChar :=
  if n = 0 then (if bit then { s with pos := 0, armed := 0 } else s, none)
  else if n = stopBit fmt then
    ({ s with pos := 0, armed := if bit then 7 else 0, gap := 0 },
     if s.skip then none else some (charOf s.bits bit s.gap fmt))
  else ({ s with bits := s.bits ++ [bit] }, none)

/-- One sample inside a character: samples 7, 8 and 9 of each bit decide it by majority, at sample 9 (15 R403, R404). -/
def TpbSamp.inChar (s : TpbSamp) (fmt : Nat) (b : Bool) : TpbSamp × Option TpbChar :=
  let m := s.pos % 16 + 1
  let n := s.pos / 16
  let v := (if m = 7 then 0 else s.votes) + (decide (7 ≤ m && m ≤ 9) && b).toNat
  let s := { s with pos := s.pos + 1, votes := v }
  if m = 9 then s.bitDone fmt n (2 ≤ v) else (s, none)

/-- One sample while hunting: a 0 after a 1, or in what is left of a valid stop bit, is sample 1 of a start bit. -/
def TpbSamp.hunt (s : TpbSamp) (was b : Bool) : TpbSamp :=
  if !b && (was || 0 < s.armed) then { s with pos := 1, armed := 0, votes := 0, bits := [], skip := s.deaf }
  else { s with armed := s.armed - 1, gap := s.gap + 1 }

/-- One sample of RXD. A receiver made deaf by an invalid frame hears again after `idle` samples of 1 in a row. -/
def TpbSamp.step (s : TpbSamp) (fmt idle : Nat) (b : Bool) : TpbSamp × Option TpbChar :=
  let was := s.prev
  let s := { s with prev := b, deaf := s.deaf && s.ones < idle, ones := if b then s.ones + 1 else 0 }
  if s.pos = 0 then (s.hunt was b, none) else s.inChar fmt b

/-- A run of samples: the characters they complete. -/
def TpbSamp.run (fmt idle : Nat) : TpbSamp → List Bool → TpbSamp × List TpbChar
  | s, [] => (s, [])
  | s, b :: bs =>
    let (s, c) := s.step fmt idle b
    let (s, cs) := TpbSamp.run fmt idle s bs
    (s, c.toList ++ cs)

/-- TIMING.IDLE in samples (15 R409). -/
def Channel.tpbIdleSamples (k : Channel) (u : Unit2) : Nat := 16 * (k.reg (pgTpb u) 0x048).field 12 6

/-- Samples go through the receiver; any that reads 1 ends a break (15 R425). -/
def Node.tpbFeed (n : Node) (u : Unit2) (bs : List Bool) : Node × List TpbChar :=
  let r := TpbSamp.run ((n.k.tpbCfg u).field 2 2) (n.k.tpbIdleSamples u) (n.tpb u).samp (n.rxd bs)
  (n.onTpb u fun x => { x with samp := r.1, inBreak := x.inBreak && !(n.rxd bs).any id }, r.2)

/-- A frame's characters, and what went wrong with them: parity, stop bits, more than 2 idle bit times between two of them
behind the 7 samples that end a stop bit (15 R409). -/
structure TpbFrame where
  chars : List Byte
  parityErr : Bool
  framingErr : Bool
  gapErr : Bool
deriving DecidableEq, Repr

def frameOf (cs : List TpbChar) : TpbFrame :=
  ⟨cs.map TpbChar.byte, cs.any TpbChar.par, cs.any TpbChar.frm, (cs.drop 1).any fun c => 7 + 32 < c.gap⟩

/-- The bus can be idle: no break, and RXD has its supply (15 R409, R425). -/
def Node.tpbIdle (n : Node) (u : Unit2) : Bool := n.fieldUp && !(n.tpb u).inBreak

/-! ## Rings (15 R410, R423) -/

def tpbReg0 (r : Nat) : Nat := 0x080 + 0x10 * r

def Channel.tpbEn (k : Channel) (u : Unit2) (r : Nat) : Bool := (k.reg (pgTpb u) (tpbReg0 r + 4)).bit 0
def Channel.tpbSize (k : Channel) (u : Unit2) (r : Nat) : Nat := 2 ^ (k.reg (pgTpb u) (tpbReg0 r + 4)).field 4 4
def Channel.tpbBase (k : Channel) (u : Unit2) (r : Nat) : Nat := (k.reg (pgTpb u) (tpbReg0 r)).toNat
def Channel.tpbProd (k : Channel) (u : Unit2) (r : Nat) : Nat := (k.reg (pgTpb u) (tpbReg0 r + 8)).field 0 10
def Channel.tpbCons (k : Channel) (u : Unit2) (r : Nat) : Nat := (k.reg (pgTpb u) (tpbReg0 r + 12)).field 0 10
def Channel.tpbStopped (k : Channel) (u : Unit2) (r : Nat) : Bool := (k.reg (pgTpb u) (tpbReg0 r + 12)).bit 16

def Tpb.item (x : Tpb) (r : Nat) : Option TpbItem := if r = 0 then x.ring0 else x.ring1

def Tpb.setItem (x : Tpb) (r : Nat) (it : Option TpbItem) : Tpb :=
  if r = 0 then { x with ring0 := it } else { x with ring1 := it }

def Tpb.posted (x : Tpb) (r : Nat) : List (Nat × Nat) := if r = 0 then x.posted0 else x.posted1

def Tpb.setPosted (x : Tpb) (r : Nat) (l : List (Nat × Nat)) : Tpb :=
  if r = 0 then { x with posted0 := l } else { x with posted1 := l }

def Node.setTpbItem (n : Node) (u : Unit2) (r : Nat) (it : Option TpbItem) : Node := n.onTpb u fun x => x.setItem r it

def Node.tpbStop (n : Node) (u : Unit2) (r : Nat) : Node := n.setField (pgTpb u) (tpbReg0 r + 12) 16 1 1

/-- How an item's report ends beside its status. -/
structure TpbRes where
  rspLen  : Nat
  trunc   : Bool
  ackOnly : Bool

/-- The report: TS and CPL, CONS, the event (15 R412); a failed write stops the ring (R423). -/
def Node.tpbReport (n : Node) (u : Unit2) (r : Nat) (it : TpbItem) (st : Byte) (x : TpbRes) : Node :=
  let a := n.k.tpbBase u r + 32 * it.idx + 0x14
  let cpl := st.toNat + 256 * it.retries + 65536 * x.rspLen + 2 ^ 24 * x.trunc.toNat + 2 ^ 25 * x.ackOnly.toNat + 2 ^ 31
  let (n, res) := n.put (mTpb u) a (bytesLE 4 cpl ++ bytesLE 8 it.ts.toNat)
  let n := match res with
    | .ok _ => n
    | .denied | .ecc => (n.fault (pgTpb u) 0x11 0 (BitVec.ofNat 32 a)).tpbStop u r
  let n := n.setTpbItem u r none
  let n := n.setField (pgTpb u) (tpbReg0 r + 12) 0 10 ((it.idx + 1) % n.k.tpbSize u r)
  n.raiseIf it.irq (evTpb u)

/-- The descriptor's fields (15 R410) and whether it is in order (R423). -/
def Channel.tpbParse (k : Channel) (u : Unit2) (idx posted : Nat) (d : List Byte) : TpbItem × Bool :=
  let w0 := wordAt d 0
  let w3 := wordAt d 0x0C
  let raw := k.tpbMode u = 0
  let dl := w3.field 16 8
  let addr := (wordAt d 4).toNat
  let rsp := (wordAt d 8).toNat
  let len := w0.field 16 8
  let rspMax := w3.field 0 8
  ({ idx := idx, da := w0.field 0 7, fc := w0.field 8 8, len := len, addr := addr, rsp := rsp, rspMax := rspMax,
     tick := w3.bit 8, irq := w3.bit 9, fire := if dl = 0 then none else some (posted + 1 + dl), fired := false,
     started := false, again := false, retries := 0, ts := 0 },
   w0.field 7 1 = 0 && w0.field 24 8 = 0 && w3.field 10 6 = 0 && w3.field 24 8 = 0 && (raw || w0.field 0 7 ≠ 126) &&
   len ≤ 246 && rspMax ≤ 246 && (len = 0 || inSram addr len) && (rsp = 0 || inSram rsp rspMax))

/-- A ring may fetch. -/
def Channel.tpbReady (k : Channel) (u : Unit2) (r : Nat) : Bool :=
  k.live (pgTpb u) && k.tpbEn u r && !k.tpbStopped u r && ((k.tpb u).item r).isNone && k.tpbCons u r ≠ k.tpbProd u r

/-- The next descriptor of a ring is fetched (15 R410, R423). -/
def Node.tpbFetch (n : Node) (u : Unit2) (r : Nat) : Node :=
  if !n.k.tpbReady u r then n
  else
    let idx := n.k.tpbCons u r
    let posted := match (n.tpb u).posted r with
      | (_, w) :: _ => w
      | [] => n.k.wh.count.toNat
    let n := n.onTpb u fun x => x.setPosted r ((x.posted r).drop 1)
    let blank := (n.k.tpbParse u idx posted []).1
    let bad := fun (n : Node) (it : TpbItem) (st : Byte) => (n.tpbReport u r it st ⟨0, false, false⟩).tpbStop u r
    let (n, res) := n.getBy (mTpb u) (n.k.tpbBase u r + 32 * idx) 32
    match res with
    | .denied => bad n blank stBAD_DESC
    | .ecc => bad n blank stECC_FAIL
    | .ok d =>
      let (it, ok) := n.k.tpbParse u idx posted d
      if ok then n.setTpbItem u r (some it) else bad n it stBAD_DESC

/-- An item ends, and the ring's next descriptor is fetched. -/
def Node.tpbDone (n : Node) (u : Unit2) (r : Nat) (it : TpbItem) (st : Byte) (x : TpbRes := ⟨0, false, false⟩) : Node :=
  (n.tpbReport u r it st x).tpbFetch u r

/-- A PROD value that would pass CONS is rejected; the entries take the count of the whistle (15 R410, R413). -/
def Node.tpbProdWrite (n : Node) (u : Unit2) (snd : Sender) (r : Nat) (v : Word) : Node :=
  let size := n.k.tpbSize u r
  let x := v.field 0 10
  let ahead := fun y => (y + size - n.k.tpbCons u r) % size
  if x < size && ahead (n.k.tpbProd u r) ≤ ahead x then
    let old := n.k.tpbProd u r
    let new := (List.range (ahead x - ahead old)).map fun i => ((old + i) % size, n.k.wh.count.toNat)
    let n := n.onTpb u fun t => t.setPosted r (t.posted r ++ new)
    (n.setReg (pgTpb u) (tpbReg0 r + 8) (BitVec.ofNat 32 x)).tpbFetch u r
  else n.regFault snd (pgTpb u) (tpbReg0 r + 8) cRSVD

/-! ## Receive queue (15 R415) -/

def Channel.tpbRqSize (k : Channel) (u : Unit2) : Nat := 2 ^ (k.reg (pgTpb u) 0x0A4).field 4 4
def Channel.tpbRqEntry (k : Channel) (u : Unit2) : Nat := 2 ^ (k.reg (pgTpb u) 0x0A4).field 8 4
def Channel.tpbRqPut (k : Channel) (u : Unit2) : Nat := (k.reg (pgTpb u) 0x0A8).field 0 10
def Channel.tpbRqAck (k : Channel) (u : Unit2) : Nat := (k.reg (pgTpb u) 0x0AC).field 0 10

/-- A write of received data that failed (15 R424). -/
def Node.tpbRxDrop (n : Node) (u : Unit2) (a : Nat) : Node :=
  (n.tpbHalf u 0).fault (pgTpb u) 0x10 0 (BitVec.ofNat 32 a)

/-- An entry of the receive queue: its header words 0 and 1 without LEN and TRUNC, and its data. -/
def Node.tpbQueue (n : Node) (u : Unit2) (w0 flags : Nat) (data : List Byte) (stamp : DWord) : Node :=
  if !(n.reg (pgTpb u) 0x0A4).bit 0 then n
  else
    let put := n.k.tpbRqPut u
    let size := n.k.tpbRqSize u
    if (put + 1) % size = n.k.tpbRqAck u then n.tpbCount u 5
    else
      let room := n.k.tpbRqEntry u - 16
      let a := (n.reg (pgTpb u) 0x0A0).toNat + put * n.k.tpbRqEntry u
      let w1 := data.length + 65536 * (if room < data.length then 1 else 0) + flags
      let (n, r) := n.put (mTpb u) a (bytesLE 4 w0 ++ bytesLE 4 w1 ++ bytesLE 8 stamp.toNat ++ data.take room)
      match r with
      | .denied | .ecc => n.tpbRxDrop u a
      | .ok _ => (n.setField (pgTpb u) 0x0A8 0 10 ((put + 1) % size)).raise (evTpb u)

/-- RQACK: a value that passes RQPUT is rejected. -/
def Node.tpbAck (n : Node) (u : Unit2) (snd : Sender) (v : Word) : Node :=
  let size := n.k.tpbRqSize u
  let x := v.field 0 10
  let ahead := fun y => (y + size - n.k.tpbRqAck u % size) % size
  if x < size && ahead x ≤ ahead (n.k.tpbRqPut u) then n.setField (pgTpb u) 0x0AC 0 10 x
  else n.regFault snd (pgTpb u) 0x0AC cRSVD

/-! ## The token (15 R417–R419, R422) -/

/-- A visit begins. -/
def Node.tokVisit (n : Node) (u : Unit2) : Node :=
  n.onTpb u fun x => { x with hold := true, fresh := true, served := false, probed := false, phase := .quiet, redo := false,
                              joined := true, visits := x.visits + 1, holdAt := n.k.nowNs }

/-- The station receives the token. -/
def Node.tokenRx (n : Node) (u : Unit2) : Node :=
  let n := n.onTpb u fun x =>
    { x with trr := n.k.bitTimes u (n.k.nowNs - x.receipt) % 2 ^ 24, receipt := n.k.nowNs }
  ((n.tpbCount u 11).raiseIf ((n.k.tpbCfg u).bit 16) (evTpb u)).tokVisit u

/-- Another station is live (15 R418). -/
def Channel.tpbLive (k : Channel) (u : Unit2) (a : Nat) : Bool :=
  (k.reg (pgTpb u) (0x054 + 4 * (a / 32))).bit (a % 32)

def Node.setLive (n : Node) (u : Unit2) (a : Nat) (b : Bool) : Node :=
  n.setField (pgTpb u) (0x054 + 4 * (a / 32)) (a % 32) 1 b.toNat

/-- The addresses above one's own, in turn, wrapping at 125. -/
def ringFrom (addr : Nat) : List Nat := (List.range 125).map fun i => (addr + 1 + i) % 126

/-- NS: the next live address, one's own where no other is live. -/
def Channel.tpbNs (k : Channel) (u : Unit2) : Nat :=
  ((ringFrom (k.tpbAddr u)).find? fun a => k.tpbLive u a && a ≠ k.tpbAddr u).getD (k.tpbAddr u)

/-- The addresses between one's own and NS. -/
def Channel.tpbGap (k : Channel) (u : Unit2) : List Nat :=
  (ringFrom (k.tpbAddr u)).takeWhile fun a => a ≠ k.tpbNs u && a ≠ k.tpbAddr u

/-- The next gap address to probe. -/
def Channel.gapNext (k : Channel) (u : Unit2) : Option Nat :=
  let g := k.tpbGap u
  match (g.dropWhile fun a => a ≠ (k.tpb u).gapLast).drop 1 with
  | a :: _ => some a
  | [] => g.head?

/-- The token is sent to an address. -/
def Node.sendToken (n : Node) (u : Unit2) (tgt tries : Nat) (probe : Bool) : Node :=
  n.onTpb u fun x => { x with phase := .passing tgt tries probe, fresh := false, out := .frame, wire := n.k.tokenFrame u tgt }

/-- The token goes to the successor; alone, the station keeps it and begins a new visit. -/
def Node.passToken (n : Node) (u : Unit2) : Node :=
  let ns := n.k.tpbNs u
  if ns = n.k.tpbAddr u then n.tokVisit u else n.sendToken u ns 0 false

/-- TRR and the holding time so far are less than TTR. -/
def Channel.tokenTime (k : Channel) (u : Unit2) : Bool :=
  let x := k.tpb u
  x.trr + k.bitTimes u (k.nowNs - x.holdAt) < (k.reg (pgTpb u) 0x04C).field 0 24

/-- The ring whose item may start now in MODE 1 (15 R417). -/
def Channel.ringTurn (k : Channel) (u : Unit2) : Option Nat :=
  let x := k.tpb u
  if !x.hold then none
  else if x.ring0.isSome && (!x.served || k.tokenTime u) then some 0
  else if x.ring1.isSome && k.tokenTime u then some 1
  else none

/-- The ring whose item's retry goes next: in MODE 1 only within the visit of the attempt that failed (15 R411, R417). -/
def Tpb.retryRing (x : Tpb) : Option Nat :=
  if x.redo && ((x.item x.cur).map TpbItem.again).getD false then some x.cur else none

/-- The ring whose item may start now: a retry first; in MODE 1 by the token; else either, and where both rings have one
the specification leaves the order open (log entry 4). -/
def Node.turn (n : Node) (u : Unit2) : Node × Option Nat :=
  let x := n.tpb u
  let mode := n.k.tpbMode u
  if mode = 3 || (mode = 1 && !x.hold) then (n, none)
  else match x.retryRing with
  | some r => (n, some r)
  | none =>
    if mode = 1 then (n, n.k.ringTurn u)
    else match x.ring0, x.ring1 with
    | some _, some _ =>
      let (f, n) := n.free
      (n, some (f.toNat % 2))
    | some _, none => (n, some 0)
    | none, some _ => (n, some 1)
    | none, none => (n, none)

/-! ## Attempts (15 R411–R413) -/

/-- Whether an attempt must wait for an idle bus, and has none: a retry, and the first frame of a visit (15 R411, R417,
R425). -/
def Node.tpbBusy (n : Node) (u : Unit2) : Bool :=
  ((n.tpb u).retryRing.isSome || (n.tpb u).fresh) && !n.tpbIdle u

/-- An attempt starts: the frame's bytes are read, and it goes out. -/
def Node.tpbStart (n : Node) (u : Unit2) : Node :=
  if !(n.k.live (pgTpb u) && (n.tpb u).phase = .quiet && (n.tpb u).answer.isNone && (n.tpb u).out = .quiet) || n.tpbBusy u then
    n
  else
    let (n, t) := n.turn u
    match t with
    | none => n
    | some r => match (n.tpb u).item r with
      | none => n
      | some it =>
        let (n, res) := if it.len = 0 then (n, MemRes.ok []) else n.getBy (mTpb u) it.addr it.len
        match res with
        | .denied => n.tpbDone u r it stABORTED
        | .ecc => n.tpbDone u r it stECC_FAIL
        | .ok data =>
          let frame := if n.k.tpbMode u = 0 then data else n.k.dataFrame u it.da it.fc data
          let n := if it.again then n.tpbCount u 7 else n
          let it := { it with started := true, again := false, ts := n.k.now,
                              retries := if it.again then it.retries + 1 else it.retries }
          (n.setTpbItem u r (some it)).onTpb u fun x =>
            { x with phase := .sending, cur := r, fresh := false, served := x.served || r = 0, redo := false, out := .frame,
                     wire := frame }

/-- An attempt fails: a retry waits, or the item ends (15 R411, R412). -/
def Node.tpbFail (n : Node) (u : Unit2) (r : Nat) (it : TpbItem) (st : Byte) : Node :=
  if it.fired then n.tpbDone u r it stTIMEOUT
  else if it.retries < n.k.tpbMaxRetry u then (n.setTpbItem u r (some { it with again := true })).onTpb u fun x => { x with redo := true }
  else n.tpbDone u r it st

/-- The item of the exchange. -/
def Tpb.curItem (x : Tpb) : Option TpbItem := x.item x.cur

/-- A collision at character i of what is sent, which goes out and is the last (15 R422). -/
def Node.collide (n : Node) (u : Unit2) (i : Nat) : Node :=
  (n.tpbCount u 10).onTpb u fun x =>
    { x with phase := if n.k.tpbMode u = 1 then .backoff else .quiet, out := .quiet, wire := x.wire.take (i + 1) }

/-- The first character whose read-back differs or has an error, where ECHO asks for it (15 R400, R422); an RXD without supply
reads back nothing. -/
def Node.echoMiss (n : Node) (u : Unit2) (echo : Option Nat) : Option Nat :=
  if !(n.k.tpbCfg u).bit 17 then none else if n.fieldUp then echo else some 0

/-- The last stop bit of what was sent, or of the character that collided. -/
def Node.tpbSent (n : Node) (u : Unit2) (echo : Option Nat) : Node :=
  let x := n.tpb u
  match x.out, n.echoMiss u echo with
  | .quiet, _ => n
  | .answer, some i => n.collide u i
  | .answer, none => n.onTpb u fun x => { x with out := .quiet }
  | .frame, miss =>
    match x.phase with
    | .sending =>
      (match x.curItem, miss with
       | none, _ => n.onTpb u fun x => { x with phase := .quiet, out := .quiet }
       | some it, some i => (n.collide u i).tpbFail u x.cur it stABORTED
       | some it, none =>
         let n := n.onTpb u fun x => { x with out := .quiet }
         if n.k.tpbMode u = 0 || it.fc % 2 = 0 || it.da = 127 then
           let n := n.onTpb u fun x => { x with phase := .quiet }
           if it.fired then n.tpbDone u x.cur it stTIMEOUT else (n.tpbCount u 6).tpbDone u x.cur it stOK
         else n.onTpb u fun x => { x with phase := .slotWait })
    | .passing _ _ _ =>
      (match miss with
       | some i => n.collide u i
       | none => n.onTpb u fun x => { x with out := .quiet })
    | .quiet | .slotWait | .backoff => n.onTpb u fun x => { x with out := .quiet }

/-- The slot timer expires: an answer or a successor stayed silent (15 R411, R418). -/
def Node.slotExpiry (n : Node) (u : Unit2) : Node :=
  let x := n.tpb u
  if x.out ≠ .quiet then n
  else match x.phase with
  | .slotWait =>
    let n := (n.tpbCount u 8).onTpb u fun x => { x with phase := .quiet }
    (match x.curItem with
     | some it => n.tpbFail u x.cur it stNAK
     | none => n)
  | .passing tgt tries probe =>
    if probe then n.passToken u
    else if tries = 0 then n.sendToken u tgt 1 false
    else ((((n.setLive u tgt false).tpbCount u 13).raise (evTpbErr u)).onTpb u fun x => { x with phase := .quiet }).passToken u
  | .quiet | .sending | .backoff => n

/-- A deadline fires (15 R413). -/
def Node.tpbDeadline (n : Node) (u : Unit2) (r : Nat) : Node :=
  let x := n.tpb u
  match x.item r with
  | none => n
  | some it =>
    if it.fired || !n.k.due it.fire then n
    else if x.cur = r && (x.phase = .sending || x.phase = .slotWait) then n.setTpbItem u r (some { it with fired := true })
    else n.tpbDone u r it stTIMEOUT

/-- The abandon policy (15 R412): a tick-bound item with no attempt started; a deadline that fires at this whistle comes first
(R421). -/
def Node.tpbAbandon (n : Node) (u : Unit2) : Node :=
  [0, 1].foldl (fun n r => match (n.tpb u).item r with
    | some it =>
      if it.tick && !it.started then n.tpbDone u r it (if n.k.due it.fire then stTIMEOUT else stLATE) else n
    | none => n) n

/-! ## Received frames (15 R409, R411, R414, R415) -/

/-- What is wrong with a frame, in the order of 15 R409, as its counter; none for a valid one. -/
def Channel.tpbBad (k : Channel) (u : Unit2) (f : TpbFrame) : Option Nat :=
  let cs := f.chars
  let d := byteAt cs 0
  let c := tpbCheckLen (k.tpbKind u)
  let len := (byteAt cs 4).toNat
  let form :=
    if d = 0x3E then cs.length = 1
    else
      let body := if d = 0xE1 then 3 else 5 + len
      (d = 0xE1 || d = 0x9C) && !(byteAt cs 1).getLsbD 7 && !(byteAt cs 2).getLsbD 7 && (d = 0xE1 || len ≤ 246) &&
      cs.length = body + c
  if !form then some 4
  else if f.parityErr then some 1
  else if f.framingErr then some 2
  else if f.gapErr then some 4
  else if d = 0x3E then none
  else
    let body := (cs.drop 1).take (cs.length - 1 - c)
    if cs.drop (cs.length - c) = tpbCheck (k.tpbKind u) body then none else some 3

/-- A frame begins while the token has been passed on, while the station waits to send its first frame of a visit, or in
a back-off (15 R418, R422). -/
def Node.tpbActivity (n : Node) (u : Unit2) : Node :=
  let x := n.tpb u
  match x.phase with
  | .passing tgt _ probe =>
    let n := if probe then (n.setLive u tgt true).tpbCount u 14 else n
    n.onTpb u fun x => { x with hold := false, redo := false, phase := .quiet, gapLast := if probe then tgt else x.gapLast }
  | .backoff => n.onTpb u fun x => { x with hold := false, redo := false, phase := .quiet }
  | .quiet => if x.hold && x.fresh then n.onTpb u fun x => { x with phase := .backoff } else n
  | .sending | .slotWait => n

/-- A valid answer ends the exchange (15 R411, R413, R424). -/
def Node.answered (n : Node) (u : Unit2) (data : List Byte) (ack : Bool) : Node :=
  let x := n.tpb u
  let n := n.onTpb u fun x => { x with phase := .quiet }
  match x.curItem with
  | none => n
  | some it =>
    if it.fired then (n.tpbCount u 9).tpbDone u x.cur it stTIMEOUT
    else if ack then (n.tpbCount u 6).tpbDone u x.cur it stOK ⟨0, false, true⟩
    else
      let keep := if it.rsp = 0 then [] else data.take it.rspMax
      let (n, r) := if keep.isEmpty then (n, MemRes.ok []) else n.put (mTpb u) it.rsp keep
      match r with
      | .ok _ =>
        (n.tpbCount u 6).tpbDone u x.cur it stOK ⟨keep.length, it.rsp ≠ 0 && it.rspMax < data.length, false⟩
      | .denied | .ecc => (n.tpbRxDrop u it.rsp).tpbDone u x.cur it stABORTED

/-- A valid DATA frame. -/
def Node.tpbData (n : Node) (u : Unit2) (f : TpbFrame) (stamp : DWord) : Node :=
  let x := n.tpb u
  let mode := n.k.tpbMode u
  let da := (byteAt f.chars 1).toNat
  let sa := (byteAt f.chars 2).toNat
  let fc := (byteAt f.chars 3).toNat
  let data := slice f.chars 5 (byteAt f.chars 4).toNat
  let rs := fc / 2 % 2 = 1
  let rq := fc % 2 = 1
  let mine := da = n.k.tpbAddr u
  let ans := x.phase = .slotWait && rs && (match x.curItem with | some it => it.da = sa | none => false)
  let late := !ans && rs && mine && (mode = 1 || mode = 2)
  let n := if ans then n.answered u data false else if late then n.tpbCount u 9 else n
  let n :=
    if rq && mine && (mode = 1 || mode = 3) then
      let s := fc / 4 % 8
      let w := n.reg (pgTpb u) (0x0C4 + 8 * s)
      n.onTpb u fun x =>
        { x with answer := some ⟨sa, fc, (n.reg (pgTpb u) (0x0C0 + 8 * s)).toNat, w.field 0 8, w.bit 8⟩ }
    else n
  if mode = 2 || ((mine || da = 127) && !ans && !late) then
    let kind := if da = 127 then 2 else if rq then 1 else 0
    n.tpbQueue u (da + 256 * sa + 65536 * fc + 2 ^ 24 * kind) 0 data stamp
  else n

/-- An invalid frame (15 R409): counted; the answer it was to be has failed (R411, R413); the receiver waits for an idle bus. -/
def Node.tpbInvalid (n : Node) (u : Unit2) (i : Nat) : Node :=
  let n := ((n.tpbCount u i).raise (evTpbErr u)).onTpb u fun x => { x with samp := { x.samp with deaf := true } }
  let x := n.tpb u
  match x.phase, x.curItem with
  | .slotWait, some it =>
    let n := n.onTpb u fun x => { x with phase := .quiet }
    if it.fired then (n.tpbCount u 9).tpbDone u x.cur it stTIMEOUT else n.tpbFail u x.cur it stABORTED
  | _, _ => n

/-- A frame in the ring modes (15 R409): the token is taken, an answer or a DATA frame judged. -/
def Node.tpbTake (n : Node) (u : Unit2) (f : TpbFrame) (stamp : DWord) : Node :=
  let n := n.tpbActivity u
  match n.k.tpbBad u f with
  | some i => n.tpbInvalid u i
  | none =>
    let n := n.tpbCount u 0
    let d := byteAt f.chars 0
    if d = 0xE1 then
      (if n.k.tpbMode u = 1 && (byteAt f.chars 1).toNat = n.k.tpbAddr u then n.tokenRx u else n)
    else if d = 0x3E then (if (n.tpb u).phase = .slotWait then n.answered u [] true else n)
    else n.tpbData u f stamp

/-- The samples up to the end of a frame (15 R409); where they complete no character nothing has been received. -/
def Node.tpbRx (n : Node) (u : Unit2) (f : TpbRx) : Node :=
  if !(n.k.live (pgTpb u) && n.k.tpbMode u ≠ 0) then n
  else
    let (n, cs) := n.tpbFeed u f.samples
    if cs.isEmpty then n else n.tpbTake u (frameOf cs) f.stamp

/-- The answer to a request starts (15 R414); where its buffer cannot be read nothing is sent (log entry 27), nor by a MODE 1
station that has not had the token since ENABLE (R419). -/
def Node.tpbAnswer (n : Node) (u : Unit2) : Node :=
  let x := n.tpb u
  let mode := n.k.tpbMode u
  match x.answer with
  | none => n
  | some q =>
    if !(n.k.live (pgTpb u) && (mode = 1 || mode = 3)) then n
    else
      let n := n.onTpb u fun x => { x with answer := none }
      if mode = 1 && !x.joined then n
      else if !q.valid then n.onTpb u fun x => { x with wire := [0x3E], out := .answer }
      else
        let (n, r) := if q.len = 0 then (n, MemRes.ok []) else n.getBy (mTpb u) q.base q.len
        match r with
        | .denied | .ecc => n
        | .ok data =>
          let fc := q.fc / 4 * 4 + 2
          n.onTpb u fun x => { x with wire := n.k.dataFrame u q.dest fc data, out := .answer }

/-! ## MODE 0 (15 R416, R425) -/

/-- The open run is queued. -/
def Node.rawClose (n : Node) (u : Unit2) (brk : Bool) : Node :=
  let x := n.tpb u
  if x.raw.isEmpty then n
  else
    let n := n.onTpb u fun x => { x with raw := [], rawErr := false }
    n.tpbQueue u (3 * 2 ^ 24) (2 ^ 17 * x.rawErr.toNat + 2 ^ 18 * brk.toNat) x.raw x.rawTs

/-- A character in MODE 0. -/
def Node.rawChar (n : Node) (u : Unit2) (stamp : DWord) (c : TpbChar) : Node :=
  let n := if c.par then n.tpbCount u 1 else n
  let n := if c.frm then n.tpbCount u 2 else n
  let n := n.onTpb u fun x =>
    { x with raw := x.raw ++ [c.byte], rawErr := x.rawErr || c.par || c.frm, rawTs := if x.raw.isEmpty then stamp else x.rawTs }
  let d := n.reg (pgTpb u) 0x068
  if (d.bit 8 && c.byte.toNat = d.field 0 8) || n.k.tpbRqEntry u - 16 ≤ (n.tpb u).raw.length then n.rawClose u false else n

/-- The samples up to the end of a character in MODE 0 (15 R403, R416). -/
def Node.rawRx (n : Node) (u : Unit2) (f : TpbRx) : Node :=
  if !(n.k.live (pgTpb u) && n.k.tpbMode u = 0) then n
  else
    let (n, cs) := n.tpbFeed u f.samples
    cs.foldl (fun n c => n.rawChar u f.stamp c) n

/-- A break (15 R425): once per episode. It is activity for a station that waits for silence (R422). -/
def Node.tpbBreak (n : Node) (u : Unit2) : Node :=
  if !n.k.live (pgTpb u) || (n.tpb u).inBreak then n
  else
    let n := ((n.tpbHalf u 16).raise (evTpbErr u)).onTpb u fun x => { x with inBreak := true }
    if n.k.tpbMode u = 0 then n.rawClose u true
    else match (n.tpb u).phase with
      | .quiet | .backoff => n.tpbActivity u
      | .sending | .slotWait | .passing _ _ _ => n

/-! ## The end of a visit (15 R418, R419, R422) -/

/-- Whether the visit has run its course: no exchange, no retry, no item that may start. -/
def Channel.visitOver (k : Channel) (u : Unit2) : Bool :=
  let x := k.tpb u
  k.live (pgTpb u) && k.tpbMode u = 1 && x.hold && x.phase = .quiet && x.out = .quiet && x.retryRing.isNone && (k.ringTurn u).isNone

/-- The token is passed, or a gap address is probed first on every GAPN-th visit. -/
def Node.tokenPass (n : Node) (u : Unit2) : Node :=
  if !n.k.visitOver u || n.tpbBusy u then n
  else
    let x := n.tpb u
    let gapn := (n.reg (pgTpb u) 0x050).field 8 8
    let due := gapn ≠ 0 && x.visits % gapn = 0 && !x.probed
    match (if due then n.k.gapNext u else none) with
    | some a => (n.onTpb u fun x => { x with probed := true, gapLast := a }).sendToken u a 0 true
    | none => n.passToken u

/-- The bus has been idle long enough to claim the token (15 R419, R425). -/
def Node.tokenClaim (n : Node) (u : Unit2) : Node :=
  if n.tpbIdle u && n.k.live (pgTpb u) && n.k.tpbMode u = 1 && !(n.tpb u).hold && (n.tpb u).phase = .quiet then (n.tpbCount u 12).tokVisit u
  else n

/-- A back-off ends, in silence on a bus that can be idle. -/
def Node.backoffEnd (n : Node) (u : Unit2) (silent : Bool) : Node :=
  if n.k.live (pgTpb u) && (n.tpb u).phase = .backoff && (!silent || n.tpbIdle u) then
    n.onTpb u fun x => { x with phase := .quiet, hold := x.hold && silent, redo := x.redo && silent }
  else n

/-! ## The block's ends (15 R412, R425; 17 R478) -/

/-- Open items end with a status; what stands posted stays. An item whose deadline has fired and whose frame is sent keeps its
TIMEOUT (15 R412, R413; 17 R475). -/
def Node.tpbHalt (n : Node) (u : Unit2) (st : Byte) : Node :=
  let x := n.tpb u
  let n := [0, 1].foldl (fun n r => match x.item r with
    | some it =>
      n.tpbReport u r it (if it.fired && x.phase = .slotWait && x.cur = r then stTIMEOUT else st) ⟨0, false, false⟩
    | none => n) n
  n.onTpb u fun x =>
    { x with phase := .quiet, hold := false, fresh := false, redo := false, joined := false, out := .quiet, answer := none,
             raw := [], rawErr := false, inBreak := false, samp := TpbSamp.reset }

/-- A MAC starts: posted descriptors are fetched. -/
def Node.tpbBegin (n : Node) (u : Unit2) : Node := (n.tpbFetch u 0).tpbFetch u 1

/-! ## Registers (15 R420, R426) -/

/-- The registers that keep their values while ENABLE is 1. -/
def tpbFixed : List Nat := [0x040, 0x044, 0x048, 0x080, 0x090, 0x0A0]

/-- TXCFG: EN from 0 to 1 zeroes PROD and CONS; clearing it ends the open item ABORTED (log entry 24); LOG2N stays while
EN is 1, as R358 has it for the shaper rings. -/
def Node.tpbTxCfg (n : Node) (u : Unit2) (snd : Sender) (r : Nat) (v : Word) : Node :=
  let off := tpbReg0 r + 4
  let old := n.reg (pgTpb u) off
  if old.bit 0 then
    let n := if v.field 4 4 = old.field 4 4 then n else n.regFault snd (pgTpb u) off cSTATE
    if v.bit 0 then n
    else
      let busy := (n.tpb u).cur = r
      let n := n.setField (pgTpb u) off 0 1 0
      let n := match (n.tpb u).item r with
        | some it => n.tpbReport u r it stABORTED ⟨0, false, false⟩
        | none => n
      n.onTpb u fun x =>
        { x.setPosted r [] with
          phase := if busy && (x.phase = .sending || x.phase = .slotWait) then .quiet else x.phase
          out := if busy && x.phase = .sending then .quiet else x.out }
  else
    let n := n.writeFields snd (pgTpb u) off (v.setBit 0 false)
    if !v.bit 0 then n
    else if !(inSram (n.k.tpbBase u r) (32 * n.k.tpbSize u r) && n.k.tpbBase u r % (32 * n.k.tpbSize u r) == 0) then
      n.regFault snd (pgTpb u) off cRSVD
    else
      (((n.setField (pgTpb u) off 0 1 1).setReg (pgTpb u) (tpbReg0 r + 8) 0).setField (pgTpb u) (tpbReg0 r + 12) 0 10 0).onTpb
        u fun x => (x.setPosted r []).setItem r none

/-- RQCFG: a queue enabled, or kept enabled, at a base that is misaligned or leaves SRAM is a reserved encoding (15 R420, log
entry 60). -/
def Node.tpbRqCfg (n : Node) (u : Unit2) (snd : Sender) (v : Word) : Node :=
  let m := n.writeFields snd (pgTpb u) 0x0A4 v
  let base := (m.reg (pgTpb u) 0x0A0).toNat
  if (m.reg (pgTpb u) 0x0A4).bit 0 && !(inSram base (m.k.tpbRqSize u * m.k.tpbRqEntry u) && base % m.k.tpbRqEntry u == 0) then
    n.regFault snd (pgTpb u) 0x0A4 cRSVD
  else m

/-- A register of a TPB page written. -/
def Node.tpbWrite (n : Node) (u : Unit2) (snd : Sender) (off : Nat) (v : Word) : Node :=
  if tpbFixed.contains off then
    (if n.k.enabled (pgTpb u) then n.regFault snd (pgTpb u) off cSTATE else n.writeFields snd (pgTpb u) off v)
  else match off with
  | 0x084 => n.tpbTxCfg u snd 0 v
  | 0x094 => n.tpbTxCfg u snd 1 v
  | 0x088 => n.tpbProdWrite u snd 0 v
  | 0x098 => n.tpbProdWrite u snd 1 v
  | 0x08C => (n.writeFields snd (pgTpb u) off v).tpbFetch u 0
  | 0x09C => (n.writeFields snd (pgTpb u) off v).tpbFetch u 1
  | 0x0A4 => n.tpbRqCfg u snd v
  | 0x0AC => n.tpbAck u snd v
  | _ => n.writeFields snd (pgTpb u) off v

/-- A register of a TPB page read. -/
def Channel.tpbRead (k : Channel) (u : Unit2) (off : Nat) : Word :=
  let x := k.tpb u
  match off with
  | 0x050 => (k.view (pgTpb u) off).setField 0 7 (k.tpbNs u)
  | 0x064 => BitVec.ofNat 32 x.trr
  | 0x06C => BitVec.ofNat 32 ((decide (x.out ≠ .quiet)).toNat + 2 * x.hold.toNat + 4 * x.inBreak.toNat)
  | _ => k.view (pgTpb u) off

/-! ## The commands -/

/-- A frame is received. -/
def execTpbFrameRx (c : Ch) (u : Unit2) (f : TpbRx) (s : State) : Out :=
  .next (s.within c fun n => n.tpbRx u f)

/-- A character is received in MODE 0: its samples, those before its first data bit, of its data bits and from there on. -/
def execTpbRawCharacter (c : Ch) (u : Unit2) (before bits stop : List Bool) (stamp : DWord) (s : State) : Out :=
  .next (s.within c fun n => n.rawRx u ⟨before ++ bits ++ stop, stamp⟩)

/-- RAWGAP idle bit times close the run. -/
def execTpbRawRunClose (c : Ch) (u : Unit2) (s : State) : Out :=
  .next (s.within c fun n => if n.k.live (pgTpb u) then n.rawClose u false else n)

/-- A write of TPBn_TXPRODr. -/
def execTpbTxprodWrite (snd : Sender) (c : Ch) (u : Unit2) (r : Fin 2) (v : Word) (s : State) : Out :=
  .next (s.regCmd snd c (pgTpb u) (tpbReg0 r + 8) fun n => n.tpbWrite u snd (tpbReg0 r + 8) v)

/-- An attempt starts. -/
def execTpbAttemptStart (c : Ch) (u : Unit2) (s : State) : Out :=
  .next (s.within c fun n => n.tpbStart u)

/-- The last stop bit of a frame sent; `echo` is the first character that did not read back right. -/
def execTpbAttemptEnd (c : Ch) (u : Unit2) (echo : Option Nat) (s : State) : Out :=
  .next (s.within c fun n => if n.k.live (pgTpb u) then n.tpbSent u echo else n)

/-- The slot timer expires. -/
def execTpbSlotTimerExpiry (c : Ch) (u : Unit2) (s : State) : Out :=
  .next (s.within c fun n => if n.k.live (pgTpb u) then n.slotExpiry u else n)

/-- A deadline fires. -/
def execTpbDeadline (c : Ch) (u : Unit2) (r : Fin 2) (s : State) : Out :=
  .next (s.within c fun n => if n.k.live (pgTpb u) then n.tpbDeadline u r else n)

/-- RSPDLY bit times after a request the answer goes out. -/
def execTpbAnswer (c : Ch) (u : Unit2) (s : State) : Out :=
  .next (s.within c fun n => n.tpbAnswer u)

/-- A visit ends. -/
def execTokenPass (c : Ch) (u : Unit2) (s : State) : Out :=
  .next (s.within c fun n => n.tokenPass u)

/-- The token is claimed. -/
def execTpbTokenClaim (c : Ch) (u : Unit2) (s : State) : Out :=
  .next (s.within c fun n => n.tokenClaim u)

/-- A back-off ends, in silence or with activity. -/
def execTpbBackoffEnd (c : Ch) (u : Unit2) (silent : Bool) (s : State) : Out :=
  .next (s.within c fun n => n.backoffEnd u silent)

/-- A break. -/
def execTpbBreak (c : Ch) (u : Unit2) (s : State) : Out :=
  .next (s.within c fun n => n.tpbBreak u)

/-- A write of TPBn_RQACK. -/
def execTpbRqack (snd : Sender) (c : Ch) (u : Unit2) (v : Word) (s : State) : Out :=
  .next (s.regCmd snd c (pgTpb u) 0x0AC fun n => n.tpbWrite u snd 0x0AC v)

/-- A W1C write of TPBn_TXCONSr.STOPPED. -/
def execTpbStoppedClear (snd : Sender) (c : Ch) (u : Unit2) (r : Fin 2) (s : State) : Out :=
  .next (s.regCmd snd c (pgTpb u) (tpbReg0 r + 12) fun n => n.tpbWrite u snd (tpbReg0 r + 12) 0x10000)

end Sys2Proof.Machine
end

