-- ==== Sys2Proof/Machine/Items.lean ====
section
/-!
DEFINITION. Ending the items of a whole channel or of one block by cause (17 R475–R478): channel reset, block reset,
ENABLE cleared, and the abandon policy.
-/

namespace Sys2Proof.Machine

/-- Every open item of a channel ends with a status; an outcome fixed before stands (17 R475). The frames on the wires are
cut short. -/
def Node.endItems (n : Node) (st : Byte) : Node :=
  let n := (n.portEnd .a st).portEnd .b st
  let n := n.txEndAll st
  let n := (n.canEndAll .u0 st).canEndAll .u1 st
  let n := (n.tpbHalt .u0 st).tpbHalt .u1 st
  (n.slbEndAll st).dmaEndAll st

/-- The abandon policy of 02 R54: every open tick-bound item that has not started ends LATE. -/
def Node.abandon (n : Node) : Node :=
  let n := n.dmaAbandon.txAbandon
  let n := (n.canAbandon .u0).canAbandon .u1
  ((n.tpbAbandon .u0).tpbAbandon .u1).slbAbandon

/-- A block is told that ENABLE has gone to 0: its items end DOWN (03 R74, 17 R478). -/
def Node.blockDown (n : Node) (page : Nat) : Node :=
  match page with
  | 0x10 => n.pawnDown.pawnJudge
  | 0x20 => n.portEnd .a stDOWN
  | 0x21 => n.portEnd .b stDOWN
  | 0x30 => n.txDown
  | 0x40 => n.canStop .u0 stDOWN
  | 0x41 => n.canStop .u1 stDOWN
  | 0x48 => n.tpbHalt .u0 stDOWN
  | 0x49 => n.tpbHalt .u1 stDOWN
  | 0x50 => n.slbConfig stDOWN
  | 0x60 => n.dmaDown
  | _ => n

/-- A block is told that ENABLE has gone to 1. -/
def Node.blockUp (n : Node) (page : Nat) : Node :=
  match page with
  | 0x40 => n.canStart .u0
  | 0x41 => n.canStart .u1
  | 0x48 => n.tpbBegin .u0
  | 0x49 => n.tpbBegin .u1
  | 0x10 => n.pawnJudge
  | _ => n

end Sys2Proof.Machine
end

