-- ==== Sys2Proof/Machine/Whistle.lean ====
section
/-!
DEFINITION. The whistle: its sequence, the half-time swap, the tick ledger and the scoreboard (02 R47–R63, R66, R67).
The sequence C+0 to C+261 is one command (log entry 11).
-/

namespace Sys2Proof.Machine

/-! ## Half-time swap (02 R51, R52, R58) -/

/-- PG_SHADOW of a page. -/
def Channel.shadowCtl (k : Channel) (page : Nat) : Word := k.reg page 0x01C

/-- A page is armed for a whistle. -/
def Channel.armed (k : Channel) (page : Nat) : Bool :=
  (k.shadowCtl page).bit 0 || ((k.shadowCtl page).bit 1 && (k.shadowCtl page).bit 2)

/-- The SH fields of one register take the shadow set's values; the shadow set, equal to them, stays. -/
def Channel.swapKey (k : Channel) (key : Nat) : Channel :=
  match chanReg (key / 0x1000) (key % 0x1000) with
  | none => k
  | some r =>
    let old := (SMap.get? k.regs key).getD (chanBlank key)
    let sh := (SMap.get? k.shadow key).getD (chanBlank key)
    let v := r.fields.foldl (fun v f => match f.acc with
      | .sh => v.setField f.lo f.len (sh.field f.lo f.len)
      | .rw | .ro | .w1c | .w1s | .wo => v) old
    { k with regs := SMap.put (chanBlank key) k.regs key v }

/-- The swap of one page; keys listed in neither set hold the same in both. -/
def Channel.swapPage (k : Channel) (page : Nat) : Channel :=
  let keys := ((k.shadow.map Prod.fst) ++ (k.regs.map Prod.fst)).filter fun x => pageOfKey x = page
  let k := keys.foldl Channel.swapKey k
  let w := k.shadowCtl page
  k.setReg page 0x01C (((w.setField 0 1 0).setField 2 1 0).setField 8 8 (w.field 8 8 + 1))

/-- The swap cycle: every armed page at once; answers the pages that swapped. -/
def Channel.swap (k : Channel) : Channel × List Nat :=
  let pages := shadowedPages.filter k.armed
  let k' := pages.foldl Channel.swapPage k
  let k' := if pages.contains pgPRP then k'.prpSwap k.portMode else k'
  (if pages.contains pgPOLICE then k'.policeSwap k else k', pages)

/-- A changed period anchors the boundaries to WHISTLE_TIME + PERIOD (R58). -/
def Channel.anchorPeriod (k : Channel) (oldPeriod : Nat) : Channel :=
  if k.period = oldPeriod then k
  else
    let a := k.wh.time.toNat + k.period
    { k with wh := { k.wh with next := a, anchor := some a } }

/-- After the swap of C+1, where the next whistle lies: REALIGN applies R48, and an interval it changes is a slip as after a
step (R48, log entry 53); else a changed period re-anchors (R58). -/
def Node.reanchor (n : Node) (oldPeriod : Nat) : Node :=
  if !n.k.wh.realign then n.onK fun k => k.anchorPeriod oldPeriod
  else
    let plain := (n.k.anchorPeriod oldPeriod).wh.next
    n.onK fun k =>
      let k := k.applyR48
      { k with wh := { k.wh with realign := false, slipNow := k.whistleEn && k.wh.next ≠ plain } }

/-! ## Tick ledger (02 R53, R54) -/

/-- What a tick was charged: its bundles and the debt carried into it. -/
def Ledger.charged (l : Ledger) : Nat := l.used + l.debt

/-- The cause of an overrun: bit 0 NOT_DONE, bit 1 OVER; 0 with a budget of 0. -/
def Ledger.judge (l : Ledger) : Nat :=
  if l.budget = 0 then 0
  else (if l.done then 0 else 1) + (if l.budget.toNat < l.charged then 2 else 0)

/-- C+5: the ending tick is judged, debt carried or dropped, the budget reloaded with the value now active. -/
def Ledger.evaluate (l : Ledger) (abandon : Bool) (budget : Word) : Ledger :=
  let cause := l.judge
  { used := 0, last := l.charged,
    debt := if 2 ≤ cause && !abandon then min (l.charged - l.budget.toNat) 0xFFFFFF else 0,
    idle := 0, done := false, budget := budget, lastOvr := cause ≠ 0, cause := cause,
    ovrCnt := l.ovrCnt + (if cause ≠ 0 then 1 else 0) }

/-- A bundle is issued (02 R53): charged, or idle after the done mark. -/
def Ledger.bundle (l : Ledger) : Ledger := if l.done then { l with idle := l.idle + 1 } else { l with used := l.used + 1 }

/-! ## Scoreboard (02 R55, R56) -/

/-- The register behind an entry of the record (11 R312, 12 R342, 13 R366, 14 R399, 15 R427, 16 R467). -/
def scoreReg (i : Nat) : Option (Nat × Nat) :=
  if i < 16 then some (pgETHA, 0x100 + 4 * i)
  else if i < 32 then some (pgETHB, 0x100 + 4 * (i - 16))
  else if i < 48 then some (pgPRP, 0x100 + 4 * (i - 32))
  else if i < 64 then some (pgCLS, 0x100 + 4 * (i - 48))
  else if i < 96 then some (pgSHAPE, 0x500 + 4 * (i - 64))
  else if i < 864 then some (pgPOLICE, 0x400 + 4 * (i - 96))
  else if i < 880 then some (pgCAN0, 0x200 + 4 * (i - 864))
  else if i < 896 then some (pgCAN1, 0x200 + 4 * (i - 880))
  else if i < 912 then some (pgTPB0, 0x200 + 4 * (i - 896))
  else if i < 928 then some (pgTPB1, 0x200 + 4 * (i - 912))
  else if i < 960 then some (pgSLB, 0x200 + 4 * (i - 928))
  else none

/-- The entries whose word holds two counters of 16 bits (14 R399, 15 R427). -/
def scorePairs : List Nat := [879, 895, 911, 927]

/-- What two counters of 16 bits in one word counted from `w` to `v`. -/
def pairDiff (v w : Word) : Word :=
  BitVec.ofNat 32 ((v.field 0 16 + 65536 - w.field 0 16) % 65536 + (v.field 16 16 + 65536 - w.field 16 16) % 65536 * 65536)

/-- What entry i counted since the last whistle (R49, R55; log entry 29). -/
def Channel.scoreEntry (k : Channel) (i : Nat) : Word :=
  match scoreReg i with
  | none => 0
  | some (page, off) =>
    let w := (SMap.get? k.snap (regKey page off)).getD 0
    if scorePairs.contains i then pairDiff (k.reg page off) w else k.reg page off - w

/-- The counters as they stand are where the new tick starts from. -/
def Channel.takeSnap (k : Channel) : Channel :=
  { k with snap := (List.range 960).foldl (fun m i => match scoreReg i with
      | none => m
      | some (page, off) => SMap.put 0 m (regKey page off) (k.reg page off)) k.snap }

/-- The header of a record. -/
def scoreHeader (count time : DWord) (charged flags idle : Nat) : List Byte :=
  bytesLE 8 count.toNat ++ bytesLE 8 time.toNat ++ bytesLE 4 charged ++ bytesLE 4 flags ++ bytesLE 4 idle ++
    List.replicate 36 0

/-- The quad-words of a record in the order they are written: the counters, then the header. -/
def scoreQuads (hdr body : List Byte) : List (Nat × List Byte) :=
  ((List.range 252).map fun i => (0x40 + 16 * i, slice body (16 * i) 16)) ++
    (List.range 4).map fun i => (16 * i, slice hdr (16 * i) 16)

/-- A record is written; the first write that fails abandons it (R56). -/
def Node.scoreWrite (n : Node) (base : Nat) (seq : Word) (qs : List (Nat × List Byte)) : Node :=
  let r := qs.foldl (fun (acc : Node × Option Nat) q =>
    match acc.2 with
    | some _ => acc
    | none =>
      let (n, res) := acc.1.put mWHISTLE (base + q.1) q.2
      match res with
      | .ok _ => (n, none)
      | .denied | .ecc => (n, some (base + q.1))) (n, none)
  match r.2 with
  | none => r.1.setReg pgWHISTLE 0x080 seq
  | some a =>
    ((r.1.setField pgWHISTLE 0x04C 2 1 1).fault pgWHISTLE 0x10 0 (BitVec.ofNat 32 a)).raise evSCORE_FAIL

/-! ## The sequence (02 R49) -/

/-- The boundary after the one that fired, above TIME_NOW. -/
def nextBoundary (next period now : Nat) : Nat :=
  if now < next then next else next + ((now - next) / period + 1) * period

/-- C+0: count, time, the snapshot latch, a new tick. `own` says that a boundary came, not a STEP. -/
def Node.whistleC0 (n : Node) (own : Bool) : Node :=
  let slip := n.k.wh.slipNow
  let n := n.onK fun k =>
    { k with wh := { k.wh with count := k.wh.count + 1, time := k.now, elapsed := 0, slipNow := false,
                               slips := k.wh.slips + slip.toNat,
                               next := if own then nextBoundary k.wh.next k.period k.nowNs else k.wh.next } }
  let n := (n.onK Channel.takeSnap).admitTick
  (n.raiseIf slip evWHISTLE_SLIP).canWhistle .u0 |>.canWhistle .u1

/-- The counters of a record, 1008 words. -/
def Channel.scoreBody (k : Channel) : List Byte := (List.range 1008).flatMap fun i => bytesLE 4 (k.scoreEntry i).toNat

/-- C+1 to C+4: the swap, the commit, the refill, the gate lists. -/
def Node.whistleC1 (n : Node) : Node :=
  let r := n.k.swap
  let n := (n.onK fun _ => r.1).reanchor n.k.period
  ((n.clsCommit (r.2.contains pgCLS)).refillAll.gateRestart .a).gateRestart .b

/-- C+5 and C+6: the ledger, the abandon policy, the events. -/
def Node.whistleC5 (n : Node) : Node :=
  let led := n.k.led
  let abandon := (n.reg pgWHISTLE 0x040).bit 1
  let n := n.onK fun k => { k with led := led.evaluate abandon (k.reg pgWHISTLE 0x060) }
  let n := if led.judge ≠ 0 && abandon then n.abandon else n
  (n.raise evWHISTLE).raiseIf (led.judge ≠ 0) evLEDGER_OVERRUN

/-- C+6 to C+261: the record of the tick that ended, which `k` shows. -/
def Node.whistleScore (n : Node) (k : Channel) : Node :=
  let base := k.reg pgWHISTLE 0x07C
  if !base.bit 0 then n
  else
    let addr := base.field 13 19 * 0x2000 + (if n.k.wh.count.toNat % 2 = 1 then 0x1000 else 0)
    let flags := (decide (k.led.judge ≠ 0)).toNat + 2 * k.led.judge + 8 * k.wh.slipNow.toNat +
      16 * (decide (k.tb.lock = .locked)).toNat
    n.scoreWrite addr (k.wh.count.setWidth 32)
      (scoreQuads (scoreHeader k.wh.count k.wh.time k.led.charged flags k.led.idle) k.scoreBody)

/-- The whole sequence. -/
def Node.sequence (n : Node) (own : Bool) : Node :=
  let n' := n.whistleC0 own
  let n' := n'.whistleC1
  let n' := n'.whistleC5
  n'.whistleScore n.k

/-- The whistle is due: enabled, and TIME_NOW has reached the next boundary (02 R43, R47). -/
def Channel.whistleDue (k : Channel) : Bool := k.running && k.whistleEn && k.wh.next ≤ k.nowNs

/-! ## The WHISTLE page (02 R47, R48, R52, R59, R60, R63, R67) -/

/-- WHISTLE_CTRL.ARMALL. -/
def Node.armAll (n : Node) : Node :=
  shadowedPages.foldl (fun n p => if (n.k.shadowCtl p).bit 2 then n.setField p 0x01C 0 1 1 else n) n

/-- EN written: from 0 to 1 the first boundary strictly above TIME_NOW comes next. -/
def Node.whistleOn (n : Node) (was : Bool) : Node :=
  if n.k.whistleEn && !was then
    n.onK fun k => { k with wh := { k.wh with next := k.firstBoundary, slipNow := false } }
  else n

/-- WHISTLE_CTRL written; STEP is judged against EN before the write. -/
def Node.whistleCtrl (n : Node) (snd : Sender) (v : Word) : Node :=
  let was := n.k.whistleEn
  let n := if v.bit 4 then n.armAll else n
  let n := if v.bit 3 then n.onK fun k => { k with wh := { k.wh with realign := true } } else n
  let n := (n.setField pgWHISTLE 0x040 0 2 (v.field 0 2)).whistleOn was
  if !v.bit 2 then n
  else if was then n.regFault snd pgWHISTLE 0x040 cSTATE
  else n.sequence false

/-- LEDGER_MARK: the done mark of the running tick. -/
def Node.ledgerMark (n : Node) : Node := n.onK fun k => { k with led := { k.led with done := true } }

/-- A register of the WHISTLE page written. -/
def Node.whistleWrite (n : Node) (snd : Sender) (off : Nat) (v : Word) : Node :=
  match off with
  | 0x040 => n.whistleCtrl snd v
  | 0x070 => n.ledgerMark
  | _ => n.writeFields snd pgWHISTLE off v

/-- NOALIGN (02 R46). -/
def Channel.noAlign (k : Channel) : Bool :=
  k.servoOn && !(k.lockInt % k.period == 0 && k.lockOfs % k.period == k.phase % k.period)

def Channel.ledgerStat (k : Channel) : Word :=
  BitVec.ofNat 32 (k.led.done.toNat + 2 * k.led.lastOvr.toNat + 4 * k.led.cause + 65536 * (k.led.ovrCnt % 65536))

/-- A register of the WHISTLE page read; a read of a low word latches the high word (02 R67). -/
def Node.whistleRead (n : Node) (off : Nat) : Node × Word :=
  let k := n.k
  match off with
  | 0x040 => (n, (k.view pgWHISTLE 0x040).setBit 3 k.wh.realign)
  | 0x04C => (n, BitVec.ofNat 32 ((k.clocked && k.whistleEn).toNat + 2 * k.noAlign.toNat +
      4 * ((k.reg pgWHISTLE 0x04C).bit 2).toNat + 256 * (k.wh.slips % 256)))
  | 0x050 =>
    (n.onK fun k => { k with wh := { k.wh with countHi := BitVec.ofNat 32 (k.wh.count.toNat / 2 ^ 32) } },
     k.wh.count.setWidth 32)
  | 0x054 => (n, k.wh.countHi)
  | 0x058 =>
    (n.onK fun k => { k with wh := { k.wh with timeHi := BitVec.ofNat 32 (k.wh.time.toNat / 2 ^ 32) } },
     k.wh.time.setWidth 32)
  | 0x05C => (n, k.wh.timeHi)
  | 0x064 => (n, BitVec.ofNat 32 k.led.charged)
  | 0x068 => (n, BitVec.ofNat 32 k.led.last)
  | 0x06C => (n, BitVec.ofNat 32 k.led.debt)
  | 0x074 => (n, k.ledgerStat)
  | 0x078 => (n, BitVec.ofNat 32 k.led.idle)
  | _ => (n, k.view pgWHISTLE off)

/-! ## The commands -/

/-- A boundary of the whistle; one that is not due changes nothing (log entry 3). -/
def execWhistle (c : Ch) (s : State) : Out :=
  .next (if (s.ch c).whistleDue then s.within c fun n => n.sequence true else s)

/-- A write of WHISTLE_CTRL. -/
def execWhistleEn (snd : Sender) (c : Ch) (v : Word) (s : State) : Out :=
  .next (s.regCmd snd c pgWHISTLE 0x040 fun n => n.whistleWrite snd 0x040 v)

/-- A write of WHISTLE_CTRL with STEP 1. -/
def execWhistleStep (snd : Sender) (c : Ch) (v : Word) (s : State) : Out :=
  .next (s.regCmd snd c pgWHISTLE 0x040 fun n => n.whistleWrite snd 0x040 (v.setBit 2 true))

/-- A write of WHISTLE_CTRL with REALIGN 1. -/
def execRealign (snd : Sender) (c : Ch) (v : Word) (s : State) : Out :=
  .next (s.regCmd snd c pgWHISTLE 0x040 fun n => n.whistleWrite snd 0x040 (v.setBit 3 true))

/-- A write of WHISTLE_CTRL with ARMALL 1. -/
def execArmall (snd : Sender) (c : Ch) (v : Word) (s : State) : Out :=
  .next (s.regCmd snd c pgWHISTLE 0x040 fun n => n.whistleWrite snd 0x040 (v.setBit 4 true))

/-- A write of LEDGER_MARK. -/
def execLedgerMark (snd : Sender) (c : Ch) (v : Word) (s : State) : Out :=
  .next (s.regCmd snd c pgWHISTLE 0x070 fun n => n.whistleWrite snd 0x070 v)

/-- A read of WHISTLE_COUNT_LO. -/
def execWhistleCountLoRead (snd : Sender) (c : Ch) (s : State) : Out :=
  .next (s.regRead snd c pgWHISTLE 0x050 fun n => n.whistleRead 0x050)

/-- A read of WHISTLE_TIME_LO. -/
def execWhistleTimeLoRead (snd : Sender) (c : Ch) (s : State) : Out :=
  .next (s.regRead snd c pgWHISTLE 0x058 fun n => n.whistleRead 0x058)

end Sys2Proof.Machine
end

