-- ==== Sys2Proof/Machine/Image.lean ====
section
/-!
DEFINITION. The Genzon image and the checks of the boot sequencer (04 R109–R113).
-/

namespace Sys2Proof.Machine

/-! ## The staging area (04 R108, R113, R116) -/

/-- The whole banks that N bytes need. -/
def stageBanks (n : Nat) : Nat := ceilDiv n 0x40000

/-- Where the staging area of N bytes begins. -/
def stageBase (n : Nat) : Nat := 0x01400000 - stageBanks n * 0x40000

/-- Whether a bank is held by the boot sequencer. -/
def Channel.held (k : Channel) (b : Nat) : Bool := (k.bank b).bit 2

/-- The top banks are held for BOOT, owner 31 (06 R165, R167). -/
def Node.holdStaging (n : Node) : Node :=
  ((List.range 16).filter fun b => 16 ≤ b + stageBanks n.k.loadN).foldl
    (fun n b => n.setReg pgMEMOWN (0x040 + 4 * b) (BitVec.ofNat 32 (4 + 31 * 256))) n

/-- Every held bank returns to the Rook (06 R167). -/
def Node.releaseHeld (n : Node) : Node :=
  ((List.range 16).filter n.k.held).foldl (fun n b => n.setReg pgMEMOWN (0x040 + 4 * b) 0) n

/-- SRAM banks other than those a test keeps are written with zero, valid ECC and carry tags (04 R105). -/
def Channel.scrubSram (k : Channel) (keep : Nat → Bool) : Channel :=
  let kept := fun (e : MemKind × Nat) => e.1 ≠ .sram || keep (bankOf e.2)
  { k with
    sram := k.sram.filter fun x => keep (bankOf x.1),
    tagDiff := k.tagDiff.filter fun x => keep (x.1 / 4096),
    ecc := { k.ecc with
      ue := k.ecc.ue.filter kept, ce := k.ecc.ce.filter kept, wb := k.ecc.wb.filter kept,
      ueTag := k.ecc.ueTag.filter fun b => keep (b / 4096), ceTag := k.ecc.ceTag.filter fun b => keep (b / 4096) } }

/-- IRAM and DTCM zeroed. -/
def Channel.scrubCore (k : Channel) : Channel :=
  let kept := fun (e : MemKind × Nat) => decide (e.1 = .sram)
  { k with
    iram := [], dtcm := [], iramStale := [],
    ecc := { k.ecc with ue := k.ecc.ue.filter kept, ce := k.ecc.ce.filter kept, wb := k.ecc.wb.filter kept } }

/-! ## The header (04 R109, R110) -/

/-- A section of an image. -/
structure Section where
  dest : Nat
  fofs : Nat
  size : Nat
  type : Nat
deriving DecidableEq, Repr

/-- The header fields that outlive the checks. -/
structure Image where
  len    : Nat
  nsec   : Nat
  flags  : Nat
  entry  : Nat
  sp     : Nat
  secver : Nat
  target : Nat
  id     : Nat
  kslot  : Nat
deriving DecidableEq, Repr

/-- A little-endian field of the header. -/
def hdrAt (h : List Byte) (i n : Nat) : Nat := ofBytesLE (slice h i n)

def imageOf (h : List Byte) : Image :=
  { len := hdrAt h 0x08 4, nsec := hdrAt h 0x0C 2, flags := hdrAt h 0x0E 2, entry := hdrAt h 0x10 4, sp := hdrAt h 0x14 4,
    secver := hdrAt h 0x18 4, target := hdrAt h 0x1C 4, id := hdrAt h 0x20 4, kslot := hdrAt h 0x24 1 }

/-- Steps 1 to 4 of R112: 0, or the code of the first check that fails. -/
def headerCode (c : Ch) (h : List Byte) (n : Nat) : Nat :=
  let x := imageOf h
  if hdrAt h 0 4 ≠ 0x4E5A4E47 then 0x01
  else if !(hdrAt h 4 2 = 1 && hdrAt h 6 2 = 64 && 1 ≤ x.nsec && x.nsec ≤ 16 && x.len % 64 = 0 && x.secver ≤ 64 &&
      x.kslot ≤ 3 && x.flags < 2 && x.target < 16 && (slice h 0x25 27).all (· = 0)) then 0x02
  else if n < x.len + 128 then 0x03
  else if !x.target.testBit c.num then 0x04
  else 0

def sectionAt (t : List Byte) (i : Nat) : Section :=
  ⟨hdrAt t (16 * i) 4, hdrAt t (16 * i + 4) 4, hdrAt t (16 * i + 8) 4, hdrAt t (16 * i + 12) 4⟩

/-- Where section data may start. -/
def dataStart (nsec : Nat) : Nat := ceilDiv (0x40 + 16 * nsec) 64 * 64

/-- The memory a range lies wholly in. -/
def areaOf (a size : Nat) : Option MemKind :=
  if a + size ≤ 0x40000 then some .iram
  else if inDtcm a size then some .dtcm
  else if inSram a size then some .sram
  else none

def typeArea : Nat → Option MemKind
  | 0 => some .iram | 1 => some .dtcm | 2 => some .sram | _ => none

/-- One section is in order (R110, R112 step 5). -/
def Section.ok (x : Section) (image : Image) (stage : Nat) : Bool :=
  x.type ≤ 3 && x.dest % 64 = 0 && x.size % 64 = 0 && x.size ≠ 0 &&
  (x.type = 3 || (x.fofs % 64 = 0 && dataStart image.nsec ≤ x.fofs && x.fofs + x.size ≤ image.len)) &&
  (match areaOf x.dest x.size with
   | none => false
   | some .sram => (x.type = 2 || x.type = 3) && x.dest + x.size ≤ stage
   | some a => x.type = 3 || typeArea x.type = some a)

def Section.apart (x y : Section) : Bool := x.dest + x.size ≤ y.dest || y.dest + y.size ≤ x.dest

/-- Step 5 of R112. -/
def sectionsOk (xs : List Section) (image : Image) (stage : Nat) : Bool :=
  0x40 + 16 * image.nsec ≤ image.len && xs.all (fun x => x.ok image stage) &&
  (List.range xs.length).all (fun i => (xs.drop (i + 1)).all fun y => (xs.getD i ⟨0, 0, 0, 0⟩).apart y) &&
  xs.any (fun x => areaOf x.dest x.size = some .iram && x.dest ≤ image.entry && image.entry < x.dest + x.size) &&
  inDtcm image.sp 1 && image.sp % 16 = 0

/-! ## The fuses as they act (04 R128) -/

def Otp.secureNow (o : Otp) : Bool := o.secure || o.err
def Otp.locked (o : Otp) : Bool := o.dbglock || o.err

/-- Slot k is programmed and not revoked. -/
def Otp.usable (o : Otp) (k : Nat) : Bool := !o.err && o.prog.getLsbD k && !o.revoke.getLsbD k

/-- The hash a slot holds, byte 0 first. -/
def Otp.hash (o : Otp) (k : Nat) : List Byte := if h : k < 4 then bytesLE 32 (o.keys[k]).toNat else []

/-! ## Verification (04 R112) -/

/-- Bytes of the staging area; none where an uncorrectable error is met. -/
def Node.stage (n : Node) (off len : Nat) : Node × Option (List Byte) :=
  let (n, r) := n.sramFetch 0 (stageBase n.k.loadN + off) len
  (n, match r with
    | .ok bs => some bs
    | .denied | .ecc => none)

/-- A section with file data is copied to its destination. -/
def Node.copySection (n : Node) (x : Section) : Node × Bool :=
  if x.type = 3 then (n, true)
  else
    let (n, r) := n.stage x.fofs x.size
    match r with
    | none => (n, false)
    | some bs => match areaOf x.dest x.size with
      | some .sram => ((n.sramStore 0 x.dest (bs.map some) false).1, true)
      | some k => ((n.coreWrite k 0 x.dest (bs.map some)).1, true)
      | none => (n, true)

/-- Steps 6 to 9. -/
def keyCode (o : Otp) (x : Image) (key msg sig : List Byte) : Nat :=
  if o.secureNow && !o.usable x.kslot then 0x06
  else if o.secureNow && sha256 key ≠ o.hash x.kslot then 0x07
  else if !p256verify key msg sig then 0x08
  else if x.secver < o.minver then 0x09
  else 0

/-- The checks of R112 in order: an image that passes them all, its sections copied, or the code of the first failure. The
image and its signature block are read whole before step 7, so that an uncorrectable error in them (0x0A) comes before 0x07
to 0x09 (DESIGN CHOICE, log entry 54). -/
def Node.verify (n : Node) (o : Otp) : Node × (Image ⊕ Nat) :=
  let (n, h) := n.stage 0 64
  match h with
  | none => (n, .inr 0x0A)
  | some h =>
    let x := imageOf h
    if headerCode n.c h n.k.loadN ≠ 0 then (n, .inr (headerCode n.c h n.k.loadN))
    else
      let (n, t) := n.stage 0x40 (16 * x.nsec)
      match t with
      | none => (n, .inr 0x0A)
      | some t =>
        let secs := (List.range x.nsec).map (sectionAt t)
        if !sectionsOk secs x (stageBase n.k.loadN) then (n, .inr 0x05)
        else if o.secureNow && !o.usable x.kslot then (n, .inr 0x06)
        else
          let (n, m) := n.stage 0 (x.len + 128)
          match m with
          | none => (n, .inr 0x0A)
          | some m =>
            let code := keyCode o x (slice m x.len 64) (m.take x.len) (slice m (x.len + 64) 64)
            if code ≠ 0 then (n, .inr code)
            else
              let (n, ok) := secs.foldl (fun (acc : Node × Bool) y =>
                if acc.2 then acc.1.copySection y else acc) (n, true)
              if ok then (n, .inl x) else (n, .inr 0x0A)

end Sys2Proof.Machine
end

