-- ==== Sys2Proof/Machine/Boot.lean ====
section
/-!
DEFINITION. Power, channel reset, load, verification and clock loss of a channel, and the management command interface
(04 R103–R126; 17 R475–R478).
-/

namespace Sys2Proof.Machine

/-! ## Management commands (04 R103, R118, R131) -/

def opPWR_ON : Nat := 1
def opPWR_OFF : Nat := 2
def opCH_RESET : Nat := 3
def opLOAD_BEGIN : Nat := 4
def opLOAD_END : Nat := 5
def opBOOT_KEPT : Nat := 6
def opOTP_MINVER : Nat := 7
def opOTP_KEY : Nat := 8
def opOTP_REVOKE : Nat := 9
def opOTP_LOCK : Nat := 10
def opDEV_RESET : Nat := 11

/-- The running command ends with a result. -/
def State.mgmtEnd (s : State) (r : Nat) : State :=
  let s := (s.onDev fun d => { d with cmd := none }).setDfield dvMGMT 0x050 8 8 r
  s.raiseDev (if r = 0 then dvMGMT_DONE else dvMGMT_ERR)

/-- The running command ends, if it is one of these of this channel. -/
def State.mgmtEndIf (s : State) (c : Ch) (ops : List Nat) (r : Nat) : State :=
  match s.dev.cmd with
  | some m => if m.ch = c && ops.contains m.op then s.mgmtEnd r else s
  | none => s

/-- A command starts and keeps BUSY set. -/
def State.mgmtRun (s : State) (op : Nat) (c : Ch) : State :=
  s.onDev fun d => { d with cmd := some ⟨op, c, s.dreg dvMGMT 0x04C⟩ }

def State.mgmtArg (s : State) : Word := s.dreg dvMGMT 0x04C

/-! ## Channel reset (04 R105, R119, R121) -/

def RstCause.num : RstCause → Nat
  | .powerOn => 1 | .mgmt => 2 | .pf => 3 | .rook => 4 | .refclk => 5

/-- The order of R119. -/
def RstCause.rank : RstCause → Nat
  | .powerOn => 0 | .refclk => 1 | .mgmt => 2 | .pf => 3 | .rook => 4

def RstCause.best (a b : RstCause) : RstCause := if a.rank ≤ b.rank then a else b

/-- The load under way: that of the state a clock loss has interrupted, where one has (04 R123). -/
def Channel.loads (k : Channel) : Boot :=
  match k.boot with
  | .clklost | .reset => k.resume
  | b => b

/-- A load is given up: CODE takes 0x0B ABANDONED, KEPT clears, the staging banks go back (R121). -/
def Node.abandonLoad (n : Node) : Node :=
  if n.k.loads = .loading || n.k.loads = .verify then
    (n.onK fun k => { k with code := 0x0B, kept := false, resume := .off }).releaseHeld
  else n

/-- Cycles T and T+1: the channel is in RESET, the Rook halted, the Pawn engines stopped. A VERIFY that the clock loss has
suspended starts again behind the reset (04 R123, log entry 54). -/
def Node.startReset (n : Node) (cause : RstCause) (thenOff : Bool) : Node :=
  (n.onK fun k => { k with boot := .reset, seq := .drain cause thenOff, suspended := none,
                           resume := if k.boot = .clklost && k.resume = .verify then .verify else .off,
                           rook := { k.rook with running := false } }).pawnDown

/-- A request for a channel reset: merged into a running one, remembered while the clock is away, or started. CH_RESET and
CHCTL_RSTREQ abandon a load, the reset of a lost clock does not (R121). -/
def Node.requestReset (n : Node) (cause : RstCause) : Node :=
  let n := if cause = .refclk then n else n.abandonLoad
  match n.k.seq with
  | .drain c off => n.onK fun k => { k with seq := .drain (c.best cause) off }
  | .scrub c => n.onK fun k => { k with seq := .scrub (c.best cause) }
  | .rail | .lock => n
  | .idle =>
    if n.k.boot = .clklost then
      if n.k.refclk then n.startReset cause false
      else n.onK fun k => { k with suspended := some (match k.suspended with
        | some (.drain c off) => .drain (c.best cause) off
        | some (.scrub c) => .drain (c.best cause) false
        | some .rail => .rail
        | some .lock => .lock
        | some .idle | none => .drain cause false) }
    else n.startReset cause false

/-- The drain: every open item and inbound message ends CH_RESET (17 R475, 06 R193). -/
def Node.drain (n : Node) : Node := (n.endItems stCH_RESET).endMail stCH_RESET false

/-- The scrub; the banks of a kept image, and of an image whose VERIFY starts again, are skipped. -/
def Node.scrub (n : Node) : Node :=
  let n := if n.k.kept || n.k.resume = .verify then n else n.releaseHeld
  n.onK fun k => (k.scrubSram k.held).scrubCore

/-- The registers return to their Reset values (04 R105, 03 R87, 06 R193): what stays is power, boot state, the banks held
for a kept image with their contents, and INLAST. -/
def Channel.regsReset (k : Channel) (cause : Nat) : Channel :=
  { Channel.reset with
    pwr := .on, boot := .loadwait, cause := cause, kept := k.kept, devkey := k.devkey, code := k.code,
    keepReq := k.keepReq, loadN := k.loadN,
    regs := k.regs.filter (fun e => inWords e.1 (regKey pgMEMOWN 0x040) 16 && e.2 = BitVec.ofNat 32 (4 + 31 * 256)),
    sram := k.sram, tagDiff := k.tagDiff, inLast := k.inLast,
    ecc := { k.ecc with ueMail := [], ceMail := [] } }

/-- The switch opens: the domain loses its state; INLAST, CODE and DEVKEY are not in it (06 R193, 04 R132). -/
def Channel.powerLost (k : Channel) : Channel :=
  { Channel.reset with devkey := k.devkey, code := k.code, inLast := k.inLast }

def State.switchOpen (s : State) (c : Ch) : State :=
  ((s.onCh c Channel.powerLost).mgmtEndIf c [opPWR_OFF] 0).mgmtEndIf c
    [opPWR_ON, opCH_RESET, opLOAD_END, opBOOT_KEPT] 3

/-- A power fault (04 R126): no drain, PWR_STAT.FAULTc, EVT_CHn_PWR_FAULT. -/
def State.powerFault (s : State) (c : Ch) : State :=
  let s := (s.onCh c Channel.powerLost).setDfield dvPWR 0x040 (4 * c.num + 2) 1 1
  (s.raiseDev (dvCh c dvPWR_FAULT)).mgmtEndIf c [opPWR_ON, opPWR_OFF, opCH_RESET, opLOAD_END, opBOOT_KEPT] 3

/-- The channel powers off, by PWR_OFF or at MON_CRIT (04 R106, R121, R127). In CLKLOST the drain runs without the channel's
clock (DESIGN CHOICE, log entry 54). -/
def State.powerOff (s : State) (c : Ch) : State :=
  let k := s.ch c
  match k.pwr, k.seq with
  | .off, _ => s
  | .ramp, _ | .on, .rail | .on, .lock => s.switchOpen c
  | .on, .scrub _ => s.switchOpen c
  | .on, .drain r _ => s.onCh c fun k => { k with seq := .drain r true }
  | .on, .idle =>
    let s := s.mgmtEndIf c [opLOAD_END, opBOOT_KEPT] 3
    s.within c fun n => n.startReset .mgmt true

/-! ## Verification (04 R112, R113, R124) -/

/-- The Rook starts (R113), at ENTRY as it stands: R109 asks no alignment of it (DESIGN CHOICE, log entry 54). -/
def Rook.started (x : Image) : Rook :=
  { Rook.reset with running := true, pc := BitVec.ofNat 32 x.entry, cm := x.flags % 2 = 1,
                    sp := BitVec.ofNat 32 x.sp, fp := BitVec.ofNat 32 x.sp }

/-- Every check passed. -/
def Node.bootOk (n : Node) (x : Image) : Node :=
  let n := if n.k.keepReq then n.onK fun k => { k with kept := true }
    else
      let held := n.k.held
      (n.onK fun k => k.scrubSram fun b => !held b).releaseHeld
  let n := n.setReg pgCHCTL 0x058 (BitVec.ofNat 32 x.id)
  let n := n.setReg pgCHCTL 0x05C (BitVec.ofNat 32 (x.secver + 256 * n.k.devkey.toNat))
  n.onK fun k => { k with code := 0, boot := .run, rook := Rook.started x }

/-- A check failed: everything is scrubbed, KEPT clears. -/
def Node.bootFail (n : Node) (code : Nat) : Node :=
  n.releaseHeld.onK fun k =>
    { (k.scrubSram fun _ => false).scrubCore with code := code, kept := false, boot := .fail }

/-- The boot sequencer's verdict. -/
def State.verifyEnd (s : State) (c : Ch) : State :=
  let o := s.dev.otp
  let n := (s.node c).onK fun k => { k with devkey := !o.secureNow }
  match n.verify o with
  | (n, .inl x) => ((s.within c fun _ => n.bootOk x).raiseDev (dvCh c dvBOOTED)).mgmtEndIf c [opLOAD_END, opBOOT_KEPT] 0
  | (n, .inr code) =>
    ((s.within c fun _ => n.bootFail code).raiseDev (dvCh c dvBOOTFAIL)).mgmtEndIf c [opLOAD_END, opBOOT_KEPT] 3

/-! ## The management commands of a channel -/

/-- No channel is in LOADING. -/
def State.loadingCh (s : State) : Option Ch := [Ch.ch0, .ch1, .ch2, .ch3].find? fun c => (s.ch c).boot = .loading

/-- PWR_ON (04 R104). -/
def State.opPwrOn (s : State) (c : Ch) : State :=
  if (s.ch c).pwr ≠ .off then s.mgmtEnd 1
  else (s.mgmtRun opPWR_ON c).onCh c fun k => { k with pwr := .ramp, seq := .rail }

/-- PWR_OFF (04 R106). -/
def State.opPwrOff (s : State) (c : Ch) : State :=
  if (s.ch c).pwr = .off then s.mgmtEnd 1 else (s.mgmtRun opPWR_OFF c).powerOff c

/-- CH_RESET (04 R105). -/
def State.opChReset (s : State) (c : Ch) : State :=
  if (s.ch c).pwr = .off then s.mgmtEnd 1 else (s.mgmtRun opCH_RESET c).within c fun n => n.requestReset .mgmt

/-- LOAD_BEGIN (04 R108, R116): a kept image is released, the staging area is held and reads zero. Where the command is not
allowed and N is bad, RESULT 1 comes before RESULT 2 (DESIGN CHOICE, log entry 54). -/
def State.opLoadBegin (s : State) (c : Ch) : State :=
  let k := s.ch c
  let n := s.mgmtArg.field 0 22
  if !((k.boot = .loadwait || k.boot = .fail) && s.loadingCh = none) then s.mgmtEnd 1
  else if !(192 ≤ n && n ≤ 0x200000 && n % 64 = 0) then s.mgmtEnd 2
  else
    (s.within c fun x =>
      let held := x.k.held
      let x := (x.onK fun k => k.scrubSram fun b => !(held b || 16 ≤ b + stageBanks n)).releaseHeld
      (x.onK fun k => { k with kept := false, loadN := n, keepReq := s.mgmtArg.bit 31, boot := .loading }).holdStaging
      ).mgmtEnd 0

/-- LOAD_END (04 R108). -/
def State.opLoadEnd (s : State) (c : Ch) : State :=
  if (s.ch c).boot ≠ .loading then s.mgmtEnd 1
  else (s.mgmtRun opLOAD_END c).onCh c fun k => { k with boot := .verify }

/-- BOOT_KEPT (04 R114). -/
def State.opBootKept (s : State) (c : Ch) : State :=
  if !((s.ch c).boot = .loadwait && (s.ch c).kept) then s.mgmtEnd 1
  else (s.mgmtRun opBOOT_KEPT c).onCh c fun k => { k with boot := .verify }

/-- A word for the staging area (04 R108, R122). -/
def State.loadWord (s : State) (off : Nat) (v : Word) : State :=
  match s.loadingCh with
  | none => s.devFault dvBOOT cSTATE 9 (devAddr dvBOOT (0x800 + off))
  | some c =>
    let o := (s.dreg dvBOOT 0x054).field 0 22 + off
    let n := (s.ch c).loadN
    if n ≤ o then s.devFault dvBOOT 0x10 9 (devAddr dvBOOT (0x800 + off))
    else s.within c fun x => (x.sramStore 9 (stageBase n + o) ((bytesLE 4 v.toNat).map some) true).1

/-! ## Commands: power and reset -/

/-- The channel's rail is good: isolation is released, the PLLs start. -/
def execChannelRailGood (c : Ch) (s : State) : Out :=
  .next (if (s.ch c).seq = .rail then s.onCh c fun k => { k with seq := .lock } else s)

/-- The rail is not good 200 µs after PWR_ON. -/
def execPwrOnRailTimeout (c : Ch) (s : State) : Out :=
  .next (if (s.ch c).seq = .rail then s.powerFault c else s)

/-- The PLLs have locked: the channel reset with cause POWER_ON begins. -/
def execPllLock (c : Ch) (s : State) : Out :=
  .next (if (s.ch c).seq = .lock then
      s.within c fun n => (n.onK fun k => { k with pwr := .on }).startReset .powerOn false
    else s)

/-- The drain ends: the scrub, or, for PWR_OFF, the open switch. -/
def execChannelResetDrainEnd (c : Ch) (s : State) : Out :=
  .next (match (s.ch c).seq with
    | .drain _ true => (s.within c Node.drain).switchOpen c
    | .drain r false => s.within c fun n => n.drain.scrub.onK fun k => { k with seq := .scrub r }
    | .idle | .rail | .lock | .scrub _ => s)

/-- The scrub ends: registers reset, RSTCAUSE written, LOADWAIT or VERIFY, EVT_CHn_RESET_DONE. -/
def execChannelResetScrubEnd (c : Ch) (s : State) : Out :=
  .next (match (s.ch c).seq with
    | .scrub r =>
      let auto := (s.dreg dvRST 0x040).bit c.num
      let again := (s.ch c).resume = .verify
      let s := s.onCh c fun k =>
        let k := k.regsReset r.num
        if (k.kept && auto) || again then { k with boot := .verify } else k
      (s.raiseDev (dvCh c dvRESET_DONE)).mgmtEndIf c [opPWR_ON, opCH_RESET] 0
    | .idle | .rail | .lock | .drain _ _ => s)

/-- CHCTL_RSTREQ written with REQ 1 (04 R107). -/
def Node.rstReq (n : Node) (snd : Sender) (v : Word) : Node :=
  if v.bit 0 then n.requestReset (if snd = .rook then .rook else .pf) else n

/-- A write of CHCTL_RSTREQ. -/
def execChctlRstreq (snd : Sender) (c : Ch) (v : Word) (s : State) : Out :=
  .next (s.regCmd snd c pgCHCTL 0x050 fun n => n.rstReq snd v)

/-- The boot sequencer has finished. -/
def execBootVerifyEnd (c : Ch) (s : State) : Out :=
  .next (if (s.ch c).boot = .verify then s.verifyEnd c else s)

/-- A word written to the load window by PF4. -/
def execBootLoadwinWrite (off : Nat) (v : Word) (s : State) : Out :=
  .next (if s.arrives .pf4 then s.loadWord off v else s)

/-! ## Clock loss (04 R123, R125) -/

/-- The clock of a powered channel is declared lost, in FAIL too: R124's three commands take a channel out of FAIL, but R125
takes every channel to CLKLOST, and a reset of REFCLKRST then ends in LOADWAIT (DESIGN CHOICE, log entry 54). -/
def State.clockLoss (s : State) (c : Ch) : State :=
  let k := s.ch c
  if k.pwr = .off || k.boot = .clklost then s
  else
    let s := s.onCh c fun k =>
      { k with boot := .clklost, resume := if k.boot = .reset then k.resume else k.boot, refclk := false, seq := .idle,
               suspended := if k.seq = .idle then none else some k.seq }
    let s := s.raiseDev (dvCh c dvREFCLK_LOSS)
    if (s.dreg dvRST 0x040).bit (4 + c.num) then s.within c fun n => n.requestReset .refclk else s

/-- The clock is back: what was suspended starts again from its first step. A suspended VERIFY starts again with REFCLKRST 0
(R123), though R125 keeps the channel in CLKLOST, and with REFCLKRST 1 behind the reset that R125 requests (DESIGN CHOICE,
log entry 54). -/
def State.clockReturn (s : State) (c : Ch) : State :=
  let k := s.ch c
  if k.boot ≠ .clklost then s
  else match k.suspended with
  | some .rail | some .lock => s.onCh c fun k =>
      { k with refclk := true, boot := .off, pwr := .ramp, seq := .rail, suspended := none }
  | some (.drain r off) => s.within c fun n => (n.onK fun k => { k with refclk := true }).startReset r off
  | some (.scrub r) => s.within c fun n => (n.onK fun k => { k with refclk := true }).startReset r false
  | some .idle | none => s.onCh c fun k =>
      if k.resume = .verify then { k with refclk := true, boot := .verify, resume := .off } else { k with refclk := true }

/-- CHnREFCLK is lost. -/
def execRefclkLoss (c : Ch) (s : State) : Out := .next (s.clockLoss c)

/-- CHnREFCLK has been good for 100 µs and the PLLs have locked. -/
def execRefclkReturn (c : Ch) (s : State) : Out := .next (s.clockReturn c)

/-- The rail of a powered channel leaves its window (04 R126). -/
def execChannelPowerFault (c : Ch) (s : State) : Out :=
  .next (if (s.ch c).pwr = .on then s.powerFault c else s)

end Sys2Proof.Machine
end

