-- ==== Sys2Proof/Machine/Dev.lean ====
section
/-!
DEFINITION. The device domain: device reset and its end, OTP, the supervision timer, the monitors, the banks, and the
registers of the device pages (04 R99–R103, R115, R127–R133; 05 R164; 18 R487, R488, R492, R493, R503, R509).
-/

namespace Sys2Proof.Machine

/-! ## Device reset (04 R99, R100, R102, R120; 18 R492, R493, R503) -/

/-- The causes of RST_LASTDEV (04 R131). -/
def cuPOWER_ON : Nat := 0
def cuRSTN : Nat := 1
def cuSUPPLY : Nat := 2
def cuTHERMAL : Nat := 3
def cuDEV_RESET : Nat := 4

/-- The order of 18 R503: power-on, supply, thermal, RSTn, DEV_RESET. -/
def devRank : Nat → Nat
  | 0 => 0 | 2 => 1 | 3 => 2 | 1 => 3 | _ => 4

/-- The device in device reset: every page at its Reset value, no command, the host port gone; the fuses and the measured
temperature stay. -/
def Device.held (d : Device) (cause : Nat) (thermal : Bool) : Device :=
  ({ Device.reset with cause := cause, thermal := thermal, otp := { d.otp with err := false } } : Device).setReg
    dvMON 0x040 (d.reg dvMON 0x040)

/-- A device reset begins: every channel loses its power, its items end without a report (04 R120, 17 R478). -/
def State.deviceReset (s : State) (cause : Nat) : State :=
  let d := s.dev
  let old := d.cause
  let kept := if d.phase = .held && devRank old ≤ devRank cause then old else cause
  { s with ch0 := Channel.reset, ch1 := Channel.reset, ch2 := Channel.reset, ch3 := Channel.reset,
           dev := d.held kept (d.thermal || cause = cuTHERMAL) }

/-- A low pulse on RSTn of `ns` nanoseconds (18 R493). -/
def State.rstnPulse (s : State) (ns : Nat) : State :=
  if ns < 100 then s
  else if 1000 ≤ ns then s.deviceReset cuRSTN
  else
    let (x, s) := s.free
    if x.getLsbD 0 then s.deviceReset cuRSTN else s

/-- What starts a device reset. -/
def execDeviceReset (cause : DevCause) (s : State) : Out :=
  .next (match cause with
    | .powerOn => s.deviceReset cuPOWER_ON
    | .rstn ns => s.rstnPulse ns
    | .supply => s.deviceReset cuSUPPLY
    | .thermal => s.deviceReset cuTHERMAL
    | .devReset => s.deviceReset cuDEV_RESET)

/-- Device reset ends: HOSTSEL is sampled, the OTP read begins. A floating strap reads as whatever it reads (18 R508). -/
def execDeviceResetEnd (hostsel : Option Bool) (s : State) : Out :=
  .next (
    if s.dev.phase ≠ .held || s.dev.thermal then s
    else
      let (b, s) := match hostsel with
        | some b => (b, s)
        | none => (s.free.1.getLsbD 0, s.free.2)
      (s.onDev fun d => { d with phase := .otp }).onHost fun h => { h with elofSel := b })

/-- One ms later: the OTP check is done, the management block runs, RST_LASTDEV is written (04 R128, 18 R492). -/
def execManagementStart (otpOk : Bool) (s : State) : Out :=
  .next (
    if s.dev.phase ≠ .otp then s
    else
      let s := (s.onDev fun d => { d with phase := .mgmt, otp := { d.otp with err := !otpOk } }).setDfield dvRST 0x04C 0 3
        s.dev.cause
      if otpOk then s else s.raiseDev dvOTP_ERR)

/-- Two ms later: the host port is ready. -/
def execHostPortReady (s : State) : Out :=
  .next (if s.dev.phase = .mgmt then s.onDev fun d => { d with phase := .ready } else s)

/-! ## OTP (04 R103, R116, R127, R128) -/

/-- OTP_MINVER: the minimum only rises. -/
def State.opOtpMinver (s : State) (c : Ch) : State :=
  let v := s.mgmtArg.field 0 7
  if v ≤ s.dev.otp.minver then s.mgmtEnd 1
  else if 64 < v then s.mgmtEnd 2
  else s.mgmtRun opOTP_MINVER c

/-- OTP_KEY: an unprogrammed slot. -/
def State.opOtpKey (s : State) (c : Ch) : State :=
  if s.dev.otp.prog.getLsbD (s.mgmtArg.field 0 2) then s.mgmtEnd 1 else s.mgmtRun opOTP_KEY c

def State.opOtpRevoke (s : State) (c : Ch) : State := s.mgmtRun opOTP_REVOKE c

def State.opOtpLock (s : State) (c : Ch) : State := s.mgmtRun opOTP_LOCK c

/-- OTP_KEYSTAGE as one number, byte 0 lowest. -/
def State.keyStage (s : State) : BitVec 256 :=
  BitVec.ofNat 256 ((List.range 8).foldl (fun a i => a + (s.dreg dvOTP (0x060 + 4 * i)).toNat * 2 ^ (32 * i)) 0)

/-- A 4-bit set with bit k added. -/
def withBit (v : BitVec 4) (k : Nat) : BitVec 4 := v ||| BitVec.ofNat 4 (2 ^ k)

/-- What an OTP command burns. -/
def Otp.burn (o : Otp) (op : Nat) (arg : Word) (key : BitVec 256) : Otp :=
  let k := arg.field 0 2
  if op = opOTP_MINVER then { o with minver := max o.minver (min 64 (arg.field 0 7)) }
  else if op = opOTP_KEY then
    (if h : k < 4 then { o with keys := o.keys.set k key, prog := withBit o.prog k } else o)
  else if op = opOTP_REVOKE then { o with revoke := withBit o.revoke k }
  else if op = opOTP_LOCK then { o with secure := o.secure || arg.bit 0, dbglock := o.dbglock || arg.bit 1 }
  else o

/-- The OTP supply lies inside ±5 % of 1.8 V. -/
def State.otpSupplyOk (s : State) : Bool :=
  let mv := (s.dreg dvMON 0x05C).field 0 16
  1710 ≤ mv && mv ≤ 1890

def isOtpOp (op : Nat) : Bool := 7 ≤ op && op ≤ 10

/-- One ms after an OTP command: the fuses are burnt; RESULT 3 outside the supply window. OTP_KEY burns the OTP_KEYSTAGE of
this moment (DESIGN CHOICE, log entry 54). -/
def execOtpProgrammingDone (s : State) : Out :=
  .next (match s.dev.cmd with
    | some m =>
      if !isOtpOp m.op then s
      else if !s.otpSupplyOk then s.mgmtEnd 3
      else (s.onDev fun d => { d with otp := d.otp.burn m.op m.arg s.keyStage }).mgmtEnd 0
    | none => s)

/-! ## The command register (04 R103, R118) -/

/-- DEV_RESET with its argument. -/
def State.opDevReset (s : State) : State := if s.mgmtArg = 0xA5C3 then s.deviceReset cuDEV_RESET else s.mgmtEnd 2

/-- MGMT_CMD written by PF4: refused with STATE while BUSY; a reserved OP is a reserved encoding. -/
def State.mgmtCommand (s : State) (op : Nat) (c : Ch) : State :=
  if s.dev.cmd.isSome then s.devFault dvMGMT cSTATE 9 (devAddr dvMGMT 0x048)
  else match op with
  | 1 => s.opPwrOn c
  | 2 => s.opPwrOff c
  | 3 => s.opChReset c
  | 4 => s.opLoadBegin c
  | 5 => s.opLoadEnd c
  | 6 => s.opBootKept c
  | 7 => s.opOtpMinver c
  | 8 => s.opOtpKey c
  | 9 => s.opOtpRevoke c
  | 10 => s.opOtpLock c
  | 11 => s.opDevReset
  | _ => s.devFault dvMGMT cRSVD 9 (devAddr dvMGMT 0x048)

/-- A management command issued by PF4; its argument stands in MGMT_ARG. -/
def State.mgmtIssue (s : State) (op : Nat) (c : Ch) : State := if s.arrives .pf4 then s.mgmtCommand op c else s

def execPwrOn (c : Ch) (s : State) : Out := .next (s.mgmtIssue opPWR_ON c)
def execPwrOff (c : Ch) (s : State) : Out := .next (s.mgmtIssue opPWR_OFF c)
def execChReset (c : Ch) (s : State) : Out := .next (s.mgmtIssue opCH_RESET c)
def execLoadBegin (c : Ch) (s : State) : Out := .next (s.mgmtIssue opLOAD_BEGIN c)
def execLoadEnd (c : Ch) (s : State) : Out := .next (s.mgmtIssue opLOAD_END c)
def execBootKept (c : Ch) (s : State) : Out := .next (s.mgmtIssue opBOOT_KEPT c)
def execOtpMinver (c : Ch) (s : State) : Out := .next (s.mgmtIssue opOTP_MINVER c)
def execOtpKey (c : Ch) (s : State) : Out := .next (s.mgmtIssue opOTP_KEY c)
def execOtpRevoke (c : Ch) (s : State) : Out := .next (s.mgmtIssue opOTP_REVOKE c)
def execOtpLock (c : Ch) (s : State) : Out := .next (s.mgmtIssue opOTP_LOCK c)
def execDevReset (c : Ch) (s : State) : Out := .next (s.mgmtIssue opDEV_RESET c)

/-! ## Supervision timer (04 R115) -/

/-- The timer reloads: PERIOD × 32 cycles of the AON clock. -/
def State.supvLoad (s : State) : State :=
  let n := 32 * (s.dreg dvRST 0x044).field 0 16
  s.onDev fun d => { d with supv := n }

/-- The timer, which runs, has reached zero. -/
def execSupervisionTimerExpiry (s : State) : Out :=
  .next (if (s.dreg dvRST 0x044).bit 31 && (s.dreg dvRST 0x044).field 0 16 ≠ 0 then
      (s.raiseDev dvSUPV_TIMER).supvLoad
    else s)

/-- A write of RST_SUPVKICK by PF4. -/
def execRstSupvkick (_v : Word) (s : State) : Out := .next (if s.arrives .pf4 then s.supvLoad else s)

/-! ## Monitors (04 R127, 18 R487) -/

/-- A temperature in 1/16 °C as a number. -/
def tempOf (w : Word) : Int := signedOf 16 (w.field 0 16)

/-- The junction is measured. -/
def State.setTemp (s : State) (tj : Half) : State := s.setDreg dvMON 0x040 (tj.setWidth 32)

/-- The junction is at or above a threshold register. -/
def State.hot (s : State) (off : Nat) : Bool := tempOf (s.dreg dvMON off) ≤ tempOf (s.dreg dvMON 0x040)

/-- The junction passes MON_WARN. -/
def execThermWarn (tj : Half) (s : State) : Out :=
  let s := s.setTemp tj
  .next (if s.hot 0x044 then s.raiseDev dvTHERM_WARN else s)

/-- The junction passes MON_CRIT: every channel of CRITOFF powers off. -/
def execThermCrit (tj : Half) (s : State) : Out :=
  let s := s.setTemp tj
  .next (
    if !s.hot 0x048 then s
    else [Ch.ch0, .ch1, .ch2, .ch3].foldl (fun s c =>
      if (s.dreg dvMON 0x04C).bit c.num then s.powerOff c else s) (s.raiseDev dvTHERM_CRIT))

/-- At 130 °C the device is held in device reset. -/
def execThermalShutdown (tj : Half) (s : State) : Out :=
  let s := s.setTemp tj
  .next (if 130 * 16 ≤ tempOf (s.dreg dvMON 0x040) then s.deviceReset cuTHERMAL else s)

/-- Below 115 °C the held device reset is let go. -/
def execThermalShutdownRelease (tj : Half) (s : State) : Out :=
  let s := s.setTemp tj
  .next (if tempOf (s.dreg dvMON 0x040) < 115 * 16 then s.onDev fun d => { d with thermal := false } else s)

/-- The measurement of a supply, its window, its event, and the level below which the device resets, in mV. -/
def supplyOf : Supply → Nat × Nat × Nat × Nat × Nat
  | .vddCore => (0x050, 760, 840, dvVMON_CORE, 720)
  | .vddSd09 => (0x054, 855, 945, dvVMON_SERDES, 0)
  | .vddSd18 => (0x054, 1710, 1890, dvVMON_SERDES, 0)
  | .vddOtp18 => (0x05C, 1710, 1890, dvVMON_OTP, 1620)
  | .vddio _ => (0x058, 0, 0, dvVMON_IO, 0)

/-- A supply is measured outside its window: its event, and a device reset below the trip of the core and OTP supplies. A
bank's window follows its level, which only the board knows, so the command itself says that it was left. -/
def execSupplyWindowExit (x : Supply) (mv : Half) (s : State) : Out :=
  let (off, lo, hi, ev, trip) := supplyOf x
  let s := s.setDreg dvMON off (mv.setWidth 32)
  let s := if lo ≤ mv.toNat && mv.toNat ≤ hi && lo ≠ 0 then s else s.raiseDev ev
  .next (if mv.toNat < trip then s.deviceReset cuSUPPLY else s)

/-- VDDIO of bank k falls: its drivers are off (18 R487). -/
def execBankDrop (k : Fin 17) (s : State) : Out := .next (s.setDfield dvMON 0x060 k 1 0)

/-- VDDIO of bank k is back. -/
def execBankReturn (k : Fin 17) (s : State) : Out := .next (s.setDfield dvMON 0x060 k 1 1)

/-! ## Device pages (03 R77, R85, R94; 04 R131–R133; 05 R164) -/

def pwrNum : Pwr → Nat
  | .off => 0 | .ramp => 1 | .on => 2

def bootNum : Boot → Nat
  | .off => 0 | .reset => 1 | .loadwait => 2 | .loading => 3 | .verify => 4 | .run => 5 | .fail => 6 | .clklost => 7

def State.pwrStat (s : State) : Word :=
  BitVec.ofNat 32 ([Ch.ch0, .ch1, .ch2, .ch3].foldl (fun a c => a + pwrNum (s.ch c).pwr * 2 ^ (4 * c.num)) 0) |||
    (s.dreg dvPWR 0x040 &&& 0x4444)

def State.bootStat (s : State) (c : Ch) : Word :=
  let k := s.ch c
  BitVec.ofNat 32 (bootNum k.boot + 16 * k.kept.toNat + 32 * k.devkey.toNat + 256 * k.code)

def Otp.stat (o : Otp) : Word :=
  BitVec.ofNat 32 (o.secure.toNat + 2 * o.dbglock.toNat + 4 * o.err.toNat + 16 * o.revoke.toNat + 256 * o.prog.toNat +
    65536 * o.minver)

/-- A register of a device page as PF4 reads it. -/
def State.devRead (s : State) (page off : Nat) : Word :=
  match page, off with
  | _, 0x000 => pgId page false
  | _, 0x004 => BitVec.ofNat 32 (((s.dreg page 0x008).bit 1).toNat + 4 * ((s.dreg page 0x00C).bit 31).toNat)
  | 0x00, 0x040 => BitVec.ofNat 32 (0x4480 + 65536 * Config.stepping.toNat)
  | 0x00, 0x044 => BitVec.ofNat 32 s.dev.host.elofSel.toNat
  | 0x00, 0x050 => (s.dreg dvMGMT 0x050).setBit 0 s.dev.cmd.isSome
  | 0x01, 0x040 => s.pwrStat
  | 0x03, 0x040 => s.bootStat .ch0
  | 0x03, 0x044 => s.bootStat .ch1
  | 0x03, 0x048 => s.bootStat .ch2
  | 0x03, 0x04C => s.bootStat .ch3
  | 0x06, 0x040 => s.dev.otp.stat
  | _, _ =>
    if page = dvOTP ∧ inWords off 0x100 32 then
      BitVec.ofNat 32 (ofBytesLE (slice (s.dev.otp.hash ((off - 0x100) / 32)) ((off - 0x100) % 32) 4))
    else match devReg page off with
    | none => 0
    | some r => r.fields.foldl (fun v f => if f.acc = .wo then v
        else v.setField f.lo f.len ((s.dreg page off).field f.lo f.len)) 0

/-- A written word's effect on a device register's fields (00 R19–R21). -/
def State.devFields (s : State) (page off : Nat) (w : Word) : State :=
  match devReg page off with
  | none => s
  | some r =>
    let x := r.fields.foldl (writeField Channel.reset w) ⟨s.dreg page off, 0, false, false⟩
    let s := s.setDreg page off x.act
    if x.rej then s.devFault page cRSVD 9 (devAddr page off) else s

/-- PG_CTRL of a device page: BLKRESET is refused (03 R73). -/
def State.devCtrl (s : State) (page : Nat) (w : Word) : State :=
  let s := s.setDfield page 0x008 1 1 (w.field 1 1)
  if w.bit 2 then s.devFault page cSTATE 9 (devAddr page 0x008) else s

/-- BOOT_LOADOFS lies below N of the channel in LOADING, or below 2 MiB (04 R116). -/
def State.loadOfs (s : State) (w : Word) : State :=
  let lim := match s.loadingCh with
    | some c => (s.ch c).loadN
    | none => 0x200000
  if w.field 0 22 < lim then s.devFields dvBOOT 0x054 w else s.devFault dvBOOT cRSVD 9 (devAddr dvBOOT 0x054)

/-- A record register whose PEND clears it and the address beside it. -/
def State.clearLog (s : State) (page off : Nat) (w : Word) : State :=
  if w.bit 31 then (s.setDreg page off 0).setDreg page (off + 4) 0 else s

/-- A register of a device page written by PF4. -/
def State.devWrite (s : State) (page off : Nat) (w : Word) : State :=
  if 9 ≤ page then s.devFault dvDEVEVT cUNMAPPED 9 (devAddr page off)
  else match page, off with
  | _, 0x008 => s.devCtrl page w
  | _, 0x00C => s.clearLog page 0x00C w
  | 0x00, 0x048 => s.mgmtCommand (w.field 0 8) (Ch.nth (w.field 8 2))
  | 0x02, 0x044 => (s.devFields dvRST 0x044 w).supvLoad
  | 0x02, 0x048 => s.supvLoad
  | 0x03, 0x054 => s.loadOfs w
  | 0x07, 0x048 => s.clearLog dvHOSTP 0x048 w
  | _, _ =>
    if page = dvBOOT ∧ inWords off 0x800 512 then s.loadWord (off - 0x800) w
    else if page = dvOTP ∧ inWords off 0x060 8 then s.setDreg page off w
    else s.devFields page off w

/-- A write of DEVEVT_PEND by PF4. -/
def execDevevtPendClear (hi : Bool) (v : Word) (s : State) : Out :=
  .next (if s.arrives .pf4 then s.devWrite dvDEVEVT (if hi then 0x044 else 0x040) v else s)

end Sys2Proof.Machine
end

