-- ==== Sys2Proof/Machine/Operands.lean ====
section
/-!
DEFINITION. The Rook's syllables and their operands (08 R227–R239): formats, fields, element widths, classes, and what
makes a syllable or a bundle illegal.
-/

namespace Sys2Proof.Machine

/-! ## Elements (08 R231) -/

/-- The element width a field E selects. -/
inductive Elem where
  | s | d | v | h
deriving DecidableEq, Repr

def elemOf : Nat → Elem
  | 0 => .s | 1 => .d | 2 => .v | _ => .h

def Elem.width : Elem → Nat
  | .s => 32 | .d => 64 | .v => 32 | .h => 16

def Elem.count : Elem → Nat
  | .s => 1 | .d => 1 | .v => 4 | .h => 8

/-- Element `i` of width `w`. -/
def elemAt (w : Nat) (a : QWord) (i : Nat) : Nat := (a.toNat >>> (w * i)) % 2 ^ w

/-- Elements of width `w`, lowest first, put together; what no element fills is 0. -/
def ofElems (w : Nat) (xs : List Nat) : QWord := BitVec.ofNat 128 (xs.foldr (fun x acc => acc * 2 ^ w + x % 2 ^ w) 0)

/-- An operation on each element of width E. -/
def Elem.map2 (e : Elem) (f : Nat → Nat → Nat) (a b : QWord) : QWord :=
  ofElems e.width ((List.range e.count).map fun i => f (elemAt e.width a i) (elemAt e.width b i))

/-! ## Operations (08 R234–R237) -/

inductive Arith where
  | add | sub | and | or | xor | andn | shl | shr | sar | min | max | minu | maxu
deriving DecidableEq, Repr

inductive Cmp where
  | eq | ne | lt | ltu | le | leu
deriving DecidableEq, Repr

inductive MulOp where
  | lo | hi | hiu
deriving DecidableEq, Repr

inductive Unary where
  | clz | popc | bswap
deriving DecidableEq, Repr

/-- The I-format data operations. -/
inductive ImmOp where
  | add | and | or | xor | shl | shr | sar | eq | lt | ltu
deriving DecidableEq, Repr

/-- Special registers as MFS and MTS number them. -/
inductive Special where
  | sp | fp | psw | link
deriving DecidableEq, Repr

/-- A legal syllable with its operands; `imm` and `off` are as the instruction extends them. -/
inductive Op where
  | nop
  | arith (f : Arith) (e : Elem) (rd ra rb : Nat)
  | cmp (f : Cmp) (e : Elem) (rd ra rb : Nat)
  | mul (f : MulOp) (e : Elem) (rd ra rb : Nat)
  | unary (f : Unary) (e : Elem) (rd ra : Nat)
  | mov (rd ra : Nat)
  | ins (lane rd ra : Nat)
  | ext (lane rd ra : Nat)
  | splat (rd ra : Nat)
  | sel (rd rc ra rb : Nat)
  | imm (f : ImmOp) (rd ra imm : Nat)
  | movi (rd imm : Nat)
  | movhi (rd imm : Nat)
  | mfs (rd : Nat) (x : Special)
  | load (len : Nat) (signed : Bool) (rd ra off : Nat)
  | store (len : Nat) (rd ra off : Nat)
  | fence
  | bz (rt off : Nat)
  | bnz (rt off : Nat)
  | j (off : Nat)
  | call (off : Nat)
  | jr (ra : Nat)
  | callr (ra : Nat)
  | ret
  | jmpx (ra : Nat)
  | callx (ra : Nat)
  | rete
  | trap (code : Nat)
  | brk
  | wait
  | isync
  | mts (x : Special) (ra : Nat)
deriving DecidableEq, Repr

/-- A two's complement field of `n` bits as a number modulo 2³². -/
def sext (n v : Nat) : Nat := toBits 32 (signedOf n v)

def specialOf : Nat → Special
  | 0 => .sp | 1 => .fp | 2 => .psw | _ => .link

/-! ## Decoding a syllable (08 R229, R230) -/

def arithOf : Nat → Option Arith
  | 0 => some .add | 1 => some .sub | 2 => some .and | 3 => some .or | 4 => some .xor | 5 => some .andn
  | 6 => some .shl | 7 => some .shr | 8 => some .sar | 9 => some .min | 10 => some .max | 11 => some .minu
  | 12 => some .maxu | _ => none

def cmpOf : Nat → Option Cmp
  | 0 => some .eq | 1 => some .ne | 2 => some .lt | 3 => some .ltu | 4 => some .le | 5 => some .leu | _ => none

def mulOf : Nat → Option MulOp
  | 0 => some .lo | 1 => some .hi | 2 => some .hiu | _ => none

def unaryOf : Nat → Option Unary
  | 0 => some .clz | 1 => some .popc | 2 => some .bswap | _ => none

/-- R format, OP 0x01–0x05, 0x07, 0x14. -/
def decodeR (op rd ra rb e fn : Nat) : Option Op :=
  match op with
  | 0x01 => if fn = 0 ∧ e = 0 ∧ rd = 0 ∧ ra = 0 ∧ rb = 0 then some .nop else none
  | 0x02 => (arithOf fn).map fun f => .arith f (elemOf e) rd ra rb
  | 0x03 => if e ≤ 2 then (cmpOf fn).map fun f => .cmp f (elemOf e) rd ra rb else none
  | 0x04 => if e = 0 ∨ e = 2 then (mulOf fn).map fun f => .mul f (elemOf e) rd ra rb else none
  | 0x05 =>
    if rb ≠ 0 then none
    else if fn = 3 then (if e = 0 then some (.mov rd ra) else none)
    else (unaryOf fn).map fun f => .unary f (elemOf e) rd ra
  | 0x07 =>
    if rb ≠ 0 then none
    else if fn = 0 then some (.ins e rd ra)
    else if fn = 1 then some (.ext e rd ra)
    else if fn = 2 ∧ e = 0 then some (.splat rd ra)
    else none
  | 0x14 => if fn ≤ 3 ∧ e = 0 ∧ ra = 0 ∧ rb = 0 then some (.mfs rd (specialOf fn)) else none
  | _ => none

/-- I format, OP 0x08–0x11: data operations with an immediate. -/
def decodeI (op rd ra i : Nat) : Option Op :=
  match op with
  | 0x08 => some (.imm .add rd ra (sext 12 i))
  | 0x09 => some (.imm .and rd ra i)
  | 0x0A => some (.imm .or rd ra i)
  | 0x0B => some (.imm .xor rd ra i)
  | 0x0C => if i < 32 then some (.imm .shl rd ra i) else none
  | 0x0D => if i < 32 then some (.imm .shr rd ra i) else none
  | 0x0E => if i < 32 then some (.imm .sar rd ra i) else none
  | 0x0F => some (.imm .eq rd ra (sext 12 i))
  | 0x10 => some (.imm .lt rd ra (sext 12 i))
  | 0x11 => some (.imm .ltu rd ra i)
  | _ => none

/-- Loads and stores (08 R235). -/
def decodeM (op rd ra i : Nat) : Option Op :=
  let off := sext 12 i
  match op with
  | 0x20 => some (.load 1 false rd ra off)
  | 0x21 => some (.load 1 true rd ra off)
  | 0x22 => some (.load 2 false rd ra off)
  | 0x23 => some (.load 2 true rd ra off)
  | 0x24 => some (.load 4 false rd ra off)
  | 0x25 => some (.load 8 false rd ra off)
  | 0x26 => some (.load 16 false rd ra off)
  | 0x28 => some (.store 1 rd ra off)
  | 0x29 => some (.store 2 rd ra off)
  | 0x2A => some (.store 4 rd ra off)
  | 0x2B => some (.store 8 rd ra off)
  | 0x2C => some (.store 16 rd ra off)
  | _ => none

/-- Control and system operations with their bits [23:0] (08 R236, R237). -/
def decodeC (op low : Nat) : Option Op :=
  let ra := low / 4096 % 64
  let raOnly := low = ra * 4096
  match op with
  | 0x2F => if low = 0 then some .fence else none
  | 0x30 => some (.bz (low / 2 ^ 18) (sext 18 (low % 2 ^ 18)))
  | 0x31 => some (.bnz (low / 2 ^ 18) (sext 18 (low % 2 ^ 18)))
  | 0x32 => some (.j (sext 24 low))
  | 0x33 => some (.call (sext 24 low))
  | 0x34 => if raOnly then some (.jr ra) else none
  | 0x35 => if raOnly then some (.callr ra) else none
  | 0x36 => if low = 0 then some .ret else none
  | 0x38 => if raOnly then some (.jmpx ra) else none
  | 0x39 => if raOnly then some (.callx ra) else none
  | 0x3A => if low = 0 then some .rete else none
  | 0x3B => if low < 256 then some (.trap low) else none
  | 0x3C => if low = 0 then some .brk else none
  | 0x3D => if low = 0 then some .wait else none
  | 0x3E => if low = 0 then some .isync else none
  | 0x3F => if low = ra * 4096 + low % 4 then some (.mts (specialOf (low % 4)) ra) else none
  | _ => none

/-- A syllable decoded, its stop bit apart; none where it is illegal. -/
def decodeSyl (w : Word) : Option Op :=
  let op := w.field 24 7
  let rd := w.field 18 6
  let ra := w.field 12 6
  let rb := w.field 6 6
  if op ≤ 0x05 ∨ op = 0x07 ∨ op = 0x14 then decodeR op rd ra rb (w.field 4 2) (w.field 0 4)
  else if op = 0x06 then some (.sel rd ra rb (w.field 0 6))
  else if op ≤ 0x11 then decodeI op rd ra (w.field 0 12)
  else if op = 0x12 then some (.movi rd (sext 18 (w.field 0 18)))
  else if op = 0x13 then some (.movhi rd (w.field 0 18))
  else if op ≤ 0x2E then decodeM op rd ra (w.field 0 12)
  else decodeC op (w.field 0 24)

/-! ## Slot rules (08 R239, R245) -/

inductive OpCls where
  | a | x | m | b | s
deriving DecidableEq, Repr

def Op.cls : Op → OpCls
  | .nop | .arith .. | .cmp .. | .unary .. | .mov .. | .ins .. | .ext .. | .splat .. | .sel .. | .imm ..
  | .movi .. | .movhi .. | .mfs .. => .a
  | .mul .. => .x
  | .load .. | .store .. => .m
  | .bz .. | .bnz .. | .j _ | .call _ | .jr _ | .callr _ | .ret => .b
  | .fence | .jmpx _ | .callx _ | .rete | .trap _ | .brk | .wait | .isync | .mts .. => .s

/-- The register a syllable writes. -/
def Op.dest : Op → Option Nat
  | .arith _ _ rd _ _ | .cmp _ _ rd _ _ | .mul _ _ rd _ _ | .unary _ _ rd _ | .mov rd _ | .ins _ rd _ | .ext _ rd _
  | .splat rd _ | .sel rd _ _ _ | .imm _ rd _ _ | .movi rd _ | .movhi rd _ | .mfs rd _ | .load _ _ rd _ _ => some rd
  | .nop | .store .. | .fence | .bz .. | .bnz .. | .j _ | .call _ | .jr _ | .callr _ | .ret | .jmpx _ | .callx _
  | .rete | .trap _ | .brk | .wait | .isync | .mts .. => none

def Op.isStore : Op → Bool
  | .store .. => true
  | _ => false

/-- No register is named twice. -/
def distinct : List Nat → Bool
  | [] => true
  | x :: xs => !xs.contains x && distinct xs

/-- The slot rules of a bundle. -/
def slotsOk (ops : List Op) : Bool :=
  let n := fun c => (ops.filter fun o => o.cls = c).length
  1 ≤ ops.length && ops.length ≤ 4 && n .x ≤ 2 && n .m ≤ 2 && (ops.filter Op.isStore).length ≤ 1 &&
  (ops.dropLast.all fun o => o.cls ≠ .b) && (n .s = 0 || ops.length = 1) && distinct (ops.filterMap Op.dest)

/-- Every syllable decoded, or none. -/
def decodeAll : List Word → Option (List Op)
  | [] => some []
  | w :: ws =>
    match decodeSyl w, decodeAll ws with
    | some o, some os => some (o :: os)
    | _, _ => none

/-- The syllables of a bundle, or none where the bundle is illegal; `cm` is bundle mode (08 R227, R228, R245). -/
def decodeBundle (cm : Bool) (ws : List Word) : Option (List Op) :=
  if !(ws.getLastD 0).bit 31 then none
  else match decodeAll ws with
    | none => none
    | some ops => if !cm || slotsOk ops then some ops else none

/-! ## Fields of the frame stack's records (07 R203) -/

/-- A return word: the address, and CM in bit 0. -/
def returnWord (pc : Nat) (cm : Bool) : Word := BitVec.ofNat 32 (pc / 4 * 4 + cm.toNat)

/-- A call record. -/
def callRecord (ret fp : Word) (wb : Nat) : List Byte :=
  bytesLE 4 ret.toNat ++ bytesLE 4 fp.toNat ++ bytesLE 4 wb ++ bytesLE 4 0

/-- An entry record. -/
def entryRecord (ret fp psw : Word) (wb cause code : Nat) (impr : Bool) (addr : Nat) : List Byte :=
  bytesLE 4 ret.toNat ++ bytesLE 4 fp.toNat ++ bytesLE 4 psw.toNat ++ bytesLE 4 wb ++
    bytesLE 1 cause ++ bytesLE 1 code ++ bytesLE 1 impr.toNat ++ bytesLE 1 0 ++ bytesLE 4 addr ++ bytesLE 8 0

end Sys2Proof.Machine
end

