-- ==== Sys2Proof/Machine/Flags.lean ====
section
/-!
DEFINITION. Conditions and status of the Rook: no instruction sets a flag (08 R231); a compare writes 0 or 1 per element
(R232), a branch tests a whole register, and PSW holds CM, IE and EXL (07 R204).
-/

namespace Sys2Proof.Machine

/-- The condition of a compare on elements of width `w` (08 R234). -/
def Cmp.holds (f : Cmp) (w a b : Nat) : Bool :=
  match f with
  | .eq => a = b
  | .ne => a ≠ b
  | .lt => signedOf w a < signedOf w b
  | .ltu => a < b
  | .le => signedOf w a ≤ signedOf w b
  | .leu => a ≤ b

/-- BZ: the whole register is zero (08 R232). -/
def isZero (a : QWord) : Bool := a = 0

/-- PSW as a word. -/
def Rook.psw (r : Rook) : Word := BitVec.ofNat 32 (r.cm.toNat + 2 * r.ie.toNat + 4 * r.exl.toNat)

/-- The PSW-writing instruction, and RDATA: only IE is written (07 R204, R226). -/
def Rook.writePsw (r : Rook) (v : Word) : Rook := { r with ie := v.bit 1 }

/-- RETE: IE and EXL of the saved PSW, CM of the return word (07 R205). -/
def Rook.restorePsw (r : Rook) (psw ret : Word) : Rook := { r with ie := psw.bit 1, exl := psw.bit 2, cm := ret.bit 0 }

/-- Entry: EXL = 1, IE = 0, CM from ROOKDBG_VEC (07 R208). -/
def Rook.entryPsw (r : Rook) (vec : Word) : Rook := { r with ie := false, exl := true, cm := vec.bit 0 }

end Sys2Proof.Machine
end

