-- ==== Sys2Proof/Machine/Rook.lean ====
section
/-!
DEFINITION. The Rook: fetch, data operations, the address checks of loads and stores, calls and returns over the register
window, exceptions, entry, debug halts (07 R198–R225, 08 R227–R246). A bundle whose syllables make no fabric load issues and
retires in one command; one that does waits in `Rook.issued` for FABRIC_LOAD_RETURN (Bus.lean).
-/

namespace Sys2Proof.Machine

/-! ## Registers (07 R201) -/

def Rook.get (r : Rook) (n : Nat) : QWord := (SMap.get? r.file ((r.wb + n) % 512)).getD 0

def Rook.set (r : Rook) (n : Nat) (v : QWord) : Rook := { r with file := SMap.put 0 r.file ((r.wb + n) % 512) v }

/-- Bits [31:0] of a register: addresses, branch targets, scalars. -/
def Rook.low (r : Rook) (n : Nat) : Nat := (r.get n).toNat % 2 ^ 32

def Rook.special (r : Rook) : Special → Word
  | .sp => r.sp | .fp => r.fp | .psw => r.psw | .link => r.link

def Node.onRook (n : Node) (g : Rook → Rook) : Node := n.onK fun k => { k with rook := g k.rook }

/-! ## Data operations (08 R231–R234) -/

def Arith.eval (f : Arith) (w a b : Nat) : Nat :=
  match f with
  | .add => a + b
  | .sub => a + 2 ^ w - b
  | .and => a &&& b
  | .or => a ||| b
  | .xor => a ^^^ b
  | .andn => a &&& (2 ^ w - 1 - b)
  | .shl => a <<< (b % w)
  | .shr => a >>> (b % w)
  | .sar => toBits w (signedOf w a / (2 ^ (b % w) : Nat))
  | .min => if signedOf w a ≤ signedOf w b then a else b
  | .max => if signedOf w b ≤ signedOf w a then a else b
  | .minu => Nat.min a b
  | .maxu => Nat.max a b

def MulOp.eval (f : MulOp) (w a b : Nat) : Nat :=
  match f with
  | .lo => a * b
  | .hi => toBits w (signedOf w a * signedOf w b / (2 ^ w : Nat))
  | .hiu => a * b / 2 ^ w

def Unary.eval (f : Unary) (w a : Nat) : Nat :=
  match f with
  | .clz => if a = 0 then w else w - 1 - Nat.log2 a
  | .popc => ((List.range w).filter fun i => a.testBit i).length
  | .bswap => ofBytesBE (bytesLE (w / 8) a)

def ImmOp.eval (f : ImmOp) (a i : Nat) : Nat :=
  match f with
  | .add => a + i
  | .and => a &&& i
  | .or => a ||| i
  | .xor => a ^^^ i
  | .shl => a <<< i
  | .shr => a >>> i
  | .sar => toBits 32 (signedOf 32 a / (2 ^ i : Nat))
  | .eq => (Cmp.eq.holds 32 a i).toNat
  | .lt => (Cmp.lt.holds 32 a i).toNat
  | .ltu => (Cmp.ltu.holds 32 a i).toNat

/-- What a class A or X syllable writes, from registers read before any write (07 R200). -/
def Rook.alu (r : Rook) : Op → Option (Nat × QWord)
  | .arith f e rd ra rb => some (rd, e.map2 (f.eval e.width) (r.get ra) (r.get rb))
  | .cmp f e rd ra rb => some (rd, e.map2 (fun a b => (f.holds e.width a b).toNat) (r.get ra) (r.get rb))
  | .mul f e rd ra rb => some (rd, e.map2 (f.eval e.width) (r.get ra) (r.get rb))
  | .unary f e rd ra => some (rd, e.map2 (fun a _ => f.eval e.width a) (r.get ra) 0)
  | .mov rd ra => some (rd, r.get ra)
  | .ins lane rd ra => some (rd, ofElems 32 ((List.range 4).map fun i =>
      if i = lane then r.low ra else elemAt 32 (r.get rd) i))
  | .ext lane rd ra => some (rd, BitVec.ofNat 128 (elemAt 32 (r.get ra) lane))
  | .splat rd ra => some (rd, ofElems 32 (List.replicate 4 (r.low ra)))
  | .sel rd rc ra rb => some (rd, ofElems 32 ((List.range 4).map fun i =>
      if elemAt 32 (r.get rc) i ≠ 0 then elemAt 32 (r.get ra) i else elemAt 32 (r.get rb) i))
  | .imm f rd ra i => some (rd, BitVec.ofNat 128 (f.eval (r.low ra) i % 2 ^ 32))
  | .movi rd i => some (rd, BitVec.ofNat 128 i)
  | .movhi rd i => some (rd, BitVec.ofNat 128 (i * 2 ^ 14 + r.low rd % 2 ^ 14))
  | .mfs rd x => some (rd, (r.special x).setWidth 128)
  | .nop | .load .. | .store .. | .fence | .bz .. | .bnz .. | .j _ | .call _ | .jr _ | .callr _ | .ret | .jmpx _
  | .callx _ | .rete | .trap _ | .brk | .wait | .isync | .mts .. => none

/-! ## Addresses (07 R199) -/

inductive Zone where
  | iram | dtcm | sram | bitSet | bitClear | regs
deriving DecidableEq, Repr

def zoneOf (a : Nat) : Option Zone :=
  if a < 0x40000 then some .iram
  else if 0x100000 ≤ a ∧ a < 0x140000 then some .dtcm
  else if 0x01000000 ≤ a ∧ a < 0x01400000 then some .sram
  else if 0x01400000 ≤ a ∧ a < 0x01800000 then some .bitSet
  else if 0x01800000 ≤ a ∧ a < 0x01C00000 then some .bitClear
  else if 0x08000000 ≤ a ∧ a < 0x08100000 then some .regs
  else none

/-- The SRAM address behind an address of SRAM or of its aliases (06 R173). -/
def sramOf (ar : Zone) (a : Nat) : Nat :=
  match ar with
  | .bitSet => a - 0x400000
  | .bitClear => a - 0x800000
  | .iram | .dtcm | .sram | .regs => a

/-- IRAM and DTCM are reached at M, everything else through the fabric. -/
def Zone.fabric : Zone → Bool
  | .iram | .dtcm => false
  | .sram | .bitSet | .bitClear | .regs => true

def Zone.core : Zone → MemKind
  | .iram => .iram
  | .dtcm | .sram | .bitSet | .bitClear | .regs => .dtcm

/-- A load or store of a syllable: for a load the destination and its extension, for a store the source. -/
structure Access where
  addr   : Nat
  len    : Nat
  store  : Bool
  signed : Bool
  reg    : Nat
deriving DecidableEq, Repr

def Rook.access (r : Rook) : Op → Option Access
  | .load len sg rd ra off => some ⟨(r.low ra + off) % 2 ^ 32, len, false, sg, rd⟩
  | .store len rd ra off => some ⟨(r.low ra + off) % 2 ^ 32, len, true, false, rd⟩
  | _ => none

/-- LEDGER_MARK (07 R212). -/
def markAddr : Nat := 0x08001070

def Access.isMark (x : Access) : Bool := x.store && x.addr = markAddr && x.len = 4

/-- A fabric store that goes through the store buffer. -/
def Access.posted (x : Access) : Bool :=
  x.store && !x.isMark && (match zoneOf x.addr with | some ar => ar.fabric | none => false)

/-- A load that waits for the fabric. -/
def Access.fabricLoad (x : Access) : Bool :=
  !x.store && (match zoneOf x.addr with | some ar => ar.fabric | none => false)

/-- The words a register access touches: split where it is aligned words, none where R69 refuses it. A double-word at a
multiple of 4 that is none of 8 is split too (DESIGN CHOICE, log entry 53). -/
def regWords (a len : Nat) : Option (List Nat) :=
  if len % 4 = 0 ∧ a % 4 = 0 then some ((List.range (len / 4)).map fun i => a + 4 * i) else none

/-! ## Exceptions (07 R206, R207) -/

def xEVENT : Nat := 0
def xILLEGAL : Nat := 1
def xFETCH : Nat := 2
def xALIGN : Nat := 3
def xDENY : Nat := 4
def xECC : Nat := 5
def xUNMAPPED : Nat := 6
def xWINDOW : Nat := 7
def xSTACK : Nat := 8
def xTRAP : Nat := 9
def xBREAK : Nat := 10

/-- An exception: its cause and fault address, the code of its record, whether a refused access was a store, the uncorrectable
word to report, and whether only the fabric finds it. -/
structure Exc where
  cause : Nat
  addr  : Nat := 0
  code  : Nat := 0
  wr    : Bool := false
  ue    : Option Nat := none
  late  : Bool := false
deriving DecidableEq, Repr

/-- The first uncorrectable word of a range of a memory, as an ECC exception of the access at `a` (06 R191). -/
def Channel.eccExc (k : Channel) (kind : MemKind) (a len addr : Nat) (late : Bool) : Option Exc :=
  match eccIn k.ecc.ue kind a len with
  | [] => none
  | e :: _ => some { cause := xECC, addr := addr, ue := some (max a e.2), late := late }

/-- Mailbox words with an uncorrectable error that a register load would read. -/
def Channel.badMail (k : Channel) (a len : Nat) : Option Nat :=
  match regWords a len with
  | none => none
  | some ws => ws.find? fun x => 0x08005200 ≤ x && x < 0x080057C0 && k.mailBad (x - 0x08005000)

/-- The fault of a load or store (07 R199, R207, R221). -/
def Channel.accFault (k : Channel) (x : Access) : Option Exc :=
  if 16 < x.addr % 16 + x.len then some { cause := xALIGN, addr := x.addr }
  else match zoneOf x.addr with
    | none => some { cause := xUNMAPPED, addr := x.addr }
    | some .iram => if x.store && x.len = 16 then none else k.eccExc .iram x.addr x.len x.addr false
    | some .dtcm => if x.store && x.len = 16 then none else k.eccExc .dtcm x.addr x.len x.addr false
    | some .regs =>
      if x.store then none
      else match k.badMail x.addr x.len with
        | some a => some { cause := xECC, addr := x.addr, ue := some a, late := true }
        | none => none
    | some ar =>
      let a := sramOf ar x.addr
      if k.grant mROOK a x.len x.store = .refused then some { cause := xDENY, addr := x.addr, wr := x.store }
      else if x.store then none
      else k.eccExc .sram a x.len x.addr true

/-! ## The window (07 R202, R203) -/

/-- Sizes of the frames, oldest first, that must spill so that at most 512 registers are resident below `top`. -/
def spillSizes (top : Nat) : Nat → List Nat → List Nat
  | _, [] => []
  | rb, f :: fs => if top - rb ≤ 512 then [] else f :: spillSizes top (rb + f) fs

/-- The frames that a move of WB by `size` spills. -/
def Rook.toSpill (r : Rook) (size : Nat) : List Nat := spillSizes (r.wb + size + 64) r.resbase (r.frames ++ [size])

def Channel.spillBase (k : Channel) : Nat := (k.reg pgROOKDBG 0x058).toNat
def Channel.spillLimit (k : Channel) : Nat := (k.reg pgROOKDBG 0x05C).toNat

/-- The fault of a call (07 R207): its record outside the frame stack, its spill beyond the spill area. -/
def Channel.callFault (k : Channel) : Option Exc :=
  let r := k.rook
  let rcd := (r.sp - 16).toNat
  if rcd < (k.reg pgROOKDBG 0x054).toNat || !inDtcm rcd 16 then some { cause := xSTACK }
  else
    let n := (r.toSpill 48).sum
    if 0 < n && k.spillLimit < r.spillPtr.toNat + 16 * n then some { cause := xWINDOW, addr := r.spillPtr.toNat } else none

/-- The registers a return of `size` brings back from the spill area. -/
def Rook.toFill (r : Rook) (size : Nat) : Nat := r.resbase - (r.wb - size)

/-- The fault of a return of `size` registers with a record of `len` bytes at SP (07 R202, R205, R207, R221). -/
def Channel.retFault (k : Channel) (size len : Nat) : Option Exc :=
  let r := k.rook
  let sp := r.sp.toNat
  if !inDtcm sp len then some { cause := xSTACK }
  else match k.eccExc .dtcm sp len sp false with
    | some x => some x
    | none =>
      let n := 16 * r.toFill size
      if r.wb < size then some { cause := xWINDOW }
      else if 0 < n && r.spillPtr.toNat < k.spillBase + n then some { cause := xWINDOW }
      else k.eccExc .dtcm (r.spillPtr.toNat - n) n (r.spillPtr.toNat - n) false

/-- ROOKDBG_CTRL.DBGEN as it acts: 0 under the debug lock (07 R223). -/
def Node.dbgen (n : Node) : Bool := (n.reg pgROOKDBG 0x040).bit 3 && !n.lock

/-- The fault of a syllable. -/
def Node.opFault (n : Node) (o : Op) : Option Exc :=
  match o with
  | .load .. | .store .. =>
    match n.k.rook.access o with
    | some x => n.k.accFault x
    | none => none
  | .call _ | .callr _ | .callx _ => n.k.callFault
  | .ret => n.k.retFault 48 16
  | .rete => n.k.retFault 64 32
  | .brk => if n.dbgen then none else some { cause := xBREAK }
  | _ => none

/-- The fault of a bundle: that of its lowest faulting syllable (08 R246). -/
def Node.opsFault (n : Node) (ops : List Op) : Option Exc := ops.findSome? n.opFault

/-! ## Fetch (07 R199, R207, 08 R228, R244, R245) -/

/-- A syllable as fetch sees it: a byte stored by the Rook since the last ISYNC in its old form; none where it cannot be
fetched. -/
def Channel.syllable (k : Channel) (a : Nat) : Option Word :=
  if a + 4 ≤ 0x40000 && (eccIn k.ecc.ue .iram a 4).isEmpty then
    some (BitVec.ofNat 32 (ofBytesLE ((List.range 4).map fun i =>
      (SMap.get? k.iramStale (a + i)).getD (k.iram.get (a + i)))))
  else none

/-- The syllables of a bundle from an address, at most `fuel` of them, and the address that could not be fetched. -/
def Channel.bundleAt (k : Channel) (a : Nat) : Nat → List Word × Option Nat
  | 0 => ([], none)
  | fuel + 1 =>
    match k.syllable a with
    | none => ([], some a)
    | some w =>
      if w.bit 31 then ([w], none)
      else
        let (ws, bad) := k.bundleAt (a + 4) fuel
        (w :: ws, bad)

/-- The exception of a fetch that failed at `a`. -/
def Channel.fetchExc (k : Channel) (a : Nat) : Exc :=
  { cause := xFETCH, addr := a,
    ue := match eccIn k.ecc.ue .iram a 4 with
      | e :: _ => if a + 4 ≤ 0x40000 then some (max a e.2) else none
      | [] => none }

/-- The bundle at the PC: its syllables and operations, or the exception of its fetch or decoding. -/
def Node.bundle (n : Node) : Exc ⊕ (List Word × List Op) :=
  let r := n.k.rook
  match n.k.bundleAt r.pc.toNat (if r.cm then 4 else 1) with
  | (_, some a) => .inl (n.k.fetchExc a)
  | (ws, none) =>
    match decodeBundle r.cm ws with
    | none => .inl { cause := xILLEGAL }
    | some ops => .inr (ws, ops)

/-! ## Debug halts (07 R225) -/

/-- The Rook halts. -/
def Node.rookHalt (n : Node) (why : Nat) : Node :=
  n.onRook fun r => { r with halted := true, why := why, step := false, haltReq := false }

/-- After a bundle or an entry: the end of a debug step, a halt that waited. -/
def Node.settle (n : Node) : Node :=
  let r := n.k.rook
  if r.halted then n.onRook fun r => { r with step := false, haltReq := false }
  else if r.step then n.rookHalt 2
  else if r.haltReq then n.rookHalt 1
  else n

/-- A breakpoint on the bundle at the PC. -/
def Node.breakHit (n : Node) : Bool :=
  let r := n.k.rook
  n.dbgen && !r.bpSkip && !r.step &&
    [0x0A0, 0x0A4, 0x0A8, 0x0AC].any fun o =>
      let w := n.reg pgROOKDBG o
      w.bit 0 && w.toNat / 4 = r.pc.toNat / 4

/-- A watchpoint on an access. -/
def Node.watchHit (n : Node) (x : Access) : Bool :=
  n.dbgen && [0x0C0, 0x0C8].any fun o =>
    let w := n.reg pgROOKDBG (o + 4)
    let size := 2 ^ w.field 4 4
    let base := (n.reg pgROOKDBG o).toNat / size * size
    w.bit 0 && (if x.store then w.bit 2 else w.bit 1) && x.addr < base + size && base < x.addr + x.len

/-! ## Entry (07 R208, R220) -/

/-- A double fault: the Rook stops. -/
def Node.doubleFault (n : Node) (addr : Nat) : Node :=
  (n.onRook fun r => { r with fatal := true, halted := true, why := 6, step := false, haltReq := false }).fault
    pgROOKDBG 0x12 0 (BitVec.ofNat 32 addr)

/-- Registers as they lie in the spill area. -/
def Rook.frameBytes (r : Rook) (start n : Nat) : List Byte :=
  (List.range n).flatMap fun i => bytesLE 16 ((SMap.get? r.file ((start + i) % 512)).getD 0).toNat

/-- WB rises by `size`, and the oldest frames spill (07 R202). -/
def Node.pushFrame (n : Node) (size : Nat) : Node :=
  let r := n.k.rook
  let fs := r.toSpill size
  let (n, _) := if fs.isEmpty then (n, .ok []) else
    n.coreWrite .dtcm 0 r.spillPtr.toNat ((r.frameBytes r.resbase fs.sum).map some)
  n.onRook fun r => { r with wb := r.wb + size, resbase := r.resbase + fs.sum,
                             frames := (r.frames ++ [size]).drop fs.length,
                             spillPtr := r.spillPtr + BitVec.ofNat 32 (16 * fs.sum) }

/-- Entry for an exception or an event: spill, record, PSW, vector. -/
def Node.enter (n : Node) (x : Exc) (ret : Word) (impr : Bool) : Node :=
  let r := n.k.rook
  let rcd := (r.sp - 32).toNat
  if x.cause ≠ xEVENT && r.exl then n.doubleFault x.addr
  else if !inDtcm rcd 32 then n.doubleFault rcd
  else if !inDtcm r.spillPtr.toNat (16 * (r.toSpill 64).sum) then n.doubleFault r.spillPtr.toNat
  else
    let n := n.pushFrame 64
    let (n, _) := n.coreWrite .dtcm 0 rcd ((entryRecord ret r.fp r.psw r.wb x.cause x.code impr x.addr).map some)
    let vec := n.reg pgROOKDBG 0x050
    n.onRook fun r =>
      { r.entryPsw vec with sp := BitVec.ofNat 32 rcd, fp := BitVec.ofNat 32 rcd, waiting := false, bpSkip := false,
                            pc := BitVec.ofNat 32 (vec.toNat / 0x400 * 0x400 + 64 * x.cause) }

/-- The return word that names the next bundle. -/
def Rook.here (r : Rook) : Word := returnWord r.pc.toNat r.cm

/-- What a faulting bundle reports besides its exception (06 R190, R191, 07 R221). -/
def Node.report (n : Node) (x : Exc) : Node :=
  let n := match x.ue with
    | some a => n.eccUe 0 a
    | none => n
  if x.cause = xDENY then n.deny mROOK 0 x.addr x.wr else n

/-- A bundle faults: it takes no effect and the exception enters (07 R206). -/
def Node.except (n : Node) (x : Exc) : Node := ((n.report x).enter x n.k.rook.here false).settle

/-! ## Retiring a bundle (07 R200, R205, R206, 08 R242) -/

/-- The value a load gives its register (08 R235). -/
def loadValue (x : Access) (bs : List Byte) : QWord :=
  if x.signed then BitVec.ofNat 128 (sext (8 * x.len) (ofBytesLE bs)) else BitVec.ofNat 128 (ofBytesLE bs)

/-- The loads of a bundle in syllable order, fabric loads by `fab`. -/
def Node.loads (n : Node) (fab : Node → Nat → Nat → Node × List Byte) : List Access → Node × List (Nat × QWord)
  | [] => (n, [])
  | x :: xs =>
    if x.store then n.loads fab xs
    else
      let (n, bs) :=
        if x.fabricLoad then fab n x.addr x.len
        else
          let (n, m) := n.coreRead (match zoneOf x.addr with | some .iram => .iram | _ => .dtcm) 0 x.addr x.len
          (n, match m with | .ok bs => bs | .denied | .ecc => [])
      let (n, vs) := n.loads fab xs
      (n, (x.reg, loadValue x bs) :: vs)

/-- Bytes stored to IRAM are fetched in their old form until ISYNC (07 R199, 08 R244). -/
def Channel.keepOld (k : Channel) (a len : Nat) : Channel :=
  { k with iramStale := (List.range len).foldl (fun m i =>
      if (SMap.get? m (a + i)).isSome then m else SMap.ins m (a + i) (k.iram.get (a + i))) k.iramStale }

/-- The store of a bundle: to IRAM and DTCM at M, everything else posted; the done mark went when the bundle issued. -/
def Node.doStore (n : Node) (x : Access) (v : QWord) : Node :=
  let bs := bytesLE x.len v.toNat
  if x.isMark then n
  else if x.posted then n.onRook fun r => { r with sb := r.sb ++ [⟨BitVec.ofNat 32 x.addr, bs⟩] }
  else match zoneOf x.addr with
    | some .iram => ((n.onK fun k => k.keepOld x.addr x.len).coreWrite .iram 0 x.addr (bs.map some)).1
    | some .dtcm => (n.coreWrite .dtcm 0 x.addr (bs.map some)).1
    | _ => n

/-- A call: the record, SP, FP, LINK, the window; the target and CM are set apart. -/
def Node.doCall (n : Node) (ret : Word) : Node :=
  let r := n.k.rook
  let rcd := r.sp - 16
  let (n, _) := n.coreWrite .dtcm 0 rcd.toNat ((callRecord ret r.fp r.wb).map some)
  (n.onRook fun r => { r with sp := rcd, fp := rcd, link := ret }).pushFrame 48

/-- The resident frames below a WB that a return has reached: those of `frames`, oldest first, cut so that they end there. -/
def cutFrames : Nat → List Nat → List Nat
  | 0, _ => []
  | t, [] => [t]
  | t, f :: fs => if t < f then [t] else f :: cutFrames (t - f) fs

/-- WB falls by `size`; the frame returned to is filled where it had spilled (07 R202). -/
def Node.popFrame (n : Node) (size : Nat) : Node :=
  let r := n.k.rook
  let cnt := r.toFill size
  let wb := r.wb - size
  if cnt = 0 then n.onRook fun r => { r with wb := wb, frames := cutFrames (wb - r.resbase) r.frames }
  else
    let a := r.spillPtr.toNat - 16 * cnt
    let (n, m) := n.coreRead .dtcm 0 a (16 * cnt)
    let bs := match m with | .ok bs => bs | .denied | .ecc => []
    n.onRook fun r =>
      { r with wb := wb, resbase := wb, frames := [], spillPtr := BitVec.ofNat 32 a,
               file := (List.range cnt).foldl (fun f i =>
                 SMap.put 0 f ((wb + i) % 512) (BitVec.ofNat 128 (ofBytesLE (slice bs (16 * i) 16)))) r.file }

/-- The record at SP, word by word. -/
def Node.readRecord (n : Node) (len : Nat) : Node × (Nat → Word) :=
  let (n, m) := n.coreRead .dtcm 0 n.k.rook.sp.toNat len
  (n, fun i => wordAt (match m with | .ok bs => bs | .denied | .ecc => []) (4 * i))

/-- A return: SP, FP, LINK, the window, and the return address with its CM. -/
def Node.doReturn (n : Node) (size len : Nat) (recd : Nat → Word) (rete : Bool) : Node :=
  let n := n.onRook fun r =>
    let r := { r with sp := r.sp + BitVec.ofNat 32 len, fp := recd 1 }
    if rete then r.restorePsw (recd 2) (recd 0) else { r with cm := (recd 0).bit 0 }
  (n.popFrame size).onRook fun r => { r with link := recd 0, pc := BitVec.ofNat 32 ((recd 0).toNat / 4 * 4) }

/-- A jump to an address, its two low bits ignored (08 R233). -/
def Node.jump (n : Node) (a : Nat) : Node := n.onRook fun r => { r with pc := BitVec.ofNat 32 (a % 2 ^ 32 / 4 * 4) }

/-- MTS (08 R237). -/
def Rook.writeSpecial (r : Rook) (x : Special) (v : Nat) : Rook :=
  match x with
  | .sp => { r with sp := BitVec.ofNat 32 (v / 16 * 16) }
  | .fp => { r with fp := BitVec.ofNat 32 (v / 16 * 16) }
  | .psw => r.writePsw (BitVec.ofNat 32 v)
  | .link => r

/-- EVT_ROOKPEND as one number. -/
def Channel.rookPend (k : Channel) : Nat := (k.reg pgEVT 0x040).toNat + 2 ^ 32 * (k.reg pgEVT 0x044).toNat

/-- The control or system operation that ends a bundle. `r` is the Rook before the bundle, `a` the address of the syllable,
`ret` the return word of the next bundle; the PC names the next bundle already. -/
def Node.control (n : Node) (r : Rook) (o : Op) (a : Nat) (ret : Word) (recd : Nat → Word) : Node :=
  match o with
  | .bz rt off => if isZero (r.get rt) then n.jump (a + 4 * off) else n
  | .bnz rt off => if isZero (r.get rt) then n else n.jump (a + 4 * off)
  | .j off => n.jump (a + 4 * off)
  | .call off => (n.doCall ret).jump (a + 4 * off)
  | .jr ra => n.jump (r.low ra)
  | .callr ra => (n.doCall ret).jump (r.low ra)
  | .ret => n.doReturn 48 16 recd false
  | .jmpx ra => (n.jump (r.low ra)).onRook fun x => { x with cm := (r.low ra) % 2 = 1 }
  | .callx ra => ((n.doCall ret).jump (r.low ra)).onRook fun x => { x with cm := (r.low ra) % 2 = 1 }
  | .rete => n.doReturn 64 32 recd true
  | .mts x ra => n.onRook fun y => y.writeSpecial x (r.low ra)
  | .isync => n.onK fun k => { k with iramStale := [] }
  | .wait => n.onRook fun x => { x with waiting := n.k.rookPend = 0 }
  | .brk => n.rookHalt 5
  | .trap code => n.enter { cause := xTRAP, code := code } ret false
  | _ => n

/-- The record a bundle's return reads, before anything is written. -/
def Node.recordOf (n : Node) (ops : List Op) : Node × (Nat → Word) :=
  match ops.getLast? with
  | some .ret => n.readRecord 16
  | some .rete => n.readRecord 32
  | _ => (n, fun _ => 0)

/-- A bundle without fault takes effect; `vals` are its loads. -/
def Node.retire (n : Node) (ops : List Op) (vals : List (Nat × QWord)) : Node :=
  let r := n.k.rook
  let xs := ops.filterMap r.access
  let a := r.pc.toNat
  let next := a + 4 * ops.length
  let (n, recd) := n.recordOf ops
  let n := n.onRook fun x => (ops.filterMap r.alu ++ vals).foldl (fun x v => x.set v.1 v.2) x
  let n := (xs.filter Access.store).foldl (fun n x => n.doStore x (r.get x.reg)) n
  let n := n.onRook fun x => { x with pc := BitVec.ofNat 32 next, lastPc := r.pc, lastCm := r.cm, issued := [], loadTick := none }
  let n := match ops.getLast? with
    | some o => n.control r o (next - 4) (returnWord next r.cm) recd
    | none => n
  (if xs.any n.watchHit then n.rookHalt 4 else n).settle

/-! ## A bundle boundary (07 R209, R210, R216) -/

/-- What happens at a bundle boundary. -/
inductive Turn where
  | none
  | stop (why : Nat)
  | except (x : Exc)
  | impr (cause : Nat) (addr : Word)
  | event
  | issue (ws : List Word) (ops : List Op)
deriving DecidableEq, Repr

/-- An event may enter: pending, IE 1, EXL 0 (07 R209). -/
def Channel.eventReady (k : Channel) : Bool := k.rookPend ≠ 0 && k.rook.ie && !k.rook.exl

/-- The Rook stands at a bundle boundary. -/
def Channel.atBoundary (k : Channel) : Bool :=
  let r := k.rook
  k.running && r.running && !r.halted && !r.fatal && r.issued.isEmpty && !(r.waiting && k.rookPend = 0)

/-- Issue stalls: a fabric store and a full store buffer, FENCE and a store buffer that is not empty (07 R200, 08 R235). -/
def Node.stalls (n : Node) (ops : List Op) : Bool :=
  let r := n.k.rook
  (ops.contains .fence && !r.sb.isEmpty) || (8 ≤ r.sb.length && (ops.filterMap r.access).any Access.posted)

/-- The choice of R216. -/
def Node.boundary (n : Node) : Turn :=
  if !n.k.atBoundary then .none
  else if n.breakHit then .stop 3
  else
    let entry := match n.k.rook.impr with
      | some (c, a) => Turn.impr c a
      | none => if n.k.eventReady then .event else .none
    match n.bundle with
    | .inl x => .except x
    | .inr (ws, ops) =>
      match n.opsFault ops with
      | some x => if x.late then (if entry = .none then .issue ws ops else entry) else .except x
      | none => if entry ≠ .none then entry else if n.stalls ops then .none else .issue ws ops

/-- The syllables fetched from the PC, their correctable errors corrected (07 R221). -/
def Node.fetched (n : Node) (cnt : Nat) : Node := n.correct .iram n.k.rook.pc.toNat (4 * cnt)

/-- A bundle issues: it is charged to its tick (07 R211), presents its done mark (R212), and retires unless a fabric load is
outstanding. -/
def Node.issue (n : Node) (ws : List Word) (ops : List Op) : Node :=
  let xs := ops.filterMap n.k.rook.access
  let tick := (n.k.wh.count, n.k.led.done)
  let marks := xs.any Access.isMark && (n.opsFault ops).isNone
  let n := n.fetched ws.length
  let n := n.onK fun k => { k with led := k.led.bundle, rook := { k.rook with waiting := false, bpSkip := false } }
  let n := if marks then n.ledgerMark else n
  if xs.any Access.fabricLoad then n.onRook fun r => { r with issued := ws, loadTick := some tick }
  else
    let (n, vals) := n.loads (fun n _ _ => (n, [])) xs
    n.retire ops vals

/-- The lowest pending event (03 R81). -/
def Channel.lowestPend (k : Channel) : Nat := ((List.range 48).find? fun i => k.rookPend.testBit i).getD 0

/-- The event with the lowest k enters (07 R209). -/
def Node.eventEnter (n : Node) : Node :=
  (n.enter { cause := xEVENT, code := n.k.lowestPend } n.k.rook.here false).settle

/-- The imprecise fault enters (07 R206). -/
def Node.imprEnter (n : Node) (cause : Nat) (addr : Word) : Node :=
  ((n.onRook fun r => { r with impr := none }).enter { cause := cause, addr := addr.toNat } n.k.rook.here true).settle

/-- What a bundle that faults has read by then: its syllables, and the record of the return that faults behind it; their
correctable errors are corrected (07 R221). -/
def Node.faultReads (n : Node) (x : Exc) : Node :=
  let record := fun (n : Node) (size len : Nat) =>
    let sp := n.k.rook.sp.toNat
    if n.k.retFault size len = some x && inDtcm sp len && (eccIn n.k.ecc.ue .dtcm sp len).isEmpty then n.correct .dtcm sp len
    else n
  let read := match n.bundle with
    | .inr (_, ops) => (match ops.getLast? with
      | some .ret => record n 48 16
      | some .rete => record n 64 32
      | _ => n)
    | .inl _ => n
  read.fetched (n.k.bundleAt n.k.rook.pc.toNat (if n.k.rook.cm then 4 else 1)).1.length

/-- BUNDLE_ISSUE: the bundle at the PC issues, faults, or hits its breakpoint; where an entry comes first nothing issues. -/
def Node.bundleIssue (n : Node) : Node :=
  match n.boundary with
  | .stop why => n.rookHalt why
  | .except x => (n.faultReads x).except x
  | .issue ws ops => n.issue ws ops
  | .none | .impr _ _ | .event => n

/-- STEP while halted: one bundle issues, or an entry is made, and the Rook halts again (07 R225). -/
def Node.debugStep (n : Node) : Node :=
  let n := n.onRook fun r => { r with halted := false, step := true, bpSkip := true }
  match n.boundary with
  | .impr c a => n.imprEnter c a
  | .event => n.eventEnter
  | .none | .stop _ | .except _ | .issue _ _ => n.bundleIssue

/-- RESUME while halted. -/
def Node.rookResume (n : Node) : Node := n.onRook fun r => { r with halted := false, bpSkip := true }

/-- HALT: at once at a boundary, after the bundle with an outstanding load otherwise. -/
def Node.haltAsk (n : Node) : Node :=
  let r := n.k.rook
  if !(n.k.running && r.running) || r.halted || r.fatal then n
  else if r.issued.isEmpty then n.rookHalt 1
  else n.onRook fun r => { r with haltReq := true }

/-! ## The commands -/

/-- The Rook reaches a bundle boundary and issues the next bundle. -/
def execBundleIssue (c : Ch) (s : State) : Out := .next (s.within c Node.bundleIssue)

/-- An event enters at the boundary; one that may not changes nothing (log entry 3). -/
def execEventEntry (c : Ch) (s : State) : Out :=
  .next (s.within c fun n => match n.boundary with
    | .event => n.eventEnter
    | .none | .stop _ | .except _ | .impr _ _ | .issue _ _ => n)

/-- A pending imprecise fault enters at the boundary. -/
def execImpreciseFaultEntry (c : Ch) (s : State) : Out :=
  .next (s.within c fun n => match n.boundary with
    | .impr cause a => n.imprEnter cause a
    | .none | .stop _ | .except _ | .event | .issue _ _ => n)

/-- A WAIT ends when an event is pending (07 R210). -/
def execWaitEnd (c : Ch) (s : State) : Out :=
  .next (s.within c fun n =>
    if n.k.running && n.k.rookPend ≠ 0 then n.onRook fun r => { r with waiting := false } else n)

end Sys2Proof.Machine
end

