-- ==== Sys2Proof/Machine/RookDbg.lean ====
section
/-!
DEFINITION. The ROOKDBG page (07 R215, R222–R226): who may write what, the debug lock, and access to the Rook's registers.
-/

namespace Sys2Proof.Machine

/-! ## RDATA (07 R226) -/

def Channel.rselSpace (k : Channel) : Nat := (k.reg pgROOKDBG 0x070).field 9 2
def Channel.rselIndex (k : Channel) : Nat := (k.reg pgROOKDBG 0x070).field 0 9

/-- The selected register, a special one in bits [31:0]. -/
def Channel.rselected (k : Channel) : QWord :=
  match k.rselSpace with
  | 0 => k.rook.get (k.rselIndex % 64)
  | 1 => (k.rook.special (specialOf (k.rselIndex % 4))).setWidth 128
  | _ => (SMap.get? k.rook.file k.rselIndex).getD 0

/-- Word j of the selected register. -/
def Channel.rdata (k : Channel) (j : Nat) : Word := BitVec.ofNat 32 (elemAt 32 k.rselected j)

/-- A word written into a register. -/
def putLane (q : QWord) (j : Nat) (v : Word) : QWord :=
  ofElems 32 ((List.range 4).map fun i => if i = j then v.toNat else elemAt 32 q i)

/-- A special register written through RDATA0: SP and FP whole, of PSW only IE, LINK not at all (07 R203, R226). -/
def Rook.dbgSpecial (r : Rook) (x : Special) (v : Word) : Rook :=
  match x with
  | .sp => { r with sp := v }
  | .fp => { r with fp := v }
  | .psw => r.writePsw v
  | .link => r

/-- RDATAj written while halted; a value for SP that is not 16-byte aligned is reserved (07 R226). -/
def Node.rdataWrite (n : Node) (snd : Sender) (j : Nat) (v : Word) : Node :=
  let k := n.k
  match k.rselSpace with
  | 0 => n.onRook fun r => r.set (k.rselIndex % 64) (putLane k.rselected j v)
  | 1 =>
    let x := specialOf (k.rselIndex % 4)
    if j ≠ 0 then n
    else if x = .sp && v.toNat % 16 ≠ 0 then n.regFault snd pgROOKDBG 0x080 cRSVD
    else n.onRook fun r => r.dbgSpecial x v
  | _ => n.onRook fun r => { r with file := SMap.put 0 r.file k.rselIndex (putLane k.rselected j v) }

/-! ## Writes (07 R215, R222, R223) -/

/-- The registers a debugger alone writes. -/
def isDebugReg (off : Nat) : Bool :=
  off = 0x040 || off = 0x070 || inWords off 0x080 4 || inWords off 0x0A0 4 || inWords off 0x0C0 4

/-- ROOKDBG_CTRL: DBGEN, then RESUME and STEP of a halted Rook or HALT of one that is not. Under the lock a write of HALT,
STEP or DBGEN is refused and RESUME acts. -/
def Node.rookCtrl (n : Node) (snd : Sender) (v : Word) : Node :=
  let halted := n.k.rook.halted
  let fatal := n.k.rook.fatal
  let locked := n.lock
  let n := if locked then
      (if v.field 0 4 &&& 0xD ≠ 0 then n.regFault snd pgROOKDBG 0x040 0x10 else n)
    else n.setField pgROOKDBG 0x040 3 1 (v.field 3 1)
  if fatal || !n.k.running then n
  else if halted then
    (if v.bit 1 then n.rookResume else if v.bit 2 && !locked then n.debugStep else n)
  else if v.bit 0 && !locked then n.haltAsk else n

/-- SPILLBASE: refused while frames are spilled; an accepted value is SPILLPTR too (07 R215). -/
def Node.spillBaseWrite (n : Node) (snd : Sender) (v : Word) : Node :=
  if n.k.rook.spillPtr ≠ n.reg pgROOKDBG 0x058 then n.regFault snd pgROOKDBG 0x058 cSTATE
  else if n.k.rejects pgROOKDBG 0x058 v then n.regFault snd pgROOKDBG 0x058 cRSVD
  else (n.setReg pgROOKDBG 0x058 v).onRook fun r => { r with spillPtr := v }

/-- A register of the ROOKDBG page written. -/
def Node.rookDbgWrite (n : Node) (snd : Sender) (off : Nat) (v : Word) : Node :=
  if isDebugReg off && snd = .rook then n.regFault snd pgROOKDBG off cSENDER
  else if off = 0x040 then n.rookCtrl snd v
  else if isDebugReg off && n.lock then n.regFault snd pgROOKDBG off 0x10
  else if inWords off 0x080 4 then
    (if n.k.rook.halted then n.rdataWrite snd ((off - 0x080) / 4) v else n.regFault snd pgROOKDBG off 0x11)
  else if off = 0x058 then n.spillBaseWrite snd v
  else n.writeFields snd pgROOKDBG off v

/-! ## Reads -/

/-- ROOKDBG_STAT; a spill or a fill is over with the command that makes it (log entry 11). -/
def Rook.stat (r : Rook) : Word :=
  BitVec.ofNat 32 (r.halted.toNat + 2 * r.fatal.toNat + 8 * r.exl.toNat + 16 * r.why)

/-- A register of the ROOKDBG page read. -/
def Node.rookDbgRead (n : Node) (snd : Sender) (off : Nat) : Node × Word :=
  let r := n.k.rook
  if inWords off 0x080 4 then
    (if n.lock then (n, 0)
     else if r.halted then (n, n.k.rdata ((off - 0x080) / 4))
     else (n.regFault snd pgROOKDBG off 0x11, 0))
  else
    match off with
    | 0x040 => (n, if n.lock then 0 else n.k.view pgROOKDBG 0x040)
    | 0x044 => (n, r.stat)
    | 0x048 => (n, if r.halted then r.here else returnWord r.lastPc.toNat r.lastCm)
    | 0x04C => (n, r.psw)
    | 0x060 => (n, r.spillPtr)
    | 0x064 => (n, BitVec.ofNat 32 r.wb)
    | 0x068 => (n, BitVec.ofNat 32 r.resbase)
    | _ => (n, n.k.view pgROOKDBG off)

/-- A block reset of the page: its registers return to Reset, SPILLPTR with SPILLBASE, and a HALT or STEP that waits is gone.
STAT, PC, PSW, WB and RESBASE show the Rook, which is not part of the page and runs on (03 R73, log entry 33). -/
def Channel.rookDbgReset (k : Channel) : Channel :=
  { k.clearPage pgROOKDBG fun _ => false with
    rook := { k.rook with spillPtr := Rook.reset.spillPtr, haltReq := false, step := false } }

/-! ## The commands -/

/-- A write of ROOKDBG_CTRL.HALT. -/
def execHalt (snd : Sender) (c : Ch) (s : State) : Out :=
  .next (s.regCmd snd c pgROOKDBG 0x040 fun n =>
    n.rookDbgWrite snd 0x040 ((n.reg pgROOKDBG 0x040).setField 0 3 1))

/-- A write of ROOKDBG_CTRL.RESUME. -/
def execResume (snd : Sender) (c : Ch) (s : State) : Out :=
  .next (s.regCmd snd c pgROOKDBG 0x040 fun n =>
    n.rookDbgWrite snd 0x040 (if n.lock then 2 else (n.reg pgROOKDBG 0x040).setField 0 3 2))

/-- A write of ROOKDBG_CTRL.STEP. -/
def execDebugStep (snd : Sender) (c : Ch) (s : State) : Out :=
  .next (s.regCmd snd c pgROOKDBG 0x040 fun n =>
    n.rookDbgWrite snd 0x040 ((n.reg pgROOKDBG 0x040).setField 0 3 4))

/-- A read of ROOKDBG_RDATAj, or a write of it. -/
def execRdataAccess (snd : Sender) (c : Ch) (j : Fin 4) (w : Option Word) (s : State) : Out :=
  .next (match w with
    | none => s.regRead snd c pgROOKDBG (0x080 + 4 * j) fun n => n.rookDbgRead snd (0x080 + 4 * j)
    | some v => s.regCmd snd c pgROOKDBG (0x080 + 4 * j) fun n => n.rookDbgWrite snd (0x080 + 4 * j) v)

/-- A write of ROOKDBG_SPILLBASE. -/
def execSpillbaseWrite (snd : Sender) (c : Ch) (v : Word) (s : State) : Out :=
  .next (s.regCmd snd c pgROOKDBG 0x058 fun n => n.rookDbgWrite snd 0x058 v)

end Sys2Proof.Machine
end

