-- ==== Sys2Proof/Machine/Bus.lean ====
section
/-!
DEFINITION. The register fabric of a channel: every page's header and block registers written and read by a sender
(03 R69–R76, R85; 01 R40–R42), block reset and ENABLE (03 R73, R74), the event router's pending registers (R81, R82), a VF's
view (05 R141), and the Rook's loads and stores that go out to the fabric (07 R199, R206, R213, R219).
-/

namespace Sys2Proof.Machine

/-! ## Header (03 R71–R74, R94) -/

/-- A block's registers and engines return to Reset; its open items end ABORTED (03 R73, 17 R478). -/
def Node.blockReset (n : Node) (page : Nat) : Node :=
  let clear := fun (n : Node) => n.onK fun k => k.clearPage page fun _ => false
  match page with
  | 0x05 => n.mailReset
  | 0x06 => n.onK Channel.dieReset
  | 0x08 => n.onK Channel.rookDbgReset
  | 0x10 => (clear n).onK fun k => { k with pawn := Pawn.reset }
  | 0x20 => n.portReset .a
  | 0x21 => n.portReset .b
  | 0x22 => (clear n).onK fun k => { k with prp := { Prp.reset with pair := k.prp.pair, swaps := k.prp.swaps } }
  | 0x28 => n.clsReset
  | 0x30 => (clear (n.txEndAll stABORTED).dropQueues).onK fun k =>
      { k with txRings := Vector.replicate 16 TxRing.reset, gatesA := Gates.reset, gatesB := Gates.reset }
  | 0x31 => (clear n).onK fun k => { k with buckets := [] }
  | 0x40 => (clear (n.canStop .u0 stABORTED)).onK fun k => { k with can0 := Can.reset }
  | 0x41 => (clear (n.canStop .u1 stABORTED)).onK fun k => { k with can1 := Can.reset }
  | 0x48 => (clear (n.tpbHalt .u0 stABORTED)).onK fun k => { k with tpb0 := Tpb.reset }
  | 0x49 => (clear (n.tpbHalt .u1 stABORTED)).onK fun k => { k with tpb1 := Tpb.reset }
  | 0x50 => (clear (n.slbConfig stABORTED)).onK fun k => { k with slb := Slb.reset }
  | 0x60 => (clear (n.dmaEndAll stABORTED)).onK fun k => { k with dma := [] }
  | _ => n

/-- A write of 1 to BLKRESET is refused on pages that have none (03 R73), and on CLS while the pool or the exception ring is
enabled (12 R340). -/
def Channel.blkRefused (k : Channel) (page : Nat) : Bool :=
  noBlkReset.contains page || (page = pgCLS && (k.poolEn || (k.reg pgCLS 0x070).bit 0))

/-- ENABLE has been written: the block stops or starts. -/
def Node.enableChange (n : Node) (page : Nat) (was : Bool) : Node :=
  if was && !n.k.enabled page then n.blockDown page
  else if !was && n.k.enabled page && !n.k.busy page then n.blockUp page
  else n

/-- PG_CTRL written. A block reset that starts leaves nothing of the write; where BLKRESET is refused, or ignored because a
block reset runs (03 R73), the other fields act. -/
def Node.ctrlWrite (n : Node) (snd : Sender) (page : Nat) (w : Word) : Node :=
  if w.bit 2 && !n.k.blkRefused page && !n.k.busy page then (n.blockReset page).setReg page 0x004 2
  else
    let busy := n.k.busy page
    let refused := w.bit 2 && n.k.blkRefused page && !busy
    let n := (n.ctrlFields page w).enableChange page (n.k.enabled page)
    if refused then n.regFault snd page 0x008 cSTATE else n

/-- The information register that is cleared together with PG_FAULT (06 R195, 10 R290). -/
def Node.clearInfo (n : Node) (page : Nat) (w : Word) : Node :=
  if w.bit 31 && (page = pgREGION || page = pgCARRY) then n.setReg page 0x040 0 else n

/-- A header register written. -/
def Node.headerWrite (n : Node) (snd : Sender) (page off : Nat) (w : Word) : Node :=
  match off with
  | 0x008 => n.ctrlWrite snd page w
  | 0x00C => (n.faultWrite page w).clearInfo page w
  | 0x014 => n.eventsWrite page w
  | 0x018 => n.evmaskWrite page w
  | 0x01C => n.shadowCtlWrite page w
  | _ => n

/-- A header register read. -/
def Channel.headerRead (k : Channel) (page off : Nat) : Word :=
  match off with
  | 0x000 => pgId page (isShadowed page)
  | 0x004 => k.pgStat page 0
  | _ => k.view page off

/-- A block reset ends: BUSY clears, and a block enabled meanwhile starts. -/
def Node.blockResetEnd (n : Node) (page : Nat) : Node :=
  if n.k.running && n.k.busy page then
    let n := n.setReg page 0x004 0
    if n.k.enabled page then n.blockUp page else n
  else n

/-! ## CHCTL and EVT (01 R41, R42; 03 R81, R82, R95, R96; 04 R107, R130) -/

/-- A register of the CHCTL page written. -/
def Node.chctlWrite (n : Node) (snd : Sender) (off : Nat) (w : Word) : Node :=
  if off = 0x050 then n.rstReq snd w else n.writeFields snd pgCHCTL off w

/-- A register of the CHCTL page read. -/
def Node.chctlRead (n : Node) (off : Nat) : Word :=
  match off with
  | 0x040 => BitVec.ofNat 32 (n.c.num + 256 * (48 * n.c.num))
  | 0x054 => BitVec.ofNat 32 n.k.cause
  | _ => n.k.view pgCHCTL off

/-- The bits of a half of EVT_HOSTPEND routed to a function: FUNC 1 the PF, 1 + v VFv. -/
def Channel.routedTo (k : Channel) (func : Nat) (hi : Bool) : Word :=
  BitVec.ofNat 32 ((List.range (if hi then 16 else 32)).foldl (fun a i =>
    if (k.reg pgEVT (0x100 + 4 * (i + (if hi then 32 else 0)))).field 2 4 = func then a + 2 ^ i else a) 0)

def hostPendOff (hi : Bool) : Nat := if hi then 0x04C else 0x048

/-- A W1C write of EVT_HOSTPEND: the Rook clears any bit, the PF those of its own routes (03 R82). -/
def Node.hostPendClear (n : Node) (snd : Sender) (hi : Bool) (v : Word) : Node :=
  let off := hostPendOff hi
  let v := if hi then v &&& 0xFFFF else v
  let clear := fun (n : Node) (w : Word) => n.setReg pgEVT off (n.reg pgEVT off &&& ~~~w)
  if snd = .rook then clear n v
  else
    let own := n.k.routedTo 1 hi
    let n := clear n (v &&& own)
    if v &&& ~~~own = 0 then n else n.regFault snd pgEVT off cSENDER

/-- A W1C write of VFEV_PEND clears bits of this VF's routes only (05 R141); one that names other bits is recorded once with
SENDER (03 R82). -/
def Node.vfevClear (n : Node) (v : Fin 7) (hi : Bool) (w : Word) : Node :=
  let off := hostPendOff hi
  let w := if hi then w &&& 0xFFFF else w
  let own := n.k.routedTo (2 + v.val) hi
  let n := n.setReg pgEVT off (n.reg pgEVT off &&& ~~~(w &&& own))
  if w &&& ~~~own = 0 then n else n.regFault (.vf v) pgEVT off cSENDER

/-- VFEV_PEND: EVT_HOSTPEND masked to the events routed to this VF (05 R141). -/
def Channel.vfPend (k : Channel) (v : Fin 7) (hi : Bool) : Word :=
  k.reg pgEVT (hostPendOff hi) &&& k.routedTo (2 + v.val) hi

/-- A register of the EVT page written. -/
def Node.evtWrite (n : Node) (snd : Sender) (off : Nat) (w : Word) : Node :=
  match off with
  | 0x048 => n.hostPendClear snd false w
  | 0x04C => n.hostPendClear snd true w
  | _ => n.writeFields snd pgEVT off w

/-- A register of the EVT page read. -/
def Channel.evtRead (k : Channel) (off : Nat) : Word :=
  if inWords off 0x060 8 then k.faultMap ((off - 0x060) / 4) else k.view pgEVT off

/-! ## Block registers -/

/-- A block register of a page written. -/
def Node.blockWrite (n : Node) (snd : Sender) (page off : Nat) (w : Word) : Node :=
  match page with
  | 0x00 => n.chctlWrite snd off w
  | 0x01 => n.whistleWrite snd off w
  | 0x02 => n.evtWrite snd off w
  | 0x03 => n.memownWrite snd off w
  | 0x06 => n.dieWrite snd off w
  | 0x08 => n.rookDbgWrite snd off w
  | 0x10 => n.pawnWrite snd off w
  | 0x20 => n.ethWrite snd .a off w
  | 0x21 => n.ethWrite snd .b off w
  | 0x28 => n.clsWrite snd off w
  | 0x30 => n.shapeWrite snd off w
  | 0x31 => n.policeWrite snd off w
  | 0x40 => n.canWrite .u0 snd off w
  | 0x41 => n.canWrite .u1 snd off w
  | 0x48 => n.tpbWrite .u0 snd off w
  | 0x49 => n.tpbWrite .u1 snd off w
  | 0x50 => n.slbWrite snd off w
  | 0x60 => n.dmaWrite snd off w
  | 0x70 => n.timeWrite snd off w
  | 0xF0 => n.carryWrite snd off w
  | _ => n.writeFields snd page off w

/-- A block register of a page read. -/
def Node.blockRead (n : Node) (snd : Sender) (page off : Nat) : Node × Word :=
  match page with
  | 0x00 => (n, n.chctlRead off)
  | 0x01 => n.whistleRead off
  | 0x02 => (n, n.k.evtRead off)
  | 0x03 => n.memownRead off
  | 0x06 => (n, n.k.dieRead off)
  | 0x08 => n.rookDbgRead snd off
  | 0x10 => n.pawnRead snd off
  | 0x20 => n.ethRead .a off
  | 0x21 => n.ethRead .b off
  | 0x28 => (n, n.k.clsRead off)
  | 0x30 => (n, n.k.shapeRead off)
  | 0x31 => (n, n.k.policeRead off)
  | 0x40 => n.canRead .u0 off
  | 0x41 => n.canRead .u1 off
  | 0x48 => (n, n.k.tpbRead .u0 off)
  | 0x49 => (n, n.k.tpbRead .u1 off)
  | 0x50 => n.slbRead off
  | 0x60 => n.dmaRegRead off
  | 0x70 => n.timeRead off
  | 0xF0 => n.carryRead off
  | _ => (n, n.k.view page off)

/-! ## A word of a channel's register space (03 R69, R76, R85) -/

/-- An access to the PF's own view at 0x800 of the MBOX page, which no other sender reaches (06 R197). -/
def Node.pfView (n : Node) (snd : Sender) (off : Nat) (f : Node → Node) : Node :=
  if n.k.busy pgMBOX || snd = .pf then n.ownView snd off f else n.ownFault snd off cSENDER

/-- An access to an unimplemented page (03 R85). -/
def Node.unmapped (n : Node) (snd : Sender) (page off : Nat) : Node :=
  n.fault pgEVT cUNMAPPED snd.id (regAddr page off)

/-- A word written by a sender. PF4 writes no channel (01 R40). -/
def Node.pageWrite (n : Node) (snd : Sender) (page off : Nat) (w : Word) : Node :=
  if snd = .pf4 then n.fault pgCHCTL cSENDER snd.id (regAddr page off)
  else if !chanPages.contains page then n.unmapped snd page off
  else if page = pgMBOX && 0x040 ≤ off then
    (if off < ownBase then n.rookRegion snd off fun n => n.rookMailWrite off w
     else n.pfView snd (off - ownBase) fun n => n.ownMailWrite snd (off - ownBase) w)
  else n.access snd page off fun n => if off < 0x040 then n.headerWrite snd page off w else n.blockWrite snd page off w

/-- The MBOX page read through a channel's register space: the Rook region by the Rook, the own view by the PF (06 R196,
R197). -/
def Node.mboxRead (n : Node) (snd : Sender) (off : Nat) : Node × Word :=
  if n.k.busy pgMBOX then (n.regFault snd pgMBOX off cBUSY, 0)
  else if off < ownBase then (if snd = .rook then n.rookMailRead off else (n.regFault snd pgMBOX off cSENDER, 0))
  else if snd = .pf then n.ownMailRead .pf (off - ownBase)
  else (n.regFault snd pgMBOX off cSENDER, 0)

/-- A word read by a sender. -/
def Node.pageRead (n : Node) (snd : Sender) (page off : Nat) : Node × Word :=
  if !chanPages.contains page then (n.unmapped snd page off, 0)
  else if page = pgMBOX && 0x040 ≤ off then n.mboxRead snd off
  else n.readAccess snd page off fun n =>
    if off < 0x040 then (n, n.k.headerRead page off) else n.blockRead snd page off

/-- An access that is not made of whole words (03 R69); PF4's is a write to a channel, which it never makes. -/
def Node.widthRefused (n : Node) (snd : Sender) (page off : Nat) : Node :=
  if snd = .pf4 then n.fault pgCHCTL cSENDER snd.id (regAddr page off)
  else if chanPages.contains page then n.regFault snd page off cWIDTH
  else n.unmapped snd page off

/-! ## A VF's view (05 R141) -/

/-- A word written in the BAR0 of VF v + 1. -/
def Node.vfWrite (n : Node) (v : Fin 7) (off : Nat) (w : Word) : Node :=
  if off < 0x200 then n.ownView (.vf v) off fun n => n.ownMailWrite (.vf v) off w
  else if 0x1100 ≤ off && off < 0x1200 then
    let reg := 0x100 + 0x100 * (v.val + 1) + (off - 0x1100)
    n.ringAccess (.vf v) (v.val + 1) reg fun n => n.dmaWrite (.vf v) reg w
  else if off = 0x2040 then n.vfevClear v false w
  else if off = 0x2044 then n.vfevClear v true w
  else n

/-- A word read in the BAR0 of VF v + 1: its mailbox view, its ring blocks, VFEV_PEND; other offsets read 0. -/
def Node.vfRead (n : Node) (v : Fin 7) (off : Nat) : Node × Word :=
  if off < 0x200 then
    (if n.k.busy pgMBOX then (n.ownFault (.vf v) off cBUSY, 0) else n.ownMailRead (.vf v) off)
  else if 0x1100 ≤ off && off < 0x1200 then
    let reg := 0x100 + 0x100 * (v.val + 1) + (off - 0x1100)
    (if n.k.busy pgDMA then (n.regFault (.vf v) pgDMA reg cBUSY, 0) else n.dmaRegRead reg)
  else if off = 0x2040 then (n, n.k.vfPend v false)
  else if off = 0x2044 then (n, n.k.vfPend v true)
  else (n, 0)

/-- An access to a VF's view that is not made of whole words: recorded on the page behind the view. -/
def Node.vfWidth (n : Node) (v : Fin 7) (off : Nat) : Node :=
  if off < 0x200 then n.ownFault (.vf v) off cWIDTH
  else if 0x1100 ≤ off && off < 0x1200 then n.regFault (.vf v) pgDMA (0x100 + 0x100 * (v.val + 1) + (off - 0x1100)) cWIDTH
  else if 0x2040 ≤ off && off < 0x2048 then n.regFault (.vf v) pgEVT (off - 0x2000 + 8) cWIDTH
  else n

/-! ## The Rook's fabric accesses (07 R199, R206, R213, R219) -/

/-- The page and offset of a register address. -/
def regPage (a : Nat) : Nat := (a - 0x08000000) / 0x1000
def regOff (a : Nat) : Nat := (a - 0x08000000) % 0x1000

/-- A load from the fabric that nothing refuses: its bytes; a register access that R69 refuses reads 0. -/
def Node.fabricLoad (n : Node) (a len : Nat) : Node × List Byte :=
  match zoneOf a with
  | some .regs =>
    match regWords a len with
    | none => (n.widthRefused .rook (regPage a) (regOff a), List.replicate len 0)
    | some ws => ws.foldl (fun r x =>
        let (n, v) := r.1.pageRead .rook (regPage x) (regOff x)
        (n, r.2 ++ bytesLE 4 v.toNat)) (n, [])
  | some ar =>
    let (n, m) := n.getBy mROOK (sramOf ar a) len
    (n, match m with | .ok bs => bs | .denied | .ecc => [])
  | none => (n, [])

/-- An access to SRAM that a running handover holds (06 R170). -/
def Channel.heldAt (k : Channel) (a len : Nat) (wr : Bool) : Bool :=
  match zoneOf a with
  | some .iram | some .dtcm | some .regs | none => false
  | some ar => k.grant mROOK (sramOf ar a) len wr = .held

/-- A bundle that faults after it issued is not charged, unless the whistle has closed its tick (07 R211). -/
def Node.uncharge (n : Node) : Node :=
  match n.k.rook.loadTick with
  | some (count, done) =>
    if count ≠ n.k.wh.count then n
    else n.onK fun k =>
      { k with led := if done then { k.led with idle := k.led.idle - 1 } else { k.led with used := k.led.used - 1 } }
  | none => n

/-- The fault that a bundle meets when its loads return: a store passed its check when the bundle issued, and a refusal at
its bank is imprecise (07 R206, R219). -/
def Node.returnFault (n : Node) (o : Op) : Option Exc :=
  match n.opFault o with
  | some x => if x.cause = xDENY && x.wr then none else some x
  | none => none

/-- The data of a bundle's fabric loads returns, after every older store (07 R213): the bundle retires or faults. -/
def Node.loadReturn (n : Node) : Node :=
  let r := n.k.rook
  match decodeAll r.issued with
  | none => n
  | some ops =>
    let xs := ops.filterMap r.access
    if r.issued.isEmpty || !(n.k.running && r.running) || !r.sb.isEmpty || xs.any (fun x => !x.store && n.k.heldAt x.addr x.len false)
    then n
    else match ops.findSome? n.returnFault with
      | some x => ((n.uncharge).onRook fun r => { r with issued := [], loadTick := none }).except x
      | none =>
        let (n, vals) := n.loads Node.fabricLoad xs
        n.retire ops vals

/-- A write through the bit-set or bit-clear alias: read, merged, written back (06 R173, R191). -/
def Node.maskStore (n : Node) (set : Bool) (a : Nat) (data : List Byte) : Node × MemRes :=
  match eccIn n.k.ecc.ue .sram a data.length with
  | e :: _ => (n.eccUe 0 (max a e.2), .ecc)
  | [] =>
    let n := n.correct .sram a data.length
    let old := n.k.sram.read a data.length
    n.sramStore 0 a ((old.zip data).map fun x => some (if set then x.1 ||| x.2 else x.1 &&& ~~~x.2)) false

/-- A posted store at its bank (06 R166, R173). -/
def Node.bankStore (n : Node) (ar : Zone) (a : Nat) (data : List Byte) : Node × MemRes :=
  let b := sramOf ar a
  if n.k.grant mROOK b data.length true = .refused then (n.deny mROOK 0 a true, .denied)
  else match ar with
    | .bitSet => n.maskStore true b data
    | .bitClear => n.maskStore false b data
    | .sram | .iram | .dtcm | .regs => n.sramStore 0 b (data.map some) false

/-- A store refused at the bank, or one that meets an uncorrectable error there, is reported imprecisely, unless one is
pending already (07 R206). -/
def Node.setImpr (n : Node) (cause : Nat) (a : Word) : Node :=
  n.onRook fun r => if r.impr.isSome then r else { r with impr := some (cause, a) }

/-- A posted store performed. -/
def Node.doPosted (n : Node) (x : Store) : Node :=
  let a := x.addr.toNat
  match zoneOf a with
  | some .regs =>
    match regWords a x.data.length with
    | none => n.widthRefused .rook (regPage a) (regOff a)
    | some ws => (List.range ws.length).foldl (fun n i =>
        n.pageWrite .rook (regPage (a + 4 * i)) (regOff (a + 4 * i)) (wordAt x.data (4 * i))) n
  | some ar =>
    let (n, m) := n.bankStore ar a x.data
    match m with
    | .ok _ => n
    | .denied => n.setImpr xDENY x.addr
    | .ecc => n.setImpr xECC x.addr
  | none => n

/-- The oldest posted store leaves the buffer. -/
def Node.storeAccept (n : Node) : Node :=
  match n.k.rook.sb with
  | [] => n
  | x :: rest =>
    if !(n.k.running && n.k.rook.running) || n.k.heldAt x.addr.toNat x.data.length true then n
    else (n.onRook fun r => { r with sb := rest }).doPosted x

/-! ## The commands -/

/-- A word written to a channel register by a sender (05 R158, R162). -/
def State.wordWrite (s : State) (snd : Sender) (c : Ch) (page off : Nat) (w : Word) : State :=
  s.chanWrite snd c (regKey page off) fun n => n.pageWrite snd page off w

/-- A header register of a page written: of a channel page by any sender, of a device page by PF4. -/
def State.headWrite (s : State) (snd : Sender) (p : PageRef) (off : Nat) (w : Word) : State :=
  match p with
  | .chan c page => s.wordWrite snd c page off w
  | .dev page => if snd = .pf4 && s.arrives .pf4 then s.devWrite page off w else s

/-- A write of PG_FAULT.PEND. -/
def execPgFaultClear (snd : Sender) (p : PageRef) (s : State) : Out := .next (s.headWrite snd p 0x00C 0x80000000)

/-- A write of PG_CTRL with BLKRESET 1. -/
def execBlkreset (snd : Sender) (p : PageRef) (v : Word) (s : State) : Out :=
  .next (s.headWrite snd p 0x008 (v.setBit 2 true))

/-- A write of PG_CTRL without BLKRESET. -/
def execEnableWrite (snd : Sender) (p : PageRef) (v : Word) (s : State) : Out :=
  .next (s.headWrite snd p 0x008 (v.setBit 2 false))

/-- A block reset ends. -/
def execBlockResetEnd (c : Ch) (page : Nat) (s : State) : Out := .next (s.within c fun n => n.blockResetEnd page)

/-- A write of PG_SHADOW with ARM 1. -/
def execArm (snd : Sender) (c : Ch) (page : Nat) (v : Word) (s : State) : Out :=
  .next (s.wordWrite snd c page 0x01C (v.setBit 0 true))

/-- A W1C write of EVT_ROOKPEND. -/
def execEvtRookpendClear (snd : Sender) (c : Ch) (hi : Bool) (v : Word) (s : State) : Out :=
  .next (s.wordWrite snd c pgEVT (if hi then 0x044 else 0x040) v)

/-- A W1C write of EVT_HOSTPEND. -/
def execEvtHostpendClear (snd : Sender) (c : Ch) (hi : Bool) (v : Word) (s : State) : Out :=
  .next (s.wordWrite snd c pgEVT (hostPendOff hi) v)

/-- A W1C write of VFEV_PEND by VF vf + 1. -/
def execVfevPendClear (c : Ch) (vf : Fin 7) (hi : Bool) (v : Word) (s : State) : Out :=
  .next (s.chanWrite (.vf vf) c (if hi then 0x2044 else 0x2040) fun n => n.vfevClear vf hi v)

/-- A write of CHCTL_GRANT. -/
def execChctlGrantWrite (snd : Sender) (c : Ch) (v : Word) (s : State) : Out := .next (s.wordWrite snd c pgCHCTL 0x044 v)

/-- The data of an outstanding fabric load returns to the Rook. -/
def execFabricLoadReturn (c : Ch) (s : State) : Out := .next (s.within c Node.loadReturn)

/-- The oldest store of the Rook's store buffer is performed. -/
def execStoreBufferAccept (c : Ch) (s : State) : Out := .next (s.within c Node.storeAccept)

end Sys2Proof.Machine
end

