-- ==== Sys2Proof/Machine/Host.lean ====
section
/-!
DEFINITION. The host port: register writes of every target (03 R69, R77; 05 R137, R141), PF4's reads and writes of a channel
(01 R38, R40; 05 R139), Elof transactions (05 R153–R156), function and port resets, link and SR-IOV (05 R140, R159, R160;
17 R476, R477), the HIRQ lines (05 R143) and the debugger's JTAG (04 R129, 07 R222).
-/

namespace Sys2Proof.Machine

/-! ## Device pages and PF4's views (03 R77, R85; 06 R181) -/

/-- The channel and own-view offset that a MGMT offset from 0x800 up names. -/
def mgmtView (off : Nat) : Ch × Nat := (Ch.nth ((off - 0x800) / 0x200), (off - 0x800) % 0x200)

/-- A word PF4 writes in its device region. -/
def State.devWordWrite (s : State) (page off : Nat) (w : Word) : State :=
  if page = dvMGMT && 0x800 ≤ off then
    let (c, o) := mgmtView off
    s.mailWrite .pf4 c (ownAddr .pf4 c o) fun n => n.ownView .pf4 o fun n => n.ownMailWrite .pf4 o w
  else s.devWrite page off w

/-- A word PF4 reads in its device region: its value, or an error. -/
def State.devWordRead (s : State) (page off : Nat) : State × (Word ⊕ Byte) :=
  if page = dvMGMT && 0x800 ≤ off then
    let (c, o) := mgmtView off
    if !(s.ch c).running then (s.downLog .pf4 c off, .inr elERR_DOWN)
    else
      let bad := match mailCell .pf4 true o with
        | some x => (s.ch c).mailBad x && !(s.ch c).busy pgMBOX
        | none => false
      let (s, v) := s.withinR c fun n => if n.k.busy pgMBOX then (n.ownFault .pf4 o cBUSY, 0) else n.ownMailRead .pf4 o
      (s, if bad then .inr elERR_MEM else .inl v)
  else if 9 ≤ page then (s.devFault dvDEVEVT cUNMAPPED 9 (devAddr page off), .inl 0)
  else (s, .inl (s.devRead page off))

/-! ## A channel's words as the host reads them (05 R138, R158, R162; 06 R191) -/

/-- Whether a register read meets an uncorrectable mailbox word. -/
def Channel.badWord (k : Channel) (snd : Sender) (page off : Nat) : Bool :=
  page = pgMBOX && snd = .pf && ownBase ≤ off && !k.busy pgMBOX &&
    (match mailCell .pf true (off - ownBase) with | some x => k.mailBad x | none => false)

/-- A channel register read by the channel PF, or by PF4 under its grant. -/
def State.regWordRead (s : State) (snd : Sender) (c : Ch) (key : Nat) : State × (Word ⊕ Byte) :=
  let page := key / 0x1000
  let off := key % 0x1000
  if !(s.ch c).running then (s.downLog snd c (s.regBar snd c key), .inr elERR_DOWN)
  else if snd = .pf4 && !(s.ch c).granted then (s.within c fun n => n.grantDeny (regAddr page off), .inr elERR_DENIED)
  else
    let bad := (s.ch c).badWord snd page off
    let (s, v) := s.withinR c fun n => n.pageRead snd page off
    (s, if bad then .inr elERR_MEM else .inl v)

/-- The internal address of a window offset, the offset itself where it has none. -/
def windowAddr (off : Nat) : Word :=
  match windowAt off 1 with
  | some (_, a) => BitVec.ofNat 32 a
  | none => BitVec.ofNat 32 off

/-- The BAR or Elof offset of a window access (05 R137, R139, R154). -/
def State.winBar (s : State) (snd : Sender) (c : Ch) (off : Nat) : Nat :=
  if snd ≠ .pf4 then off
  else if s.dev.host.elofSel then c.num * 0x800000 + off
  else 0x01000000 * (c.num + 1) + 0x800000 + off

/-- What a window access answers. -/
def winAnswer (len : Nat) : WinRes → List Byte ⊕ Byte
  | .data bs => .inl bs
  | .bad => .inr elERR_MEM
  | .wait => .inl (List.replicate len 0)

/-- A read of a channel's memory window by the PF, or by PF4 under its grant, that no handover delays. -/
def State.winRead (s : State) (snd : Sender) (c : Ch) (off len : Nat) : State × (List Byte ⊕ Byte) :=
  if !(s.ch c).running then (s.downLog snd c (s.winBar snd c off), .inr elERR_DOWN)
  else if snd = .pf4 && !(s.ch c).granted then (s.within c fun n => n.grantDeny (windowAddr off), .inr elERR_DENIED)
  else
    let (n, r) := if snd = .pf4 then (s.node c).windowPf4 off len else (s.node c).windowNow off (.read len)
    (s.within c fun _ => n, winAnswer len r)

/-- The address a refused access of PF4 shows. -/
def spaceAddr : ChanSpace → Word
  | .regs page off => regAddr page off
  | .window off => windowAddr off

/-- The BAR or Elof offset of a place in a channel. -/
def State.spaceBar (s : State) (c : Ch) : ChanSpace → Nat
  | .regs page off => s.regBar .pf4 c (regKey page off)
  | .window off => s.winBar .pf4 c off

/-! ## MGMT_READ, PF4_CHANNEL_WRITE -/

/-- Words of a read in ascending order, up to the first error. -/
def readWords (f : State → Nat → State × (Word ⊕ Byte)) (s : State) : List Nat → State × (List Byte ⊕ Byte)
  | [] => (s, .inl [])
  | a :: as =>
    match f s a with
    | (s, .inr e) => (s, .inr e)
    | (s, .inl v) =>
      match readWords f s as with
      | (s, .inr e) => (s, .inr e)
      | (s, .inl bs) => (s, .inl (bytesLE 4 v.toNat ++ bs))

/-- The answer to the host. -/
def State.reply (s : State) (f : HostFn) (r : List Byte ⊕ Byte) : State :=
  match r with
  | .inl bs => s.answer f none bs
  | .inr e => s.answer f (some e) []

/-- PF4 reads `n` bytes of a channel's registers, as words, or of its memory. -/
def State.mgmtRead (s : State) (c : Ch) (sp : ChanSpace) (n : Nat) : State :=
  match sp with
  | .window off =>
    let (s, r) := s.winRead .pf4 c off n
    s.reply .pf4 r
  | .regs page off =>
    if off % 4 = 0 && n % 4 = 0 then
      let (s, r) := readWords (fun s a => s.regWordRead .pf4 c a) s
        ((List.range (n / 4)).map fun i => regKey page off + 4 * i)
      s.reply .pf4 r
    else if !(s.ch c).running then (s.downLog .pf4 c (s.spaceBar c sp)).answer .pf4 (some elERR_DOWN) []
    else if !(s.ch c).granted then
      (s.within c fun x => x.grantDeny (regAddr page off)).answer .pf4 (some elERR_DENIED) []
    else
      (s.within c fun x =>
        if chanPages.contains page then x.regFault .pf4 page off cWIDTH else x.unmapped .pf4 page off).answer .pf4 none
          (List.replicate n 0)

/-- PF4 reads a channel (01 R38, R40). -/
def execMgmtRead (c : Ch) (sp : ChanSpace) (n : Nat) (s : State) : Out :=
  .next (if s.arrives .pf4 then s.mgmtRead c sp n else s)

/-- PF4 writes to a channel: discarded (01 R40, 05 R139). -/
def State.pf4Write (s : State) (c : Ch) (sp : ChanSpace) : State :=
  if !(s.ch c).running then (s.downLog .pf4 c (s.spaceBar c sp)).elofLatch .pf4 elERR_DOWN
  else (s.within c fun n => n.fault pgCHCTL cSENDER 9 (spaceAddr sp)).elofLatch .pf4 elERR_DENIED

def execPf4ChannelWrite (c : Ch) (sp : ChanSpace) (s : State) : Out :=
  .next (if s.arrives .pf4 then s.pf4Write c sp else s)

/-! ## Functions: MSI-X tables, resets (05 R137, R140, R159, R160; 17 R476, R477) -/

/-- The entries of a function's MSI-X table. -/
def fnVectors : HostFn → Nat
  | .pf _ => 32 | .vf _ _ => 16 | .pf4 => 36

/-- A word of an MSI-X table: the address is word-aligned, the control word holds the mask. -/
def HostPort.setMsix (h : HostPort) (f : HostFn) (vec w : Nat) (v : Word) : HostPort :=
  let key := fnNum f * 256 + vec * 4 + w
  let v := if w = 0 then v &&& 0xFFFFFFFC else if w = 3 then v &&& 1 else v
  { h with msix := SMap.put (msixBlank key) h.msix key v }

/-- A write of a word of an MSI-X table, which only PCIe has; a message whose mask falls goes out (03 R82). -/
def State.msixWrite (s : State) (f : HostFn) (vec w : Nat) (v : Word) : State :=
  if s.arrives f && !s.dev.host.elofSel && vec < fnVectors f && w < 4 then
    s.onHost fun h => (h.setMsix f vec w v).flush f
  else s

/-- The offset of the pending-bit array in a function's BAR4 (05 R137). -/
def pbaOff : HostFn → Nat
  | .pf _ | .pf4 => 0x1000 | .vf _ _ => 0x800

/-- A word of the pending-bit array: bit i of word j for entry 32 j + i. -/
def HostPort.pba (h : HostPort) (f : HostFn) (j : Nat) : Word :=
  BitVec.ofNat 32 ((List.range 32).foldl (fun a i =>
    if h.msixPend.contains (fnNum f * 256 + 32 * j + i) then a + 2 ^ i else a) 0)

/-- A word of a function's BAR4: the MSI-X table, the pending-bit array, 0 elsewhere. -/
def HostPort.bar4Word (h : HostPort) (f : HostFn) (off : Nat) : Word :=
  if off < 16 * fnVectors f then h.msixWord f (off / 16) (off % 16 / 4)
  else if inWords off (pbaOff f) 2 then h.pba f ((off - pbaOff f) / 4)
  else 0

/-- A word a host writes at an offset of BAR4: only the table takes it. -/
def State.bar4Write (s : State) (f : HostFn) (off : Nat) (v : Word) : State :=
  if off < 16 * fnVectors f then s.msixWrite f (off / 16) (off % 16 / 4) v else s

/-! ### Identity and BARs (05 R136, R137) -/

/-- The bits a BAR holds, by its size, and the type bits it shows (05 R137), laid out as PCI lays out a BAR (PRESUMED, log
entry 55). A VF's BARs stand in its PF. -/
def barMask : HostFn → Nat → Word × Word
  | .pf _, 0 => (0xFFF00000, 0)
  | .pf _, 2 => (0xFF800000, 0xC)
  | .pf _, 3 => (0xFFFFFFFF, 0)
  | .pf _, 4 => (0xFFFFE000, 0)
  | .pf4, 0 => (0xF8000000, 0)
  | .pf4, 4 => (0xFFFFE000, 0)
  | _, _ => (0, 0)

/-- The same of the VF BARs in a PF's SR-IOV capability. -/
def vfBarMask : HostFn → Nat → Word × Word
  | .pf _, 0 => (0xFFFFC000, 0)
  | .pf _, 4 => (0xFFFFF000, 0)
  | _, _ => (0, 0)

/-- The key of a BAR, or of a VF BAR. -/
def barKey (f : HostFn) (vf : Bool) (i : Nat) : Nat := fnNum f * 16 + (if vf then 8 else 0) + i

def barBits (f : HostFn) (vf : Bool) (i : Nat) : Word × Word := if vf then vfBarMask f i else barMask f i

def HostPort.bar (h : HostPort) (f : HostFn) (vf : Bool) (i : Nat) : Word :=
  (SMap.get? h.bars (barKey f vf i)).getD 0 ||| (barBits f vf i).2

def HostPort.setBar (h : HostPort) (f : HostFn) (vf : Bool) (i : Nat) (v : Word) : HostPort :=
  { h with bars := SMap.put 0 h.bars (barKey f vf i) (v &&& (barBits f vf i).1) }

/-- Device ID (05 R136). -/
def deviceId : HostFn → Nat
  | .pf _ => 0x4480 | .vf _ _ => 0x4481 | .pf4 => 0x4482

/-- Class Code (05 R136); a VF shows that of its PF (PRESUMED, log entry 55). -/
def classCode : HostFn → Nat
  | .pf _ | .vf _ _ => 0x028000 | .pf4 => 0x088000

/-- A word of a function's configuration header: Device ID and Vendor ID, Class Code, the BARs; other words are laid out by
PCI Express and read 0 here (log entry 55). -/
def HostPort.headerWord (h : HostPort) (f : HostFn) (off : Nat) : Word :=
  if off = 0x00 then BitVec.ofNat 32 (65536 * deviceId f + Config.vendorId.toNat)
  else if off = 0x08 then BitVec.ofNat 32 (256 * classCode f)
  else if inWords off 0x10 6 then h.bar f false ((off - 0x10) / 4)
  else 0

/-- A configuration word written: a BAR takes its address bits. -/
def State.headerWrite (s : State) (f : HostFn) (off : Nat) (v : Word) : State :=
  if inWords off 0x10 6 then s.onHost fun h => h.setBar f false ((off - 0x10) / 4) v else s

/-- MSI-X and configuration state of a function cleared, its BARs with it. -/
def HostPort.clearFn (h : HostPort) (f : HostFn) : HostPort :=
  { h.setFn f FnCfg.reset with msix := h.msix.filter fun e => e.1 / 256 ≠ fnNum f,
                               msixPend := h.msixPend.filter fun x => x / 256 ≠ fnNum f,
                               bars := h.bars.filter fun e => e.1 / 16 ≠ fnNum f }

/-- A channel that still has items: up, or between T and D of its reset, before the drain ends (05 R159; 17 R477, R481). -/
def Channel.hasItems (k : Channel) : Bool :=
  k.up || (match k.seq with | .drain _ _ => k.pwr = .on | .idle | .rail | .lock | .scrub _ => false)

/-- The rings of a function stop and their items end (05 R159); `off` clears EN too (R160). PF4 has no rings. -/
def State.fnStop (s : State) (f : HostFn) (off : Bool) : State :=
  let go := fun (c : Ch) (i : Nat) => if (s.ch c).hasItems then s.within c fun n => n.dmaFnReset i off else s
  match f with
  | .pf c => go c 0
  | .vf c v => go c (v.val + 1)
  | .pf4 => s

/-- What an FLR clears beside the rings: MSI-X, the mailbox pair, doorbells, Tokens, routed pending bits. -/
def State.fnClear (s : State) (f : HostFn) : State :=
  let s := s.onHost fun h => h.clearFn f
  let mail := fun (s : State) (c : Ch) (i : Fin 9) => if (s.ch c).hasItems then s.within c fun n => n.flrMail i else s
  let pend := fun (s : State) (c : Ch) (func : Nat) => s.onCh c fun k =>
    (k.setReg pgEVT 0x048 (k.reg pgEVT 0x048 &&& ~~~(k.routedTo func false))).setReg pgEVT 0x04C
      (k.reg pgEVT 0x04C &&& ~~~(k.routedTo func true))
  match f with
  | .pf c => pend (mail s c 0) c 1
  | .vf c v => pend (mail s c ⟨v.val + 1, by omega⟩) c (v.val + 2)
  | .pf4 => mail (mail (mail (mail s .ch0 8) .ch1 8) .ch2 8) .ch3 8

/-- The virtual functions of a channel that exist. -/
def HostPort.vfs (h : HostPort) (c : Ch) : List HostFn :=
  ((List.finRange 7).filter fun v => h.vfExists c v).map fun v => .vf c v

/-- SR-IOV of a PF: VF Enable and NumVFs. -/
def HostPort.setSriov (h : HostPort) (c : Ch) (en : Bool) (num : Nat) : HostPort :=
  let i : Fin 4 := match c with | .ch0 => 0 | .ch1 => 1 | .ch2 => 2 | .ch3 => 3
  { h with vfEnable := h.vfEnable.set i en, numVfs := h.numVfs.set i num }

def HostPort.vfEn (h : HostPort) (c : Ch) : Bool :=
  match c with | .ch0 => h.vfEnable[0] | .ch1 => h.vfEnable[1] | .ch2 => h.vfEnable[2] | .ch3 => h.vfEnable[3]

def HostPort.vfNum (h : HostPort) (c : Ch) : Nat :=
  match c with | .ch0 => h.numVfs[0] | .ch1 => h.numVfs[1] | .ch2 => h.numVfs[2] | .ch3 => h.numVfs[3]

/-- One function reset. -/
def State.fnReset (s : State) (f : HostFn) : State := (s.fnStop f false).fnClear f

/-- Whether a configuration request of a function is answered: over a trained link, D3hot or not. -/
def State.configures (s : State) (f : HostFn) : Bool :=
  s.dev.phase = .ready && !s.dev.host.elofSel && s.dev.host.linkUp &&
    (match f with | .vf c v => s.dev.host.vfExists c v | .pf _ | .pf4 => true)

/-- A function-level reset; a PF's resets its VFs too. -/
def State.flr (s : State) (f : HostFn) : State :=
  let vfs := match f with | .pf c => s.dev.host.vfs c | .vf _ _ | .pf4 => []
  let s := (vfs ++ [f]).foldl State.fnReset s
  let s := match f with
    | .pf c => s.onHost fun h => h.setSriov c false 0
    | .vf _ _ | .pf4 => s
  s.raiseDev dvFLR

/-- VF Enable cleared: an FLR of every VF. -/
def State.vfOff (s : State) (c : Ch) : State :=
  let vfs := s.dev.host.vfs c
  let s := vfs.foldl State.fnReset s
  let s := s.onHost fun h => h.setSriov c false (h.vfNum c)
  if vfs.isEmpty then s else s.raiseDev dvFLR

/-- Bus Master Enable cleared. -/
def State.bmeOff (s : State) (f : HostFn) : State :=
  if (s.dev.host.fn f).bme then (s.onHost fun h => h.setFn f { h.fn f with bme := false }).fnStop f false else s

/-- A function changed by a configuration write; messages that may go out now do. -/
def State.setCfg (s : State) (f : HostFn) (g : FnCfg → FnCfg) : State :=
  s.onHost fun h => (h.setFn f (g (h.fn f))).flush f

/-- A configuration-space control written, bit 0 of the value. -/
def State.cfgWrite (s : State) (f : HostFn) (x : CfgField) (v : Word) : State :=
  if !s.configures f then s
  else match x with
  | .busMaster => if v.bit 0 then s.setCfg f fun y => { y with bme := true } else s.bmeOff f
  | .d0 => if v.bit 0 then s.setCfg f fun y => { y with d3hot := false } else s
  | .msixEnable => s.setCfg f fun y => { y with msixEn := v.bit 0 }
  | .msixFunctionMask => s.setCfg f fun y => { y with msixMask := v.bit 0 }
  | .relaxedOrdering => s.setCfg f fun y => { y with ro := v.bit 0 }
  | .aerStatus => s.setCfg f fun y => { y with aer := y.aer &&& ~~~v }
  | .bar i => s.onHost fun h => h.setBar f false i v
  | .vfBar i => s.onHost fun h => h.setBar f true i v
  | .vfEnable => match f with
    | .pf c => if v.bit 0 then s.onHost fun h => h.setSriov c true (h.vfNum c)
      else if s.dev.host.vfEn c then s.vfOff c else s
    | .vf _ _ | .pf4 => s

/-- A configuration-space control as a read shows it. -/
def HostPort.cfgWord (h : HostPort) (f : HostFn) : CfgField → Word
  | .busMaster => BitVec.ofNat 32 (h.fn f).bme.toNat
  | .d0 => BitVec.ofNat 32 (!(h.fn f).d3hot).toNat
  | .msixEnable => BitVec.ofNat 32 (h.fn f).msixEn.toNat
  | .msixFunctionMask => BitVec.ofNat 32 (h.fn f).msixMask.toNat
  | .relaxedOrdering => BitVec.ofNat 32 (h.fn f).ro.toNat
  | .vfEnable => BitVec.ofNat 32 (match f with | .pf c => (h.vfEn c).toNat | .vf _ _ | .pf4 => 0)
  | .aerStatus => (h.fn f).aer
  | .bar i => h.bar f false i
  | .vfBar i => h.bar f true i

/-- One channel's part of a host port reset: the rings of the PF and of all seven VFs (05 R160, 17 R477). -/
def State.portResetCh (s : State) (c : Ch) : State :=
  let fns := HostFn.pf c :: (List.finRange 7).map fun v => HostFn.vf c v
  let s := fns.foldl (fun s f => s.fnStop f true) s
  if !(s.ch c).hasItems then s
  else s.within c fun n =>
    let n := (List.finRange 9).foldl (fun n i => n.flrMail i) n
    (n.setReg pgEVT 0x048 0).setReg pgEVT 0x04C 0

/-- A host port reset: every function of every channel, the link, configuration and MSI-X state. -/
def State.portReset (s : State) : State :=
  let s := [Ch.ch0, .ch1, .ch2, .ch3].foldl State.portResetCh s
  let s := s.onHost fun h =>
    { h with fns := [], msix := [], msixPend := [], bars := [], linkUp := false,
             numVfs := Vector.replicate 4 0, vfEnable := Vector.replicate 4 false }
  s.setDreg dvHOSTP 0x040 0

/-- The PCIe port resets; a link that was up is lost. -/
def State.portLost (s : State) : State :=
  let was := s.dev.host.linkUp
  let s := s.portReset
  if was then s.raiseDev dvLINK_DOWN else s

/-! ## The interrupt lines of Elof (03 R82, R84; 05 R143) -/

/-- HIRQc low: a pending event routed to the PF, its outbound mailbox, an unmasked doorbell. Outside RUN the line is
released (18 R489). -/
def State.hirq (s : State) (c : Ch) : Bool :=
  let k := s.ch c
  s.dev.host.elofSel && k.running &&
    ((k.reg pgEVT 0x048 &&& k.routedTo 1 false) ≠ 0 || (k.reg pgEVT 0x04C &&& k.routedTo 1 true) ≠ 0 || k.outFull 0 ||
     (k.bellPend 0 &&& k.dbMask[0]) ≠ 0)

/-- A pending device event routed to PF4 (03 R84). -/
def State.devRouted (s : State) : Bool :=
  (List.range 40).any fun e =>
    (s.dreg dvDEVEVT (if e < 32 then 0x040 else 0x044)).bit (e % 32) && (s.dreg dvDEVEVT (0x100 + 4 * e)).bit 0

/-- HIRQ4 low: a device event routed to PF4, an unmasked PF4 doorbell of a channel. -/
def State.hirq4 (s : State) : Bool :=
  s.dev.host.elofSel &&
    (s.devRouted ||
     [Ch.ch0, .ch1, .ch2, .ch3].any fun c => ((s.ch c).bellPend 8 &&& (s.ch c).dbMask[8]) ≠ 0)

/-! ## Register accesses -/

/-- Ascending words of a register write to a channel. -/
def State.chanWords (s : State) (snd : Sender) (c : Ch) (key : Nat) : List Word → State
  | [] => s
  | w :: ws => (s.wordWrite snd c (key / 0x1000) (key % 0x1000) w).chanWords snd c (key + 4) ws

/-- Ascending words in a VF's view. -/
def State.vfWords (s : State) (c : Ch) (v : Fin 7) (off : Nat) : List Word → State
  | [] => s
  | w :: ws => (s.chanWrite (.vf v) c off fun n => n.vfWrite v off w).vfWords c v (off + 4) ws

/-- Ascending words in PF4's device region. -/
def State.devWords (s : State) (key : Nat) : List Word → State
  | [] => s
  | w :: ws => (s.devWordWrite (key / 0x1000) (key % 0x1000) w).devWords (key + 4) ws

/-- An access to PF4's device region that is not made of whole words. -/
def State.devWidth (s : State) (page off : Nat) : State :=
  if page = dvMGMT && 0x800 ≤ off then
    let (c, o) := mgmtView off
    s.mailWrite .pf4 c (ownAddr .pf4 c o) fun n => n.ownFault .pf4 o cWIDTH
  else s.devFault (if 9 ≤ page then dvDEVEVT else page) (if 9 ≤ page then cUNMAPPED else cWIDTH) 9 (devAddr page off)

/-- A write access that is not made of whole words (03 R69). The tables of BAR4 and configuration space, which are no
register pages, ignore it. -/
def State.widthWrite (s : State) (a : RegAccess) : State :=
  match a.tgt with
  | .chan c page off => s.chanWrite a.snd c (regKey page off) fun n => n.widthRefused a.snd page off
  | .vfView c v off => s.chanWrite (.vf v) c off fun n => n.vfWidth v off
  | .dev page off => if s.arrives .pf4 then s.devWidth page off else s
  | .msix _ _ _ | .cfg _ _ | .bar4 _ _ | .header _ _ | .pawn _ _ _ => s

/-- A register write. -/
def State.regWrite (s : State) (a : RegAccess) : State :=
  if !a.whole then s.widthWrite a
  else match a.tgt with
  | .chan c page off => s.chanWords a.snd c (regKey page off) a.data
  | .vfView c v off => if a.snd = .vf v then s.vfWords c v off a.data else s
  | .dev page off => if a.snd = .pf4 && s.arrives .pf4 then s.devWords (regKey page off) a.data else s
  | .msix f vec w => s.msixWrite f vec w (a.data.headD 0)
  | .bar4 f off => (a.data.zipIdx).foldl (fun s x => s.bar4Write f (off + 4 * x.2) x.1) s
  | .cfg f x => s.cfgWrite f x (a.data.headD 0)
  | .header f off =>
    if s.configures f then (a.data.zipIdx).foldl (fun s x => s.headerWrite f (off + 4 * x.2) x.1) s else s
  | .pawn c e r => s.regCmd a.snd c pgPAWN (0x100 + 0x40 * e.val) fun n => n.pawnNamed a.snd e r

/-! ### Host reads (05 R137, R141, R151, R162) -/

/-- Registers of a channel read by the PF or, at one PF4 reaches, by PF4: `n` words. The Rook's loads are its bundles'
(07); here only their side effect shows. -/
def State.chanReadWords (s : State) (snd : Sender) (c : Ch) (key n : Nat) : State :=
  let keys := (List.range n).map fun i => key + 4 * i
  if snd = .rook then
    (if (s.ch c).running then
       keys.foldl (fun s a => (s.withinR c fun x => x.pageRead .rook (a / 0x1000) (a % 0x1000)).1) s
     else s)
  else if !s.arrives (senderFn snd c) then s
  else
    let (s, r) := readWords (fun s a => s.regWordRead snd c a) s keys
    s.reply (senderFn snd c) r

/-- A word of a VF's view as it reads it. -/
def State.vfWordRead (s : State) (c : Ch) (v : Fin 7) (off : Nat) : State × (Word ⊕ Byte) :=
  if !(s.ch c).running then (s.downLog (.vf v) c off, .inr elERR_DOWN)
  else
    let bad := match mailCell (.vf v) true off with
      | some x => off < 0x200 && (s.ch c).mailBad x && !(s.ch c).busy pgMBOX
      | none => false
    let (s, w) := s.withinR c fun n => n.vfRead v off
    (s, if bad then .inr elERR_MEM else .inl w)

def State.vfReadWords (s : State) (c : Ch) (v : Fin 7) (off n : Nat) : State :=
  if !s.arrives (.vf c v) then s
  else
    let (s, r) := readWords (fun s a => s.vfWordRead c v a) s ((List.range n).map fun i => off + 4 * i)
    s.reply (.vf c v) r

def State.devReadWords (s : State) (page off n : Nat) : State :=
  if !s.arrives .pf4 then s
  else
    let (s, r) := readWords (fun s a => s.devWordRead (a / 0x1000) (a % 0x1000)) s
      ((List.range n).map fun i => regKey page off + 4 * i)
    s.reply .pf4 r

/-- Words of a table that reads have no effect on. -/
def State.plainRead (s : State) (f : HostFn) (n : Nat) (g : Nat → Word) : State :=
  s.reply f (.inl ((List.range n).flatMap fun i => bytesLE 4 (g i).toNat))

/-- A read of a register page that is not made of whole words: recorded, it returns 0 (03 R69). -/
def State.widthRead (s : State) (a : RegAccess) : State :=
  match a.tgt with
  | .chan c page off => s.chanRead a.snd c (regKey page off) (regAddr page off) fun x =>
      (if chanPages.contains page then x.regFault a.snd page off cWIDTH else x.unmapped a.snd page off, 0)
  | .vfView c v off => s.chanRead (.vf v) c off 0 fun x => (x.vfWidth v off, 0)
  | .dev page off => if s.arrives .pf4 then (s.devWidth page off).plainRead .pf4 1 fun _ => 0 else s
  | .msix _ _ _ | .cfg _ _ | .bar4 _ _ | .header _ _ | .pawn _ _ _ => s

/-- A read of BAR4, which only PCIe has (05 R137). -/
def State.bar4Read (s : State) (f : HostFn) (off n : Nat) : State :=
  if s.arrives f && !s.dev.host.elofSel then s.plainRead f n fun i => s.dev.host.bar4Word f (off + 4 * i) else s

/-- A read of configuration space. -/
def State.cfgRead (s : State) (f : HostFn) (n : Nat) (g : Nat → Word) : State :=
  if s.configures f then s.plainRead f n g else s

/-- A register read. -/
def State.regReadOp (s : State) (a : RegAccess) (n : Nat) : State :=
  match a.tgt with
  | .bar4 f off => s.bar4Read f off n
  | .msix f vec w => s.bar4Read f (16 * vec + 4 * w) n
  | .cfg f x => s.cfgRead f 1 fun _ => s.dev.host.cfgWord f x
  | .header f off => s.cfgRead f n fun i => s.dev.host.headerWord f (off + 4 * i)
  | .chan c page off =>
    if !a.whole then s.widthRead a
    else if a.snd = .pf4 then (if s.arrives .pf4 then s.mgmtRead c (.regs page off) (4 * n) else s)
    else s.chanReadWords a.snd c (regKey page off) n
  | .vfView c v off =>
    if a.snd ≠ .vf v then s else if a.whole then s.vfReadWords c v off n else s.widthRead a
  | .dev page off =>
    if a.snd ≠ .pf4 then s else if a.whole then s.devReadWords page off n else s.widthRead a
  | .pawn _ _ _ => s

/-- The function behind a register access. -/
def targetFn (snd : Sender) : RegTarget → HostFn
  | .chan c _ _ | .pawn c _ _ => senderFn snd c
  | .vfView c v _ => .vf c v
  | .dev _ _ => .pf4
  | .msix f _ _ | .cfg f _ | .bar4 f _ | .header f _ => f

def execRegisterWrite (a : RegAccess) (s : State) : Out :=
  .next (match a.op with
    | .write => s.regWrite a
    | .poisoned => if a.snd.isHost then s.poison (targetFn a.snd a.tgt) else s
    | .read n => s.regReadOp a n)

/-- A page of PF4's device region that does not exist: neither a device page nor inside a window of a channel (05 R139). -/
def devHole (page : Nat) : Bool :=
  9 ≤ page && !([Ch.ch0, .ch1, .ch2, .ch3].any fun c =>
    let p := 0x1000 * (c.num + 1)
    (p ≤ page && page < p + 0x100) || (p + 0x800 ≤ page && page < p + 0x1000))

/-- An access to a page that does not exist (03 R85, 05 R139): a read returns 0 and completes normally. -/
def execUnmappedPageAccess (snd : Sender) (p : PageRef) (acc : PageAcc) (s : State) : Out :=
  .next (match p with
    | .chan c page =>
      if chanPages.contains page then s
      else if acc.rd then
        s.chanRead snd c (regKey page acc.off) (regAddr page acc.off) fun n => n.pageRead snd page acc.off
      else s.wordWrite snd c page acc.off 0
    | .dev page =>
      if !(snd = .pf4 && s.arrives .pf4 && devHole page) then s
      else
        let s := s.devFault dvDEVEVT cUNMAPPED 9 (devAddr page acc.off)
        if acc.rd then s.plainRead .pf4 1 fun _ => 0 else s)

/-! ## Commands of the PCIe port -/

/-- The mask of a vector is removed. -/
def execMsixUnmask (f : HostFn) (vec : Nat) (s : State) : Out := .next (s.msixWrite f vec 3 0)

/-- NumVFs written: above 7 it is ignored, and it is fixed while VF Enable is 1. -/
def execNumvfsWrite (c : Ch) (v : Half) (s : State) : Out :=
  .next (if s.configures (.pf c) && v.toNat ≤ 7 && !s.dev.host.vfEn c then
      s.onHost fun h => h.setSriov c false v.toNat
    else s)

def execFunctionLevelReset (f : HostFn) (s : State) : Out := .next (if s.configures f then s.flr f else s)

def execBusMasterEnableClear (f : HostFn) (s : State) : Out := .next (if s.configures f then s.bmeOff f else s)

/-- A function enters D3hot. -/
def execD3hotEntry (f : HostFn) (s : State) : Out :=
  .next (if s.configures f && !(s.dev.host.fn f).d3hot then
      (s.onHost fun h => h.setFn f { h.fn f with d3hot := true }).fnStop f false
    else s)

def execVfEnableClear (c : Ch) (s : State) : Out :=
  .next (if s.configures (.pf c) && s.dev.host.vfEn c then s.vfOff c else s)

/-- PERST# low or a hot reset. -/
def execHostPortReset (s : State) : Out :=
  .next (if s.dev.phase = .ready && !s.dev.host.elofSel then s.portLost else s)

/-- The link is lost. -/
def execPcieLinkDown (s : State) : Out := .next (if s.dev.host.linkUp then s.portLost else s)

/-- The link trains. -/
def execPcieLinkUp (gen width : Nat) (s : State) : Out :=
  .next (
    if s.dev.phase = .ready && !s.dev.host.elofSel && !s.dev.host.linkUp then
      let s := s.onHost fun h => { h with linkUp := true, trained := true }
      (s.setDreg dvHOSTP 0x040 (BitVec.ofNat 32 (1 + 2 * (gen % 8) + 16 * (width % 4)))).raiseDev dvLINK_UP
    else s)

/-! ## Elof (05 R153–R156) -/

/-- Where an Elof word leads. -/
inductive ElTarget where
  | regs (snd : Sender) (c : Ch) (key : Nat)
  | window (snd : Sender) (c : Ch) (off : Nat)
  | dev (key : Nat)
deriving DecidableEq, Repr

/-- The target of byte offset `a` of a space, or ERR_FORMAT, ERR_RANGE. -/
def elTarget (hcs : Fin 5) (sp a : Nat) : ElTarget ⊕ Byte :=
  if hcs.val < 4 then
    match sp with
    | 0 => if a < 0x100000 then .inl (.regs .pf (Ch.nth hcs) a) else .inr elERR_RANGE
    | 1 => if a < 0x800000 then .inl (.window .pf (Ch.nth hcs) a) else .inr elERR_RANGE
    | _ => .inr elERR_FORMAT
  else
    match sp with
    | 0 => if a < 0x40000 then .inl (.dev a) else .inr elERR_RANGE
    | 1 => if a < 0x400000 then .inl (.regs .pf4 (Ch.nth (a / 0x100000)) (a % 0x100000)) else .inr elERR_RANGE
    | 2 => if a < 0x2000000 then .inl (.window .pf4 (Ch.nth (a / 0x800000)) (a % 0x800000)) else .inr elERR_RANGE
    | _ => .inr elERR_FORMAT

/-- The memory spaces. -/
def elMemory (hcs : Fin 5) (sp : Nat) : Bool := if hcs.val < 4 then sp = 1 else sp = 2

/-- One word read. -/
def State.elRead (s : State) (hcs : Fin 5) (sp a : Nat) : State × (Word ⊕ Byte) :=
  match elTarget hcs sp a with
  | .inr e => (s, .inr e)
  | .inl (.regs snd c key) => s.regWordRead snd c key
  | .inl (.dev key) => s.devWordRead (key / 0x1000) (key % 0x1000)
  | .inl (.window snd c off) =>
    match s.winRead snd c off 4 with
    | (s, .inl bs) => (s, .inl (wordAt bs 0))
    | (s, .inr e) => (s, .inr e)

/-- One word written: none, or its error. -/
def State.elWrite (s : State) (hcs : Fin 5) (sp a : Nat) (w : Word) : State × Option Byte :=
  match elTarget hcs sp a with
  | .inr e => (s, some e)
  | .inl (.regs snd c key) =>
    (s.wordWrite snd c (key / 0x1000) (key % 0x1000) w,
     if !(s.ch c).running then some elERR_DOWN else if snd = .pf4 then some elERR_DENIED else none)
  | .inl (.dev key) =>
    let down := key / 0x1000 = dvMGMT && 0x800 ≤ key % 0x1000 && !(s.ch (mgmtView (key % 0x1000)).1).running
    (s.devWordWrite (key / 0x1000) (key % 0x1000) w, if down then some elERR_DOWN else none)
  | .inl (.window snd c off) =>
    if !(s.ch c).running then (s.downLog snd c (s.winBar snd c off), some elERR_DOWN)
    else if snd = .pf4 then (s.within c fun n => n.fault pgCHCTL cSENDER 9 (windowAddr off), some elERR_DENIED)
    else
      let (n, _) := (s.node c).windowNow off (.write ((bytesLE 4 w.toNat).map some) false)
      (s.within c fun _ => n, none)

/-- Words written in order up to the first error. -/
def State.elWords (s : State) (hcs : Fin 5) (sp : Nat) : Nat → List Word → State × Option Byte
  | _, [] => (s, none)
  | a, w :: ws =>
    match s.elWrite hcs sp a w with
    | (s, some e) => (s, some e)
    | (s, none) => s.elWords hcs sp (a + 4) ws

/-- The bytes driven in a transaction. -/
def State.elOut (s : State) (bs : List Byte) : State := s.onDev fun d => { d with elof := { d.elof with out := bs } }

/-- The function of a chip select. -/
def elFn (hcs : Fin 5) : HostFn := if hcs.val < 4 then .pf (Ch.nth hcs) else .pf4

/-- The first failed write of a chip select: each has a status of its own (R135 makes it a function; DESIGN CHOICE, log
entry 55). -/
def State.elLatch (s : State) (hcs : Fin 5) (e : Byte) : State :=
  if s.dev.elof.status[hcs] = 0 then
    s.onDev fun d => { d with elof := { d.elof with status := d.elof.status.set hcs e } }
  else s

/-- An ERR_FORMAT: counted, EVT_ELOF_ERR. -/
def State.elFormat (s : State) : State :=
  let r := s.dreg dvHOSTP 0x044
  let s := if r.field 8 8 < 255 then s.setDfield dvHOSTP 0x044 8 8 (r.field 8 8 + 1) else s
  s.raiseDev dvELOF_ERR

/-- A transaction starts: the port is Elof and ready; its mode is kept. -/
def State.elBegin (s : State) (mode3 : Bool) : State := s.setDfield dvHOSTP 0x044 0 1 mode3.toNat

/-- The Elof port takes transactions: selected, ready, and the HOST bank up, without which SCK and HCS read 0 (18 R486,
R504). -/
def State.elReady (s : State) : Bool := s.dev.phase = .ready && s.dev.host.elofSel && s.bankUp 16

/-- WAIT bytes before the final status: of a register space the final one starts at the first status cycle at least
⌈120 ns / tSCK⌉ after cycle 8, `tsck` in ps; of a memory space after the bytes its data takes, at most 63. -/
def elWaits (mem : Bool) (tsck wait : Nat) : Nat :=
  if mem then min wait 63
  else
    let c := 8 + ceilDiv 120000 tsck
    if c ≤ 13 then 0 else (c - 13 + 1) / 2

/-- The four header bytes, the first apart from the three of the address as they come (05 R154): OP, SPACE, the words of the transaction, the byte offset. -/
structure ElHeader where
  op    : Nat
  space : Nat
  len   : Nat
  addr  : Nat
deriving DecidableEq, Repr

def elHeader (cmd : Byte) (addr : BitVec 24) : ElHeader :=
  ⟨cmd.toNat / 64, cmd.toNat / 16 % 4, cmd.toNat % 16 + 1, 4 * addr.toNat⟩

/-- The bytes driven from cycle 13 until HCS rises after `cycles` SCK cycles: past the transaction's own bytes 0x00. -/
def elDriven (cycles : Nat) (bs : List Byte) : List Byte :=
  let n := (cycles - 12) / 2
  bs.take n ++ List.replicate (n - bs.length) 0

/-- What an Elof read sends behind its WAIT bytes, with what it does to the machine. -/
def State.elFinal (s : State) (hcs : Fin 5) (h : ElHeader) (wait : Nat) : State × List Byte :=
  let as := (List.range h.len).map fun i => h.addr + 4 * i
  let bad := as.findSome? fun a => match elTarget hcs h.space a with | .inr e => some e | .inl _ => none
  match bad with
  | some e => (if e = elERR_FORMAT then s.elFormat else s, [e])
  | none =>
    if elMemory hcs h.space && 64 ≤ wait then (s, [elERR_TIMEOUT])
    else match readWords (fun s a => s.elRead hcs h.space a) s as with
      | (s, .inl bs) => (s, 0x00 :: bs)
      | (s, .inr e) => (s, [e])

/-- An Elof read; `wait` is the number of status bytes a memory space's data takes. It is performed when its final status
is generated, where HCS has not risen by then. -/
def State.elofRead (s : State) (hcs : Fin 5) (h : ElHeader) (tsck wait cycles : Nat) : State :=
  let n := elWaits (elMemory hcs h.space) tsck wait
  let waits := List.replicate n (0x0F : Byte)
  if cycles < 13 + 2 * n then s.elOut (elDriven cycles (waits ++ List.replicate cycles 0x0F))
  else
    let (s, bs) := s.elFinal hcs h wait
    s.elOut (elDriven cycles (waits ++ bs))

/-- A transaction whose header names a read. -/
def execElofRead (hcs : Fin 5) (mode3 : Bool) (cmd : Byte) (addr : BitVec 24) (tsck wait cycles : Nat) (s : State) : Out :=
  let h := elHeader cmd addr
  .next (if s.elReady && h.op = 0 then (s.elBegin mode3).elofRead hcs h tsck wait cycles else s)

/-- The whole words of received bytes. -/
def wordsOf (bs : List Byte) : List Word := (List.range (bs.length / 4)).map fun i => wordAt bs (4 * i)

/-- An Elof write: each whole word, then ERR_FORMAT for a partial one; `nibble` says that HCS rises inside a byte behind the
data. -/
def State.elofWrite (s : State) (hcs : Fin 5) (h : ElHeader) (data : List Byte) (nibble : Bool) : State :=
  let part := (nibble && data.length < 4 * h.len) || data.length % 4 ≠ 0
  let data := data.take (4 * h.len)
  if elTarget hcs h.space h.addr = .inr elERR_FORMAT then (s.elFormat.elLatch hcs elERR_FORMAT).elOut []
  else
  let (s, e) := s.elWords hcs h.space h.addr (wordsOf data)
  let s := match e with
    | some e => s.elLatch hcs e
    | none => s
  let s := if part then (s.elFormat).elLatch hcs elERR_FORMAT else s
  s.elOut []

/-- A transaction whose header names a write. -/
def execElofWrite (hcs : Fin 5) (mode3 : Bool) (cmd : Byte) (addr : BitVec 24) (data : List Byte) (nibble : Bool) (s : State) :
    Out :=
  let h := elHeader cmd addr
  .next (if s.elReady && h.op = 1 then (s.elBegin mode3).elofWrite hcs h data nibble else s)

/-- An Elof status read: the byte of this chip select, which it clears. -/
def execElofStatusRead (hcs : Fin 5) (mode3 : Bool) (s : State) : Out :=
  .next (
    if !s.elReady then s
    else
      let st := s.dev.elof.status[hcs]
      ((s.elBegin mode3).onDev fun d => { d with elof := { d.elof with status := d.elof.status.set hcs 0 } }).elOut [st])

/-- Two chip selects low at once, or the reserved OP: nothing is driven (05 R153, R154, R156). -/
def execElofHeaderMalformed (t : ElofStart) (hcsLow : Nat) (reservedOp : Bool) (s : State) : Out :=
  .next (
    if !s.elReady then s
    else if 2 ≤ hcsLow then ((s.elBegin t.mode3).raiseDev dvELOF_ERR).elOut []
    else if reservedOp then (s.elBegin t.mode3).elFormat.elOut []
    else s)

/-! ## JTAG (04 R128, R129; 07 R222) -/

/-- The debug port hears its clock: outside device reset, the HOST bank up (18 R486). -/
def State.jtagReady (s : State) : Bool := s.dev.phase ≠ .held && s.bankUp 16

/-- A debugger attaches. -/
def execJtagAttach (s : State) : Out :=
  .next (if !s.jtagReady then s else (s.onDev fun d => { d with jtag := true }).raiseDev dvJTAG_ATTACH)

/-- What the debugger reads. -/
def State.jtagRead (s : State) (v : Word) : State := s.onDev fun d => { d with jtagOut := v }

/-- A value of no rule. -/
def State.jtagFree (s : State) : State :=
  let (x, s) := s.free
  s.jtagRead (x.setWidth 32)

/-- A debugger's access: IDCODE always; ROOKDBG of a running channel with the rights of sender 1, unless the lock is set. -/
def State.jtagOp (s : State) (op : JtagOp) : State :=
  match op with
  | .idcode => s.jtagFree
  | .read c off =>
    if s.dev.otp.locked then s.raiseDev dvDBG_DENY
    else if !(s.ch c).running then s.jtagFree
    else
      let (s, v) := s.withinR c fun n => n.pageRead .pf pgROOKDBG (off % 0x1000)
      s.jtagRead v
  | .write c off v =>
    if s.dev.otp.locked then s.raiseDev dvDBG_DENY
    else if !(s.ch c).running then s
    else s.within c fun n => n.pageWrite .pf pgROOKDBG (off % 0x1000) v

def execJtagAccess (op : JtagOp) (s : State) : Out := .next (if s.jtagReady then s.jtagOp op else s)

/-- Channels whose walker makes a visit in a step without a command: those a free value names (12 R320, log entry 2). -/
def State.walkersStep (s : State) : State :=
  allChannels.foldl (fun t c => if s.free.1.getLsbD c.num && (t.ch c).clocked then t.within c Node.walkTick else t) s.free.2

/-- A step with no command waiting: channels have their clock cycles, walkers make visits, and read requests that may go out
now do (log entry 2). -/
def State.idleStep (s : State) : State := s.clockStep.walkersStep.dmaPump 64

end Sys2Proof.Machine
end

