-- ==== Sys2Proof/Machine/Dispatch.lean ====
section
/-!
DEFINITION. The dispatch: one arm per command, each a direct call of its meaning.
-/

namespace Sys2Proof.Machine

/-- The effect of a command on everything but the queue. -/
def exec (i : Instr) (s : State) : Host.Outcome State Fault Refusal :=
  match i with
  | .registerWrite a => Sys2Proof.Machine.execRegisterWrite a s
  | .unmappedPageAccess snd p acc => Sys2Proof.Machine.execUnmappedPageAccess snd p acc s
  | .pgFaultClear snd p => Sys2Proof.Machine.execPgFaultClear snd p s
  | .blkreset snd p v => Sys2Proof.Machine.execBlkreset snd p v s
  | .blockResetEnd c page => Sys2Proof.Machine.execBlockResetEnd c page s
  | .enableWrite snd p v => Sys2Proof.Machine.execEnableWrite snd p v s
  | .msixUnmask f vec => Sys2Proof.Machine.execMsixUnmask f vec s
  | .evtRookpendClear snd c hi v => Sys2Proof.Machine.execEvtRookpendClear snd c hi v s
  | .evtHostpendClear snd c hi v => Sys2Proof.Machine.execEvtHostpendClear snd c hi v s
  | .vfevPendClear c vf hi v => Sys2Proof.Machine.execVfevPendClear c vf hi v s
  | .devevtPendClear hi v => Sys2Proof.Machine.execDevevtPendClear hi v s
  | .mgmtRead c sp n => Sys2Proof.Machine.execMgmtRead c sp n s
  | .pf4ChannelWrite c sp => Sys2Proof.Machine.execPf4ChannelWrite c sp s
  | .chctlGrantWrite snd c v => Sys2Proof.Machine.execChctlGrantWrite snd c v s
  | .ethRxFrame c p r phyErr stamp => Sys2Proof.Machine.execEthRxFrame c p r phyErr stamp s
  | .canRxFrame c n r stamp => Sys2Proof.Machine.execCanRxFrame c n r stamp s
  | .whistle c => Sys2Proof.Machine.execWhistle c s
  | .whistleEn snd c v => Sys2Proof.Machine.execWhistleEn snd c v s
  | .whistleStep snd c v => Sys2Proof.Machine.execWhistleStep snd c v s
  | .realign snd c v => Sys2Proof.Machine.execRealign snd c v s
  | .armall snd c v => Sys2Proof.Machine.execArmall snd c v s
  | .arm snd c page v => Sys2Proof.Machine.execArm snd c page v s
  | .ledgerMark snd c v => Sys2Proof.Machine.execLedgerMark snd c v s
  | .timeAdjWrite snd c v => Sys2Proof.Machine.execTimeAdjWrite snd c v s
  | .timeNowHiWrite snd c v => Sys2Proof.Machine.execTimeNowHiWrite snd c v s
  | .timeNowLoWrite snd c v => Sys2Proof.Machine.execTimeNowLoWrite snd c v s
  | .timeNowLoRead snd c => Sys2Proof.Machine.execTimeNowLoRead snd c s
  | .whistleCountLoRead snd c => Sys2Proof.Machine.execWhistleCountLoRead snd c s
  | .whistleTimeLoRead snd c => Sys2Proof.Machine.execWhistleTimeLoRead snd c s
  | .timeCtrlWrite snd c v => Sys2Proof.Machine.execTimeCtrlWrite snd c v s
  | .servoReferenceEvent c src stamp => Sys2Proof.Machine.execServoReferenceEvent c src stamp s
  | .referenceInstantMissed c => Sys2Proof.Machine.execReferenceInstantMissed c s
  | .deviceReset cause => Sys2Proof.Machine.execDeviceReset cause s
  | .deviceResetEnd hostsel => Sys2Proof.Machine.execDeviceResetEnd hostsel s
  | .managementStart otpOk => Sys2Proof.Machine.execManagementStart otpOk s
  | .hostPortReady => Sys2Proof.Machine.execHostPortReady s
  | .pwrOn c => Sys2Proof.Machine.execPwrOn c s
  | .channelRailGood c => Sys2Proof.Machine.execChannelRailGood c s
  | .pwrOnRailTimeout c => Sys2Proof.Machine.execPwrOnRailTimeout c s
  | .pllLock c => Sys2Proof.Machine.execPllLock c s
  | .pwrOff c => Sys2Proof.Machine.execPwrOff c s
  | .chReset c => Sys2Proof.Machine.execChReset c s
  | .channelResetDrainEnd c => Sys2Proof.Machine.execChannelResetDrainEnd c s
  | .channelResetScrubEnd c => Sys2Proof.Machine.execChannelResetScrubEnd c s
  | .chctlRstreq snd c v => Sys2Proof.Machine.execChctlRstreq snd c v s
  | .loadBegin c => Sys2Proof.Machine.execLoadBegin c s
  | .bootLoadwinWrite off v => Sys2Proof.Machine.execBootLoadwinWrite off v s
  | .loadEnd c => Sys2Proof.Machine.execLoadEnd c s
  | .bootKept c => Sys2Proof.Machine.execBootKept c s
  | .bootVerifyEnd c => Sys2Proof.Machine.execBootVerifyEnd c s
  | .otpMinver c => Sys2Proof.Machine.execOtpMinver c s
  | .otpKey c => Sys2Proof.Machine.execOtpKey c s
  | .otpRevoke c => Sys2Proof.Machine.execOtpRevoke c s
  | .otpLock c => Sys2Proof.Machine.execOtpLock c s
  | .otpProgrammingDone => Sys2Proof.Machine.execOtpProgrammingDone s
  | .devReset c => Sys2Proof.Machine.execDevReset c s
  | .supervisionTimerExpiry => Sys2Proof.Machine.execSupervisionTimerExpiry s
  | .rstSupvkick v => Sys2Proof.Machine.execRstSupvkick v s
  | .refclkLoss c => Sys2Proof.Machine.execRefclkLoss c s
  | .refclkReturn c => Sys2Proof.Machine.execRefclkReturn c s
  | .channelPowerFault c => Sys2Proof.Machine.execChannelPowerFault c s
  | .thermWarn tj => Sys2Proof.Machine.execThermWarn tj s
  | .thermCrit tj => Sys2Proof.Machine.execThermCrit tj s
  | .thermalShutdown tj => Sys2Proof.Machine.execThermalShutdown tj s
  | .thermalShutdownRelease tj => Sys2Proof.Machine.execThermalShutdownRelease tj s
  | .supplyWindowExit sup mv => Sys2Proof.Machine.execSupplyWindowExit sup mv s
  | .jtagAttach => Sys2Proof.Machine.execJtagAttach s
  | .jtagAccess op => Sys2Proof.Machine.execJtagAccess op s
  | .memoryWindowAccess c off acc => Sys2Proof.Machine.execMemoryWindowAccess c off acc s
  | .elofRead hcs mode3 cmd addr tsck wait cycles => Sys2Proof.Machine.execElofRead hcs mode3 cmd addr tsck wait cycles s
  | .elofWrite hcs mode3 cmd addr data nibble => Sys2Proof.Machine.execElofWrite hcs mode3 cmd addr data nibble s
  | .elofStatusRead hcs mode3 => Sys2Proof.Machine.execElofStatusRead hcs mode3 s
  | .numvfsWrite c v => Sys2Proof.Machine.execNumvfsWrite c v s
  | .functionLevelReset f => Sys2Proof.Machine.execFunctionLevelReset f s
  | .busMasterEnableClear f => Sys2Proof.Machine.execBusMasterEnableClear f s
  | .d3hotEntry f => Sys2Proof.Machine.execD3hotEntry f s
  | .vfEnableClear c => Sys2Proof.Machine.execVfEnableClear c s
  | .hostPortReset => Sys2Proof.Machine.execHostPortReset s
  | .pcieLinkDown => Sys2Proof.Machine.execPcieLinkDown s
  | .pcieLinkUp gen width => Sys2Proof.Machine.execPcieLinkUp gen width s
  | .dmaRingprodWrite snd c f r v => Sys2Proof.Machine.execDmaRingprodWrite snd c f r v s
  | .dmaDescriptorFetch c f r desc => Sys2Proof.Machine.execDmaDescriptorFetch c f r desc s
  | .dmaReadCompletion c f r res => Sys2Proof.Machine.execDmaReadCompletion c f r res s
  | .dmaCompletionTimeout c f r => Sys2Proof.Machine.execDmaCompletionTimeout c f r s
  | .dmaDeadline c f r idx => Sys2Proof.Machine.execDmaDeadline c f r idx s
  | .dmaItemCompletion c f r => Sys2Proof.Machine.execDmaItemCompletion c f r s
  | .dmaRingEnable snd c f r v => Sys2Proof.Machine.execDmaRingEnable snd c f r v s
  | .dmaRingDisable snd c f r v => Sys2Proof.Machine.execDmaRingDisable snd c f r v s
  | .dmaStoppedClear snd c f r => Sys2Proof.Machine.execDmaStoppedClear snd c f r s
  | .dmaDropsRead snd c f r => Sys2Proof.Machine.execDmaDropsRead snd c f r s
  | .memownBankWrite snd c bank v => Sys2Proof.Machine.execMemownBankWrite snd c bank v s
  | .handoverEnd c bank => Sys2Proof.Machine.execHandoverEnd c bank s
  | .eccWriteback c k addr => Sys2Proof.Machine.execEccWriteback c k addr s
  | .memownCecntRead snd c => Sys2Proof.Machine.execMemownCecntRead snd c s
  | .mbInWrite snd c word v => Sys2Proof.Machine.execMbInWrite snd c word v s
  | .send snd c => Sys2Proof.Machine.execSend snd c s
  | .mbInack snd c v => Sys2Proof.Machine.execMbInack snd c v s
  | .mbOutWrite snd c idx word v => Sys2Proof.Machine.execMbOutWrite snd c idx word v s
  | .mbOutsend snd c v => Sys2Proof.Machine.execMbOutsend snd c v s
  | .free snd c => Sys2Proof.Machine.execFree snd c s
  | .commonWrite snd c t word v => Sys2Proof.Machine.execCommonWrite snd c t word v s
  | .tokenClaim snd c t => Sys2Proof.Machine.execTokenClaim snd c t s
  | .tokenRelease snd c t v => Sys2Proof.Machine.execTokenRelease snd c t v s
  | .mbTokforce snd c v => Sys2Proof.Machine.execMbTokforce snd c v s
  | .dbRing snd c v => Sys2Proof.Machine.execDbRing snd c v s
  | .mbHdbRing snd c idx v => Sys2Proof.Machine.execMbHdbRing snd c idx v s
  | .doorbellClear snd c v => Sys2Proof.Machine.execDoorbellClear snd c v s
  | .doorbellMaskWrite snd c v => Sys2Proof.Machine.execDoorbellMaskWrite snd c v s
  | .bundleIssue c => Sys2Proof.Machine.execBundleIssue c s
  | .eventEntry c => Sys2Proof.Machine.execEventEntry c s
  | .impreciseFaultEntry c => Sys2Proof.Machine.execImpreciseFaultEntry c s
  | .waitEnd c => Sys2Proof.Machine.execWaitEnd c s
  | .fabricLoadReturn c => Sys2Proof.Machine.execFabricLoadReturn c s
  | .storeBufferAccept c => Sys2Proof.Machine.execStoreBufferAccept c s
  | .halt snd c => Sys2Proof.Machine.execHalt snd c s
  | .resume snd c => Sys2Proof.Machine.execResume snd c s
  | .debugStep snd c => Sys2Proof.Machine.execDebugStep snd c s
  | .rdataAccess snd c j w => Sys2Proof.Machine.execRdataAccess snd c j w s
  | .spillbaseWrite snd c v => Sys2Proof.Machine.execSpillbaseWrite snd c v s
  | .pawnEngineStep c e balls => Sys2Proof.Machine.execPawnEngineStep c e balls s
  | .pawnGo snd c v => Sys2Proof.Machine.execPawnGo snd c v s
  | .pawnStop snd c v => Sys2Proof.Machine.execPawnStop snd c v s
  | .pawnTxfPush snd c e v => Sys2Proof.Machine.execPawnTxfPush snd c e v s
  | .pawnRxfPop snd c e => Sys2Proof.Machine.execPawnRxfPop snd c e s
  | .pawnIrqset snd c v => Sys2Proof.Machine.execPawnIrqset snd c v s
  | .pawnIrqClear snd c v => Sys2Proof.Machine.execPawnIrqClear snd c v s
  | .pawnDrainWord c e => Sys2Proof.Machine.execPawnDrainWord c e s
  | .pawnFillWord c e => Sys2Proof.Machine.execPawnFillWord c e s
  | .pawnDrainResume snd c e => Sys2Proof.Machine.execPawnDrainResume snd c e s
  | .dieStart snd c u => Sys2Proof.Machine.execDieStart snd c u s
  | .dieFeed8 snd c u v => Sys2Proof.Machine.execDieFeed8 snd c u v s
  | .dieFeed16 snd c u v => Sys2Proof.Machine.execDieFeed16 snd c u v s
  | .dieFeed32 snd c u ws => Sys2Proof.Machine.execDieFeed32 snd c u ws s
  | .dieStateWrite snd c u v => Sys2Proof.Machine.execDieStateWrite snd c u v s
  | .dieMark snd c u => Sys2Proof.Machine.execDieMark snd c u s
  | .carryProbe snd c v => Sys2Proof.Machine.execCarryProbe snd c v s
  | .probeEnd c => Sys2Proof.Machine.execProbeEnd c s
  | .carryRetag snd c v => Sys2Proof.Machine.execCarryRetag snd c v s
  | .carryFailcntRead snd c => Sys2Proof.Machine.execCarryFailcntRead snd c s
  | .ethTransmitStart c p => Sys2Proof.Machine.execEthTransmitStart c p s
  | .ethTransmitEnd c p stamp => Sys2Proof.Machine.execEthTransmitEnd c p stamp s
  | .ethRxtsRead snd c p => Sys2Proof.Machine.execEthRxtsRead snd c p s
  | .ethTxtsRead snd c p => Sys2Proof.Machine.execEthTxtsRead snd c p s
  | .linkChange c p up speed => Sys2Proof.Machine.execLinkChange c p up speed s
  | .mdioStart snd c v => Sys2Proof.Machine.execMdioStart snd c v s
  | .mdioDone c data => Sys2Proof.Machine.execMdioDone c data s
  | .prpLanTimeout c p => Sys2Proof.Machine.execPrpLanTimeout c p s
  | .walkStart c => Sys2Proof.Machine.execWalkStart c s
  | .walkEnd c => Sys2Proof.Machine.execWalkEnd c s
  | .clsExcconsWrite snd c v => Sys2Proof.Machine.execClsExcconsWrite snd c v s
  | .clsBuffree snd c v => Sys2Proof.Machine.execClsBuffree snd c v s
  | .clsExccfgEn snd c v => Sys2Proof.Machine.execClsExccfgEn snd c v s
  | .clsPoolcfgEn snd c v => Sys2Proof.Machine.execClsPoolcfgEn snd c v s
  | .shapeTxprodWrite snd c p k v => Sys2Proof.Machine.execShapeTxprodWrite snd c p k v s
  | .txRingFetch c p k => Sys2Proof.Machine.execTxRingFetch c p k s
  | .txEntryCompletion c p k => Sys2Proof.Machine.execTxEntryCompletion c p k s
  | .txDeadline c p k idx => Sys2Proof.Machine.execTxDeadline c p k idx s
  | .gateEntry c p => Sys2Proof.Machine.execGateEntry c p s
  | .shapeTxcfgEn snd c p k v => Sys2Proof.Machine.execShapeTxcfgEn snd c p k v s
  | .txStoppedClear snd c p k => Sys2Proof.Machine.execTxStoppedClear snd c p k s
  | .canTxreq snd c n v => Sys2Proof.Machine.execCanTxreq snd c n v s
  | .canTxabort snd c n v => Sys2Proof.Machine.execCanTxabort snd c n v s
  | .canAttemptStart c n stamp => Sys2Proof.Machine.execCanAttemptStart c n stamp s
  | .canAttemptEnd c n r => Sys2Proof.Machine.execCanAttemptEnd c n r s
  | .canDeadline c n slot => Sys2Proof.Machine.execCanDeadline c n slot s
  | .recover snd c n => Sys2Proof.Machine.execRecover snd c n s
  | .busOffRecoveryEnd c n => Sys2Proof.Machine.execBusOffRecoveryEnd c n s
  | .objectHeaderRead snd c n idx => Sys2Proof.Machine.execObjectHeaderRead snd c n idx s
  | .objectLastWordRead snd c n idx => Sys2Proof.Machine.execObjectLastWordRead snd c n idx s
  | .objunlock snd c n v => Sys2Proof.Machine.execObjunlock snd c n v s
  | .canRqack snd c n v => Sys2Proof.Machine.execCanRqack snd c n v s
  | .abdStart snd c n v => Sys2Proof.Machine.execAbdStart snd c n v s
  | .abdDwellExpiry c n => Sys2Proof.Machine.execAbdDwellExpiry c n s
  | .referenceMessageRequest c n => Sys2Proof.Machine.execReferenceMessageRequest c n s
  | .ttTimeout c n => Sys2Proof.Machine.execTtTimeout c n s
  | .canModeChange c n => Sys2Proof.Machine.execCanModeChange c n s
  | .tpbFrameRx c n f => Sys2Proof.Machine.execTpbFrameRx c n f s
  | .tpbRawCharacter c n before bits stop stamp => Sys2Proof.Machine.execTpbRawCharacter c n before bits stop stamp s
  | .tpbRawRunClose c n => Sys2Proof.Machine.execTpbRawRunClose c n s
  | .tpbTxprodWrite snd c n r v => Sys2Proof.Machine.execTpbTxprodWrite snd c n r v s
  | .tpbAttemptStart c n => Sys2Proof.Machine.execTpbAttemptStart c n s
  | .tpbAttemptEnd c n echo => Sys2Proof.Machine.execTpbAttemptEnd c n echo s
  | .tpbSlotTimerExpiry c n => Sys2Proof.Machine.execTpbSlotTimerExpiry c n s
  | .tpbDeadline c n r => Sys2Proof.Machine.execTpbDeadline c n r s
  | .tpbAnswer c n => Sys2Proof.Machine.execTpbAnswer c n s
  | .tokenPass c n => Sys2Proof.Machine.execTokenPass c n s
  | .tpbTokenClaim c n => Sys2Proof.Machine.execTpbTokenClaim c n s
  | .tpbBackoffEnd c n silent => Sys2Proof.Machine.execTpbBackoffEnd c n silent s
  | .tpbBreak c n => Sys2Proof.Machine.execTpbBreak c n s
  | .tpbRqack snd c n v => Sys2Proof.Machine.execTpbRqack snd c n v s
  | .tpbStoppedClear snd c n r => Sys2Proof.Machine.execTpbStoppedClear snd c n r s
  | .run snd c v => Sys2Proof.Machine.execRun snd c v s
  | .sleep snd c v => Sys2Proof.Machine.execSleep snd c v s
  | .wakeup snd c v => Sys2Proof.Machine.execWakeup snd c v s
  | .stop snd c v => Sys2Proof.Machine.execStop snd c v s
  | .wakeupPatternEnd at_ => Sys2Proof.Machine.execWakeupPatternEnd at_ s
  | .wakeupPatternDetect c m => Sys2Proof.Machine.execWakeupPatternDetect c m s
  | .slbFrameRx c m f => Sys2Proof.Machine.execSlbFrameRx c m f s
  | .slbActionPoint c => Sys2Proof.Machine.execSlbActionPoint c s
  | .slbMinislotEnd c m => Sys2Proof.Machine.execSlbMinislotEnd c m s
  | .slbStaticSlotEnd c => Sys2Proof.Machine.execSlbStaticSlotEnd c s
  | .slbOffsetRateCorrection c => Sys2Proof.Machine.execSlbOffsetRateCorrection c s
  | .slbCyclePairEnd c => Sys2Proof.Machine.execSlbCyclePairEnd c s
  | .slbCycleStart c => Sys2Proof.Machine.execSlbCycleStart c s
  | .slbListenTimerExpiry c => Sys2Proof.Machine.execSlbListenTimerExpiry c s
  | .slbColdstartWaitEnd c silent => Sys2Proof.Machine.execSlbColdstartWaitEnd c silent s
  | .cyclePoint c idx => Sys2Proof.Machine.execCyclePoint c idx s
  | .slbTxready snd c idx v => Sys2Proof.Machine.execSlbTxready snd c idx v s
  | .slbTxabort snd c idx v => Sys2Proof.Machine.execSlbTxabort snd c idx v s
  | .slbDeadline c b => Sys2Proof.Machine.execSlbDeadline c b s
  | .slbEmptyRead snd c j => Sys2Proof.Machine.execSlbEmptyRead snd c j s
  | .bankDrop k => Sys2Proof.Machine.execBankDrop k s
  | .bankReturn k => Sys2Proof.Machine.execBankReturn k s
  | .ppsInEdge c rising => Sys2Proof.Machine.execPpsInEdge c rising s
  | .ppsOutRise c => Sys2Proof.Machine.execPpsOutRise c s
  | .ppsOutFall c => Sys2Proof.Machine.execPpsOutFall c s
  | .timePpsinLoRead snd c => Sys2Proof.Machine.execTimePpsinLoRead snd c s
  | .ttmarkLoRead snd c n => Sys2Proof.Machine.execTtmarkLoRead snd c n s
  | .busIntegration c n => Sys2Proof.Machine.execBusIntegration c n s
  | .elofHeaderMalformed t hcsLow reservedOp => Sys2Proof.Machine.execElofHeaderMalformed t hcsLow reservedOp s

end Sys2Proof.Machine
end

