-- ==== Sys2Proof/Machine/Pins.lean ====
section
/-!
DEFINITION. What the device does with its output balls between two commands (18 R486, R487, R489, R494). No command reads a
ball back but through what the networks bring, so this is a view of the state: a ball on which a waveform runs shows
`active` (log entry 46).
-/

namespace Sys2Proof.Machine

/-- The output and bidirectional balls (18 R484); a class of balls that act alike is one. -/
inductive Ball where
  | rgmii (c : Ch) (p : Port) | sgmii (c : Ch) (p : Port) | phyRst (c : Ch) | mdc (c : Ch) | mdio (c : Ch)
  | canTxd (c : Ch) (u : Unit2) | tpbTxd (c : Ch) (u : Unit2) | tpbDe (c : Ch) (u : Unit2)
  | slbTxd (c : Ch) (m : Port) | slbTxen (c : Ch) (m : Port) | pp (c : Ch) (p : Fin 24) | ppsOut (c : Ch)
  | pcieLanes | wake | clkreq | elofIo | hirq (l : Fin 5) | tdo
deriving DecidableEq, Repr

/-- A ball is high impedance, low, high, at electrical idle, or carries the waveform of its block. -/
inductive Drive where
  | hiz | low | high | idle | active
deriving DecidableEq, Repr

def Drive.of (b : Bool) : Drive := if b then .high else .low

/-- An open-drain ball. -/
def Drive.pull (b : Bool) : Drive := if b then .low else .hiz

/-- The bank that supplies a ball's driver; the SerDes balls lie in none (18 R484, R485). -/
def Ball.bank : Ball → Option Nat
  | .rgmii c p => some (4 * c.num + p.num)
  | .sgmii _ _ | .pcieLanes => none
  | .phyRst c | .mdc c | .mdio c | .canTxd c _ | .tpbTxd c _ | .tpbDe c _ | .slbTxd c _ | .slbTxen c _ | .ppsOut c =>
    some (4 * c.num + 2)
  | .pp c _ => some (4 * c.num + 3)
  | .wake | .clkreq | .elofIo | .hirq _ | .tdo => some 16

/-- The channel in whose power domain a ball's driver lies (18 R486). -/
def Ball.chan : Ball → Option Ch
  | .rgmii c _ | .sgmii c _ | .phyRst c | .mdc c | .mdio c | .canTxd c _ | .tpbTxd c _ | .tpbDe c _ | .slbTxd c _
  | .slbTxen c _ | .pp c _ | .ppsOut c => some c
  | .pcieLanes | .wake | .clkreq | .elofIo | .hirq _ | .tdo => none

/-- A port's interface: enabled, and ETHx_CFG.IF selects it (11 R305, R310). -/
def Channel.ethDrive (k : Channel) (p : Port) (sgmii : Bool) : Drive :=
  if k.live (pgEth p) && (k.reg (pgEth p) 0x040).field 0 2 = sgmii.toNat then .active else .hiz

/-- CAN TXD: recessive but for what modes 0 and 2 drive; held recessive in internal loopback (14 R369). -/
def Channel.canDrive (k : Channel) (u : Unit2) : Drive :=
  if !k.live (pgCan u) then .hiz
  else if (k.can u).bus = .quiet || k.canMode u = 1 || k.canMode u = 3 then .high
  else .active

/-- TPB TXD or DE: active while something goes out, else at their idle levels, high and low (15 R406). -/
def Channel.tpbDrive (k : Channel) (u : Unit2) (de : Bool) : Drive :=
  if !k.live (pgTpb u) then .hiz
  else match (k.tpb u).out with
    | .frame | .answer => .active
    | .quiet => .of !de

/-- SLB TXD or TXEN; both high while the node does not transmit (16 R432). -/
def Channel.slbDrive (k : Channel) (m : Port) : Drive :=
  if !k.live pgSLB then .hiz
  else if (k.slb.med m).wake || (k.slb.med m).tx ≠ [] then .active else .high

/-- A ball of a channel in RUN whose bank is up. -/
def Channel.ballDrive (k : Channel) : Ball → Drive
  | .rgmii _ p => k.ethDrive p false
  | .sgmii _ p => k.ethDrive p true
  | .phyRst _ => .of ((k.reg pgETHA 0x094).bit 0)
  | .mdc _ => if (k.reg pgETHA 0x090).bit 31 then .active else .low
  | .mdio _ => if (k.reg pgETHA 0x090).bit 31 then .active else .hiz
  | .canTxd _ u => k.canDrive u
  | .tpbTxd _ u => k.tpbDrive u false
  | .tpbDe _ u => k.tpbDrive u true
  | .slbTxd _ m | .slbTxen _ m => k.slbDrive m
  | .pp _ p => if k.pinDriven p then .of (k.pawn.outL.getLsbD p) else .hiz
  | .ppsOut _ => if k.ppsEn then .of k.tb.ppsOut else .hiz
  | .pcieLanes | .wake | .clkreq | .elofIo | .hirq _ | .tdo => .hiz

/-- A ball of the device domain (18 R489, R494). Elof's IO lines and TDO are driven only within a transaction, which is one
command. -/
def State.devDrive (s : State) : Ball → Drive
  | .pcieLanes =>
    if s.dev.phase = .held || (s.dev.phase ≠ .ready && !s.dev.host.elofSel) then .idle
    else if s.dev.host.elofSel then .hiz else .active
  | .wake => .pull (s.dev.phase = .ready && !s.dev.host.elofSel && !s.dev.host.linkUp && s.dev.host.trained && s.devRouted)
  | .clkreq => .pull (s.dev.phase = .ready && !s.dev.host.elofSel)
  | .hirq l => .pull (s.dev.phase = .ready && if l.val = 4 then s.hirq4 else s.hirq (Ch.nth l))
  | .elofIo | .tdo | .rgmii _ _ | .sgmii _ _ | .phyRst _ | .mdc _ | .mdio _ | .canTxd _ _ | .tpbTxd _ _ | .tpbDe _ _
  | .slbTxd _ _ | .slbTxen _ _ | .pp _ _ | .ppsOut _ => .hiz

/-- What the powered device does with a ball (18 R487, R489). -/
def State.ball (s : State) (b : Ball) : Drive :=
  if (b.bank.map s.bankUp).getD true then
    match b.chan with
    | some c => if (s.ch c).running then (s.ch c).ballDrive b else .hiz
    | none => s.devDrive b
  else .hiz

/-- What a device does with a ball: an unpowered one has no state, and drives nothing (18 R489, R492). -/
def deviceBall (d : Option State) (b : Ball) : Drive :=
  match d with
  | some s => s.ball b
  | none => .hiz

end Sys2Proof.Machine
end

