-- ==== Sys2Proof/Safety.lean ====
section
/-!
DEFINITION. The terms statements are made in: a run no step of which stops, a request that reaches its channel, and what a
command leaves of a state.
-/

namespace Sys2Proof.Machine

/-- A step that goes on. -/
def StepsOn (s : State) : Prop := ∃ t, step s = .next t

/-- `n` steps from a state all go on. -/
def RunsOn : Nat → State → Prop
  | 0, _ => True
  | n + 1, s => ∃ t, step s = .next t ∧ RunsOn n t

/-- A request of a sender reaches a channel in RUN: the Rook's always does, a host function's over the host port (05 R134,
R158, R162). -/
abbrev State.reaches (s : State) (snd : Sender) (c : Ch) : Prop :=
  (s.ch c).boot = .run ∧ (snd.isHost = true → s.arrives (senderFn snd c) = true)

/-- Two channels agree but for the registers of CHCTL and EVT, which a forwarded device event writes (03 R84). -/
def Channel.Keeps (k k' : Channel) : Prop :=
  { k' with regs := k.regs } = k ∧ ∀ key, key / 0x1000 ≠ pgCHCTL → key / 0x1000 ≠ pgEVT →
    SMap.get? k'.regs key = SMap.get? k.regs key

/-- Two states agree but for CHCTL, EVT and the device registers and messages of device events. -/
def State.Keeps (s t : State) : Prop :=
  (∀ d, (s.ch d).Keeps (t.ch d)) ∧ t.dev.otp = s.dev.otp ∧ t.pending = s.pending ∧ t.dev.phase = s.dev.phase

end Sys2Proof.Machine
end

