-- ==== Sys2Proof/Certificates/Slice0/Obligations.lean ====
section
/-!
DEFINITION. The statements for the provers. Every statement that says where a command completes gives the next state, or
what it holds, under hypotheses on the state and the operands alone.
-/

open Sys2Proof Sys2Proof.Machine

namespace Sys2Proof.Claims

/-- The senders that reach every register of a channel: its Rook and its PF (05 R137, R141). -/
abbrev Own (snd : Sender) : Prop := snd = .rook ∨ snd = .pf

/-- A request of PF4 arrives at the device. -/
abbrev FromPf4 (s : State) : Prop := s.arrives .pf4 = true

/-- A channel page takes block register accesses: no block reset is in progress (03 R73). -/
abbrev Free (s : State) (c : Ch) (page : Nat) : Prop := (s.ch c).busy page = false

/-- Function j of channel c: the PF is 0, VFv is v (05 R144). -/
abbrev FnOf (f : HostFn) (c : Ch) (j : Nat) : Prop := (f = .pf c ∧ j = 0) ∨ ∃ v, f = .vf c v ∧ j = v.val + 1

/-- The record of a fault in PG_FAULT: the first is latched with code, sender and COUNT 1, a later one only counts, up to
255 (03 R92, R94). -/
def Recorded (k k' : Channel) (page code snd : Nat) (addr : Word) : Prop :=
  if (k.reg page 0x00C).bit 31 then
    k'.reg page 0x00C = (if (k.reg page 0x00C).field 8 8 + 1 < 256 then
      (k.reg page 0x00C).setField 8 8 ((k.reg page 0x00C).field 8 8 + 1) else k.reg page 0x00C) ∧
    k'.reg page 0x010 = k.reg page 0x010
  else k'.reg page 0x00C = BitVec.ofNat 32 (code + 0x100 + snd * 0x10000 + 0x80000000) ∧ k'.reg page 0x010 = addr

/-- Nothing but registers of a channel differs. -/
def RegsOnly (k k' : Channel) : Prop := { k' with regs := k.regs } = k

/-- Of a channel nothing differs but a page's fault record and the EVT page, where its event shows. -/
def FaultOnly (k k' : Channel) (page : Nat) : Prop :=
  RegsOnly k k' ∧ ∀ p off, off < 0x1000 → p ≠ pgEVT → (p ≠ page ∨ (off ≠ 0x00C ∧ off ≠ 0x010)) → k'.reg p off = k.reg p off

/-- The record of a fault on a device page, by PF4 (03 R92, R94). -/
def DevRecorded (s t : State) (page code : Nat) (addr : Word) : Prop :=
  if (s.dreg page 0x00C).bit 31 then
    t.dreg page 0x00C = (if (s.dreg page 0x00C).field 8 8 < 255 then
      (s.dreg page 0x00C).setField 8 8 ((s.dreg page 0x00C).field 8 8 + 1) else s.dreg page 0x00C) ∧
    t.dreg page 0x010 = s.dreg page 0x010
  else t.dreg page 0x00C = BitVec.ofNat 32 (code + 0x100 + 9 * 0x10000 + 0x80000000) ∧ t.dreg page 0x010 = addr

/-- Of the machine nothing differs but a device page's fault record. -/
def DevFaultOnly (s t : State) (page : Nat) : Prop :=
  t.pending = s.pending ∧ (∀ c, t.ch c = s.ch c) ∧ t.dev = { s.dev with dregs := t.dev.dregs } ∧
  ∀ p off, off < 0x1000 → p ≠ page ∨ (off ≠ 0x00C ∧ off ≠ 0x010) → t.dreg p off = s.dreg p off

/-- The host has its answer to a read: on PCIe a completion behind whatever else went out, with the data or an error status;
on Elof the bytes driven, OK and the data or the error code (05 R151, R155, R156). -/
def Answered (s t : State) (f : HostFn) (r : List Byte ⊕ Byte) : Prop :=
  if s.dev.host.elofSel then
    t.dev.elof.out = (match r with | .inl bs => 0x00 :: bs | .inr e => [e])
  else ∃ l, t.dev.host.upstream = s.dev.host.upstream ++ l ++
    [.cpl (match r with | .inl bs => ⟨f, true, bs⟩ | .inr _ => ⟨f, false, []⟩)]

/-- A device event is pending in DEVEVT_PEND (03 R84). -/
def DevPending (t : State) (e : Nat) : Prop := (t.dreg dvDEVEVT (devPendOff e)).bit (e % 32) = true

/-- The block registers of a page are at their Reset values, both sets, and PG_CTRL and PG_SHADOW with them; `keep` names offsets
that stay. -/
def PageBlank (k : Channel) (page : Nat) (keep : Nat → Bool) : Prop :=
  ∀ off, off < 0x1000 → 0x040 ≤ off ∨ off = 0x008 ∨ off = 0x01C → keep off = false →
    k.reg page off = chanBlank (regKey page off) ∧ k.shad page off = chanBlank (regKey page off)

/-- The register a write command of a fixed form accesses: sender, channel, page and offset. A command on a page that does not
exist has none. -/
def writeForm : Instr → Option (Sender × Ch × Nat × Nat)
  | .pgFaultClear snd (.chan c page) => if page ∈ chanPages then some (snd, c, page, 0x00C) else none
  | .blkreset snd (.chan c page) _ | .enableWrite snd (.chan c page) _ =>
    if page ∈ chanPages then some (snd, c, page, 0x008) else none
  | .arm snd c page _ => if page ∈ chanPages then some (snd, c, page, 0x01C) else none
  | .evtRookpendClear snd c hi _ => some (snd, c, pgEVT, if hi then 0x044 else 0x040)
  | .evtHostpendClear snd c hi _ => some (snd, c, pgEVT, hostPendOff hi)
  | .chctlGrantWrite snd c _ => some (snd, c, pgCHCTL, 0x044)
  | .chctlRstreq snd c _ => some (snd, c, pgCHCTL, 0x050)
  | .whistleEn snd c _ | .whistleStep snd c _ | .realign snd c _ | .armall snd c _ => some (snd, c, pgWHISTLE, 0x040)
  | .ledgerMark snd c _ => some (snd, c, pgWHISTLE, 0x070)
  | .timeAdjWrite snd c _ => some (snd, c, pgTIME, 0x050)
  | .timeNowHiWrite snd c _ => some (snd, c, pgTIME, 0x04C)
  | .timeNowLoWrite snd c _ => some (snd, c, pgTIME, 0x048)
  | .timeCtrlWrite snd c _ => some (snd, c, pgTIME, 0x040)
  | .memownBankWrite snd c bank _ => some (snd, c, pgMEMOWN, 0x040 + 4 * bank.val)
  | .halt snd c | .resume snd c | .debugStep snd c => some (snd, c, pgROOKDBG, 0x040)
  | .spillbaseWrite snd c _ => some (snd, c, pgROOKDBG, 0x058)
  | .pawnGo snd c _ | .pawnStop snd c _ => some (snd, c, pgPAWN, 0x040)
  | .pawnTxfPush snd c e _ => some (snd, c, pgPAWN, 0x100 + 0x40 * e.val + 0x14)
  | .pawnDrainResume snd c e => some (snd, c, pgPAWN, 0x100 + 0x40 * e.val + 0x30)
  | .pawnIrqset snd c _ => some (snd, c, pgPAWN, 0x050)
  | .pawnIrqClear snd c _ => some (snd, c, pgPAWN, 0x04C)
  | .dieStart snd c u | .dieMark snd c u => some (snd, c, pgDIE, dieU u)
  | .dieFeed8 snd c u _ => some (snd, c, pgDIE, dieU u + 0x34)
  | .dieFeed16 snd c u _ => some (snd, c, pgDIE, dieU u + 0x30)
  | .dieFeed32 snd c u _ => some (snd, c, pgDIE, dieU u + 0x20)
  | .dieStateWrite snd c u _ => some (snd, c, pgDIE, dieU u + 0x08)
  | .carryProbe snd c _ => some (snd, c, pgCARRY, 0x048)
  | .carryRetag snd c _ => some (snd, c, pgCARRY, 0x058)
  | .mdioStart snd c _ => some (snd, c, pgETHA, 0x090)
  | .clsExcconsWrite snd c _ => some (snd, c, pgCLS, 0x078)
  | .clsBuffree snd c _ => some (snd, c, pgCLS, 0x088)
  | .clsExccfgEn snd c _ => some (snd, c, pgCLS, 0x070)
  | .clsPoolcfgEn snd c _ => some (snd, c, pgCLS, 0x080)
  | .shapeTxprodWrite snd c p k _ => some (snd, c, pgSHAPE, qReg p k + 0x18)
  | .shapeTxcfgEn snd c p k _ => some (snd, c, pgSHAPE, qReg p k + 0x14)
  | .txStoppedClear snd c p k => some (snd, c, pgSHAPE, qReg p k + 0x1C)
  | .canTxreq snd c u _ => some (snd, c, pgCan u, 0x084)
  | .canTxabort snd c u _ => some (snd, c, pgCan u, 0x08C)
  | .recover snd c u => some (snd, c, pgCan u, 0x05C)
  | .objunlock snd c u _ => some (snd, c, pgCan u, 0x078)
  | .canRqack snd c u _ => some (snd, c, pgCan u, 0x074)
  | .abdStart snd c u _ => some (snd, c, pgCan u, 0x0A0)
  | .tpbTxprodWrite snd c u r _ => some (snd, c, pgTpb u, tpbReg0 r + 8)
  | .tpbStoppedClear snd c u r => some (snd, c, pgTpb u, tpbReg0 r + 12)
  | .tpbRqack snd c u _ => some (snd, c, pgTpb u, 0x0AC)
  | .run snd c _ | .sleep snd c _ | .wakeup snd c _ | .stop snd c _ => some (snd, c, pgSLB, 0x064)
  | .slbTxready snd c i _ => some (snd, c, pgSLB, 0x080 + 4 * i.val)
  | .slbTxabort snd c i _ => some (snd, c, pgSLB, 0x090 + 4 * i.val)
  | _ => none

/-- The register a read command of a fixed form accesses. -/
def readForm : Instr → Option (Sender × Ch × Nat × Nat)
  | .timeNowLoRead snd c => some (snd, c, pgTIME, 0x048)
  | .whistleCountLoRead snd c => some (snd, c, pgWHISTLE, 0x050)
  | .whistleTimeLoRead snd c => some (snd, c, pgWHISTLE, 0x058)
  | .timePpsinLoRead snd c => some (snd, c, pgTIME, 0x074)
  | .ttmarkLoRead snd c u => some (snd, c, pgCan u, 0x15C)
  | .memownCecntRead snd c => some (snd, c, pgMEMOWN, 0x080)
  | .carryFailcntRead snd c => some (snd, c, pgCARRY, 0x044)
  | .ethRxtsRead snd c p => some (snd, c, pgEth p, 0x068)
  | .ethTxtsRead snd c p => some (snd, c, pgEth p, 0x078)
  | .pawnRxfPop snd c e => some (snd, c, pgPAWN, 0x100 + 0x40 * e.val + 0x18)
  | .slbEmptyRead snd c j => some (snd, c, pgSLB, 0x800 + 4 * j.val)
  | _ => none

/-- A write command on a mailbox register that every own view has, or the Rook and every own view: its sender, its channel, and
the offset its faults show (06 R196, R197). -/
def mailForm : Instr → Option (Sender × Ch × Nat)
  | .mbInWrite snd c w _ => some (snd, c, 0x800 + (0x040 + 4 * w.val))
  | .send snd c | .free snd c => some (snd, c, 0x800 + 0x084)
  | .dbRing snd c _ => some (snd, c, 0x800 + 0x088)
  | .commonWrite snd c t w _ => some (snd, c, commonOff snd t w)
  | .tokenClaim snd c t | .tokenRelease snd c t _ => some (snd, c, tokenOff snd t)
  | .doorbellClear snd c _ => some (snd, c, if snd = .rook then 0x050 else 0x800 + 0x08C)
  | .doorbellMaskWrite snd c _ => some (snd, c, if snd = .rook then 0x054 else 0x800 + 0x090)
  | _ => none

/-- A write command on a mailbox register of the Rook's region (06 R196). -/
def rookForm : Instr → Option (Sender × Ch × Nat)
  | .mbInack snd c _ => some (snd, c, 0x044)
  | .mbOutWrite snd c j w _ => some (snd, c, mbOUT j w)
  | .mbOutsend snd c _ => some (snd, c, 0x04C)
  | .mbTokforce snd c _ => some (snd, c, 0x06C)
  | .mbHdbRing snd c j _ => some (snd, c, 0x080 + 4 * j.val)
  | _ => none

/-- A write command on a register of a DMA ring: its sender, channel, function and offset. -/
def dmaForm : Instr → Option (Sender × Ch × Fin 8 × Nat)
  | .dmaRingEnable snd c f r _ | .dmaRingDisable snd c f r _ => some (snd, c, f, dmaB f r + 0x10)
  | .dmaRingprodWrite snd c f r _ => some (snd, c, f, dmaB f r + 0x14)
  | .dmaStoppedClear snd c f r => some (snd, c, f, dmaB f r + 0x1C)
  | _ => none

/-- The senders that reach the rings of function f (05 R141): the Rook, the PF, and the VF whose they are. -/
abbrev Rings (snd : Sender) (f : Fin 8) : Prop := snd = .rook ∨ snd = .pf ∨ ∃ v : Fin 7, snd = .vf v ∧ f.val = v.val + 1

/-- Items of a ring, their read requests left aside. -/
def Told (l : List DmaItem) : List DmaItem := l.map fun it => { it with asked := 0 }

/-- The fuse invariant: the minimum version is legal, and an OTP_KEY command runs only for an unprogrammed slot (04 R103). -/
def FuseInv (s : State) : Prop :=
  s.dev.otp.minver ≤ 64 ∧
  ∀ m, s.dev.cmd = some m → m.op = opOTP_KEY → s.dev.otp.prog.getLsbD (m.arg.field 0 2) = false

end Sys2Proof.Claims

open Sys2Proof.Claims

/-! ## The machine as a whole -/

/-- A step takes the command at the front of the queue and runs it with the rest of the queue. -/
def Obligations.StepRunsFrontCommand : Prop :=
  ∀ (i : Instr) (rest : List Instr) (s : State), s.pending = i :: rest →
    Sys2Proof.Machine.step s = Sys2Proof.Machine.exec i { s with pending := rest }

/-- With no command waiting a step is one step of time (the model's choice, log entry 2). The channels' clocks are their own
(01 R32): a free value names those that have a cycle in it, and a channel with a clock that has one advances its time base by
TIME_INCR (02 R43); the others' time stands. The queue, the fuses and the memories stay. Where no classifier walk is under way
and no DMA read waits to be asked for, that is all. -/
def Obligations.IdleStepIsOneCycle : Prop :=
  ∀ s : State, s.pending = [] → ∃ t, Sys2Proof.Machine.step s = .next t ∧ t.pending = [] ∧ t.dev.otp = s.dev.otp ∧
    (∀ c, let on := (Config.freeValue s.freeCtr).getLsbD c.num && (s.ch c).clocked
      (t.ch c).tb = (if on then
        { (s.ch c).tb with acc := (s.ch c).tb.acc + BitVec.ofNat 88 ((s.ch c).reg pgTIME 0x044).toNat } else (s.ch c).tb) ∧
      (t.ch c).wh = (if on then { (s.ch c).wh with elapsed := (s.ch c).wh.elapsed + 1 } else (s.ch c).wh) ∧
      (t.ch c).sram = (s.ch c).sram ∧ (t.ch c).boot = (s.ch c).boot ∧ (t.ch c).pwr = (s.ch c).pwr) ∧
    ((∀ c, (s.ch c).cls.walk = none ∧ s.asking c = none) →
      t.dev = s.dev ∧ t.freeCtr = s.freeCtr + 2 ∧
      ∀ c, t.ch c = if (Config.freeValue s.freeCtr).getLsbD c.num then (s.ch c).tick else s.ch c)

/-- The machine in power-on reset: every channel is off with its registers at their Reset values, its memories listing
nothing; the device is held, no command runs, the host port is down; the queue is empty. That the machine starts held
in device reset is the model's choice (log entry 5). -/
def Obligations.ResetState : Prop :=
  State.reset.pending = [] ∧ State.reset.dev.phase = .held ∧ State.reset.dev.cmd = none ∧
  State.reset.dev.dregs = [] ∧ State.reset.dev.host = HostPort.reset ∧
  (∀ page off, State.reset.dreg page off = devBlank (regKey page off)) ∧
  ∀ c, (State.reset.ch c).pwr = .off ∧ (State.reset.ch c).boot = .off ∧ (State.reset.ch c).rook.running = false ∧
    (∀ page off, (State.reset.ch c).reg page off = chanBlank (regKey page off) ∧
      (State.reset.ch c).shad page off = chanBlank (regKey page off)) ∧
    Memory.wf (State.reset.ch c).sram = true ∧ Memory.wf (State.reset.ch c).iram = true ∧
    Memory.wf (State.reset.ch c).dtcm = true ∧ SMap.wf chanBlank (State.reset.ch c).regs = true

/-- No command of any channel stops the machine: from every state a step answers a next state, and so do `n` of them. -/
def Obligations.EveryRunGoesOn : Prop := ∀ (n : Nat) (s : State), RunsOn n s

/-- The fuses are one-way. Whatever the command, a step never lowers the minimum version and never clears SECURE, DBGLOCK, a
revocation or a programmed mark; and under the invariant of FuseInvariantKept it changes the key hash of no programmed slot. -/
def Obligations.FusesOnlyGrow : Prop :=
  ∀ s t : State, Sys2Proof.Machine.step s = .next t →
    s.dev.otp.minver ≤ t.dev.otp.minver ∧ (s.dev.otp.secure = true → t.dev.otp.secure = true) ∧
    (s.dev.otp.dbglock = true → t.dev.otp.dbglock = true) ∧
    (∀ j : Fin 4, s.dev.otp.revoke.getLsbD j = true → t.dev.otp.revoke.getLsbD j = true) ∧
    (∀ j : Fin 4, s.dev.otp.prog.getLsbD j = true → t.dev.otp.prog.getLsbD j = true) ∧
    (FuseInv s → ∀ j : Fin 4, s.dev.otp.prog.getLsbD j = true → t.dev.otp.keys[j] = s.dev.otp.keys[j])

/-- An invariant every step keeps, in every state: the fused minimum version lies in 0 to 64, and an OTP_KEY command that runs
has a slot that is not programmed. -/
def Obligations.FuseInvariantKept : Prop :=
  ∀ s t : State, FuseInv s → Sys2Proof.Machine.step s = .next t → FuseInv t

/-- The reset state meets the invariant of FuseInvariantKept. -/
def Obligations.FuseInvariantAtReset : Prop := FuseInv State.reset

/-- An occurrence of a channel event (03 R80 to R82): its PG_EVENTS bit is set; masked, it sets no pending bit and sends
nothing; unmasked, it sets EVT_ROOKPEND where its route says so and EVT_HOSTPEND where its route says so, and a message goes
only with a bit of EVT_HOSTPEND that was 0. Nothing of the channel but registers changes. -/
def Obligations.EventOccurrence : Prop :=
  ∀ (n : Node) (e : Nat), e < 48 →
    RegsOnly n.k (n.raise e).k ∧ (n.raise e).evs = n.evs ∧
    ((n.raise e).reg (evtHome e).1 0x014).bit (evtHome e).2 = true ∧
    ((n.reg (evtHome e).1 0x018).bit (evtHome e).2 = false →
      (n.raise e).host = n.host ∧ (n.raise e).k = n.k.setReg (evtHome e).1 0x014
        ((n.reg (evtHome e).1 0x014).setBit (evtHome e).2 true)) ∧
    ((n.reg (evtHome e).1 0x018).bit (evtHome e).2 = true →
      (((n.reg pgEVT (0x100 + 4 * e)).bit 0 = true → ((n.raise e).reg pgEVT (pendOff 0x040 e)).bit (e % 32) = true) ∧
       ((n.reg pgEVT (0x100 + 4 * e)).bit 1 = true → ((n.raise e).reg pgEVT (pendOff 0x048 e)).bit (e % 32) = true) ∧
       ((n.reg pgEVT (0x100 + 4 * e)).bit 1 = true → (n.reg pgEVT (pendOff 0x048 e)).bit (e % 32) = true →
         (n.raise e).host = n.host) ∧
       ((n.reg pgEVT (0x100 + 4 * e)).bit 1 = true → (n.reg pgEVT (pendOff 0x048 e)).bit (e % 32) = false →
         (n.raise e).host = n.host.msi (chFn n.c ((n.reg pgEVT (0x100 + 4 * e)).field 2 4 - 1))
           ((n.reg pgEVT (0x100 + 4 * e)).field 6 4))))

/-! ## Register access (03) -/

/-- What turns a register command of a channel away, whichever register it accesses (03 R69, R73, R92; 05 R139, R141, R158,
R162). The Rook's acts only in RUN, a host function's only when its request arrives; to a channel not in RUN it is logged in
DOWNLOG and changes no channel. A VF reaches no register outside its view: a write is recorded as SENDER on the register's
page, a read changes nothing. PF4 writes no channel: SENDER on CHCTL. A block register of a page in block reset: BUSY.
Each of these leaves every other register of the channel but EVT's, and all else of it, as it was. -/
def Obligations.VfWriteIsRefused : Prop :=
  (∀ (i : Instr) (snd : Sender) (c : Ch) (page off : Nat), writeForm i = some (snd, c, page, off) ∨
      readForm i = some (snd, c, page, off) → ∀ s : State,
    (snd = .rook → (s.ch c).boot ≠ .run → Sys2Proof.Machine.exec i s = .next s) ∧
    (snd ≠ .rook → s.arrives (senderFn snd c) = false → Sys2Proof.Machine.exec i s = .next s) ∧
    (snd ≠ .rook → s.arrives (senderFn snd c) = true → (s.ch c).boot ≠ .run →
      ∃ t, Sys2Proof.Machine.exec i s = .next t ∧ (∀ d, t.ch d = s.ch d) ∧ (t.dreg dvHOSTP 0x048).bit 31 = true) ∧
    (s.reaches snd c → Own snd → 0x040 ≤ off → (s.ch c).busy page = true →
      ∃ t, Sys2Proof.Machine.exec i s = .next t ∧ FaultOnly (s.ch c) (t.ch c) page ∧
        Recorded (s.ch c) (t.ch c) page cBUSY snd.id (regAddr page off))) ∧
  (∀ (i : Instr) (c : Ch) (v : Fin 7) (page off : Nat) (s : State), s.reaches (.vf v) c →
    (writeForm i = some (.vf v, c, page, off) →
      ∃ t, Sys2Proof.Machine.exec i s = .next t ∧ FaultOnly (s.ch c) (t.ch c) page ∧
        Recorded (s.ch c) (t.ch c) page cSENDER (2 + v.val) (regAddr page off)) ∧
    (readForm i = some (.vf v, c, page, off) →
      ∃ t, Sys2Proof.Machine.exec i s = .next t ∧ ∀ d, t.ch d = s.ch d)) ∧
  (∀ (i : Instr) (c : Ch) (page off : Nat) (s : State), s.reaches .pf4 c →
    (writeForm i = some (.pf4, c, page, off) →
      ∃ t, Sys2Proof.Machine.exec i s = .next t ∧ FaultOnly (s.ch c) (t.ch c) pgCHCTL ∧
        Recorded (s.ch c) (t.ch c) pgCHCTL cSENDER 9 (regAddr page off)) ∧
    (readForm i = some (.pf4, c, page, off) → (s.ch c).granted = false →
      ∃ t, Sys2Proof.Machine.exec i s = .next t ∧ RegsOnly (s.ch c) (t.ch c) ∧
        Recorded (s.ch c) (t.ch c) pgCHCTL cGRANT 9 (regAddr page off)))

/-- A write of PEND clears the whole fault record of a page, and the information register that goes with it on REGION and
CARRY; a device page's likewise, by PF4 alone (03 R92, R94). A write of ones to EVT_ROOKPEND clears those bits, to EVT_HOSTPEND
by the Rook those bits, by the PF those of its own routes; VFEV_PEND clears those of this VF's routes; a PF's or VF's write that
names other bits is also recorded once, as SENDER (03 R81, R82, 05 R141). DEVEVT_PEND loses the bits written, by PF4 (03 R84). A
write of CHCTL_GRANT sets MGMT_READ (01 R41). Nothing else changes. Writes by other senders: VfWriteIsRefused. -/
def Obligations.PendingBitsClear : Prop :=
  (∀ (s : State) (snd : Sender) (c : Ch) (page : Nat), s.reaches snd c → Own snd → page ∈ chanPages →
    Sys2Proof.Machine.exec (.pgFaultClear snd (.chan c page)) s = .next (s.setCh c
      (if page = pgREGION ∨ page = pgCARRY then (((s.ch c).setReg page 0x00C 0).setReg page 0x010 0).setReg page 0x040 0
       else ((s.ch c).setReg page 0x00C 0).setReg page 0x010 0))) ∧
  (∀ (s : State) (page : Nat), FromPf4 s → page < 9 →
    Sys2Proof.Machine.exec (.pgFaultClear .pf4 (.dev page)) s = .next ((s.setDreg page 0x00C 0).setDreg page 0x010 0)) ∧
  (∀ (s : State) (snd : Sender) (c : Ch) (v : Word), s.reaches snd c → Own snd → Free s c pgEVT →
    Sys2Proof.Machine.exec (.evtRookpendClear snd c false v) s =
      .next (s.setCh c ((s.ch c).setReg pgEVT 0x040 ((s.ch c).reg pgEVT 0x040 &&& ~~~v))) ∧
    Sys2Proof.Machine.exec (.evtRookpendClear snd c true v) s =
      .next (s.setCh c ((s.ch c).setReg pgEVT 0x044 ((s.ch c).reg pgEVT 0x044 &&& ~~~(v &&& 0xFFFF))))) ∧
  (∀ (s : State) (c : Ch) (v : Word), s.reaches .rook c → Free s c pgEVT →
    Sys2Proof.Machine.exec (.evtHostpendClear .rook c false v) s =
      .next (s.setCh c ((s.ch c).setReg pgEVT 0x048 ((s.ch c).reg pgEVT 0x048 &&& ~~~v))) ∧
    Sys2Proof.Machine.exec (.evtHostpendClear .rook c true v) s =
      .next (s.setCh c ((s.ch c).setReg pgEVT 0x04C ((s.ch c).reg pgEVT 0x04C &&& ~~~(v &&& 0xFFFF))))) ∧
  (∀ (s : State) (c : Ch) (hi : Bool) (v : Word), s.reaches .pf c → Free s c pgEVT →
    (if hi then v &&& 0xFFFF else v) &&& ~~~((s.ch c).routedTo 1 hi) = 0 →
    Sys2Proof.Machine.exec (.evtHostpendClear .pf c hi v) s = .next (s.setCh c ((s.ch c).setReg pgEVT (hostPendOff hi)
      ((s.ch c).reg pgEVT (hostPendOff hi) &&& ~~~((if hi then v &&& 0xFFFF else v) &&& (s.ch c).routedTo 1 hi))))) ∧
  (∀ (s : State) (c : Ch) (hi : Bool) (v : Word), s.reaches .pf c → Free s c pgEVT →
    (if hi then v &&& 0xFFFF else v) &&& ~~~((s.ch c).routedTo 1 hi) ≠ 0 →
    ∃ t, Sys2Proof.Machine.exec (.evtHostpendClear .pf c hi v) s = .next t ∧ FaultOnly (s.ch c) (t.ch c) pgEVT ∧
      Recorded (s.ch c) (t.ch c) pgEVT cSENDER 1 (regAddr pgEVT (hostPendOff hi)) ∧
      ∀ b, b < 32 → (if hi then 32 else 0) + b ≠ evPAGE_FAULT → ((t.ch c).reg pgEVT (hostPendOff hi)).bit b =
        ((s.ch c).reg pgEVT (hostPendOff hi) &&& ~~~((if hi then v &&& 0xFFFF else v) &&& (s.ch c).routedTo 1 hi)).bit b) ∧
  (∀ (s : State) (c : Ch) (vf : Fin 7) (hi : Bool) (v : Word), s.reaches (.vf vf) c →
    (if hi then v &&& 0xFFFF else v) &&& ~~~((s.ch c).routedTo (2 + vf.val) hi) = 0 →
    Sys2Proof.Machine.exec (.vfevPendClear c vf hi v) s = .next (s.setCh c ((s.ch c).setReg pgEVT (hostPendOff hi)
      ((s.ch c).reg pgEVT (hostPendOff hi) &&&
        ~~~((if hi then v &&& 0xFFFF else v) &&& (s.ch c).routedTo (2 + vf.val) hi))))) ∧
  (∀ (s : State) (c : Ch) (vf : Fin 7) (hi : Bool) (v : Word), s.reaches (.vf vf) c →
    (if hi then v &&& 0xFFFF else v) &&& ~~~((s.ch c).routedTo (2 + vf.val) hi) ≠ 0 →
    ∃ t, Sys2Proof.Machine.exec (.vfevPendClear c vf hi v) s = .next t ∧ FaultOnly (s.ch c) (t.ch c) pgEVT ∧
      Recorded (s.ch c) (t.ch c) pgEVT cSENDER (2 + vf.val) (regAddr pgEVT (hostPendOff hi)) ∧
      ∀ b, b < 32 → (if hi then 32 else 0) + b ≠ evPAGE_FAULT → ((t.ch c).reg pgEVT (hostPendOff hi)).bit b =
        ((s.ch c).reg pgEVT (hostPendOff hi) &&&
          ~~~((if hi then v &&& 0xFFFF else v) &&& (s.ch c).routedTo (2 + vf.val) hi)).bit b) ∧
  (∀ (s : State) (v : Word), FromPf4 s →
    Sys2Proof.Machine.exec (.devevtPendClear false v) s =
      .next (s.setDreg dvDEVEVT 0x040 (s.dreg dvDEVEVT 0x040 &&& ~~~v)) ∧
    Sys2Proof.Machine.exec (.devevtPendClear true v) s =
      .next (s.setDreg dvDEVEVT 0x044 (s.dreg dvDEVEVT 0x044 &&& ~~~v))) ∧
  (∀ (s : State) (snd : Sender) (page : Nat) (hi : Bool) (v : Word), snd ≠ .pf4 ∨ s.arrives .pf4 = false →
    Sys2Proof.Machine.exec (.pgFaultClear snd (.dev page)) s = .next s ∧
    (s.arrives .pf4 = false → Sys2Proof.Machine.exec (.devevtPendClear hi v) s = .next s)) ∧
  (∀ (s : State) (snd : Sender) (c : Ch) (v : Word), s.reaches snd c → Own snd → Free s c pgCHCTL →
    Sys2Proof.Machine.exec (.chctlGrantWrite snd c v) s =
      .next (s.setCh c ((s.ch c).setReg pgCHCTL 0x044 (((s.ch c).reg pgCHCTL 0x044).setField 0 1 (v.field 0 1)))))

/-- Block reset and ENABLE (03 R73, R74). A write of BLKRESET on a page that has one sets BUSY and brings both register sets of
the block, PG_CTRL and PG_SHADOW back to Reset (of MBOX all but OUTSTAT); on PRP, POLICE and DIE that is all but the PRP block's
own tables, and the PRP pair and swap count stand. On a page without one, and on CLS while its pool or exception ring is
enabled (12 R340), it is refused with STATE and resets nothing; while a block reset runs it is a write of the other fields. On a
device page it is refused with STATE. The end of a block reset clears BUSY and starts a block enabled meanwhile. A write of
ENABLE sets it, and stops a block that was enabled or starts one that was not, outside a block reset; on a page with nothing
to stop or start PG_CTRL takes ENABLE and VIEW and nothing else changes. -/
def Obligations.BlockResetAndEnable : Prop :=
  (∀ (s : State) (snd : Sender) (c : Ch) (page : Nat) (v : Word), s.reaches snd c → Own snd → page ∈ chanPages →
    page ∉ noBlkReset → Free s c page → (page = pgCLS → (s.ch c).poolEn = false ∧ ((s.ch c).reg pgCLS 0x070).bit 0 = false) →
    ∃ t, Sys2Proof.Machine.exec (.blkreset snd (.chan c page) v) s = .next t ∧ (t.ch c).busy page = true ∧
      PageBlank (t.ch c) page fun off => page = pgMBOX && 0x140 ≤ off && off < 0x164) ∧
  (∀ (s : State) (snd : Sender) (c : Ch) (v : Word), s.reaches snd c → Own snd →
    (Free s c pgPRP → Sys2Proof.Machine.exec (.blkreset snd (.chan c pgPRP) v) s = .next (s.setCh c
      (({ (s.ch c).clearPage pgPRP (fun _ => false) with
          prp := { Prp.reset with pair := (s.ch c).prp.pair, swaps := (s.ch c).prp.swaps } } : Channel).setReg pgPRP 0x004 2))) ∧
    (Free s c pgPOLICE → Sys2Proof.Machine.exec (.blkreset snd (.chan c pgPOLICE) v) s = .next (s.setCh c
      (({ (s.ch c).clearPage pgPOLICE (fun _ => false) with buckets := [] } : Channel).setReg pgPOLICE 0x004 2))) ∧
    (Free s c pgDIE → Sys2Proof.Machine.exec (.blkreset snd (.chan c pgDIE) v) s = .next (s.setCh c
      (((s.ch c).clearPage pgDIE fun _ => false).setReg pgDIE 0x004 2)))) ∧
  (∀ (s : State) (snd : Sender) (c : Ch) (page : Nat) (v : Word), s.reaches snd c → Own snd → page ∈ noBlkReset →
    ∃ t, Sys2Proof.Machine.exec (.blkreset snd (.chan c page) v) s = .next t ∧ RegsOnly (s.ch c) (t.ch c) ∧
      ((s.ch c).busy page = false → Recorded (s.ch c) (t.ch c) page cSTATE snd.id (regAddr page 0x008)) ∧
      (t.ch c).busy page = (s.ch c).busy page) ∧
  (∀ (s : State) (snd : Sender) (c : Ch) (v : Word), s.reaches snd c → Own snd → Free s c pgCLS →
    (s.ch c).poolEn = true ∨ ((s.ch c).reg pgCLS 0x070).bit 0 = true →
    ∃ t, Sys2Proof.Machine.exec (.blkreset snd (.chan c pgCLS) v) s = .next t ∧ RegsOnly (s.ch c) (t.ch c) ∧
      Recorded (s.ch c) (t.ch c) pgCLS cSTATE snd.id (regAddr pgCLS 0x008) ∧ (t.ch c).busy pgCLS = false) ∧
  (∀ (s : State) (snd : Sender) (c : Ch) (page : Nat) (v : Word), s.reaches snd c → Own snd → page ∈ chanPages →
    (s.ch c).busy page = true → Sys2Proof.Machine.exec (.blkreset snd (.chan c page) v) s =
      Sys2Proof.Machine.exec (.enableWrite snd (.chan c page) v) s) ∧
  (∀ (s : State) (page : Nat) (v : Word), FromPf4 s → page < 9 →
    Sys2Proof.Machine.exec (.enableWrite .pf4 (.dev page) v) s = .next (s.setDfield page 0x008 1 1 (v.field 1 1)) ∧
    Sys2Proof.Machine.exec (.blkreset .pf4 (.dev page) v) s =
      .next ((s.setDfield page 0x008 1 1 (v.field 1 1)).devFault page cSTATE 9 (devAddr page 0x008))) ∧
  (∀ (s : State) (page code : Nat) (addr : Word), DevRecorded s (s.devFault page code 9 addr) page code addr ∧
    DevFaultOnly s (s.devFault page code 9 addr) page) ∧
  (∀ (s : State) (c : Ch) (page : Nat), (s.ch c).boot = .run → (s.ch c).busy page = true → page < 0x100 →
    ∃ t, Sys2Proof.Machine.exec (.blockResetEnd c page) s = .next t ∧ (t.ch c).busy page = false ∧
      ((s.ch c).enabled page = false → t = s.setCh c ((s.ch c).setReg page 0x004 0)) ∧
      ((s.ch c).enabled page = true → t = s.within c fun n => (n.setReg page 0x004 0).blockUp page)) ∧
  (∀ (s : State) (c : Ch) (page : Nat), (s.ch c).boot ≠ .run ∨ (s.ch c).busy page = false →
    ∃ t, Sys2Proof.Machine.exec (.blockResetEnd c page) s = .next t ∧ ∀ d, t.ch d = s.ch d) ∧
  (∀ (s : State) (snd : Sender) (c : Ch) (page : Nat) (v : Word), s.reaches snd c → Own snd → page ∈ chanPages →
    ∃ t, Sys2Proof.Machine.exec (.enableWrite snd (.chan c page) v) s = .next t ∧ (t.ch c).enabled page = v.bit 1 ∧
      ((s.ch c).enabled page = true → v.bit 1 = false →
        t = s.within c fun n => (n.ctrlFields page (v.setBit 2 false)).blockDown page) ∧
      ((s.ch c).enabled page = false → v.bit 1 = true → Free s c page →
        t = s.within c fun n => (n.ctrlFields page (v.setBit 2 false)).blockUp page)) ∧
  (∀ (s : State) (snd : Sender) (c : Ch) (page : Nat) (v : Word), s.reaches snd c → Own snd → page ∈ chanPages →
    page ∉ [0x10, 0x20, 0x21, 0x30, 0x40, 0x41, 0x48, 0x49, 0x50, 0x60] ∨ (s.ch c).enabled page = v.bit 1 ∨
      (v.bit 1 = true ∧ (s.ch c).busy page = true) →
    ∃ k, Sys2Proof.Machine.exec (.enableWrite snd (.chan c page) v) s = .next (s.setCh c k) ∧ RegsOnly (s.ch c) k ∧
      k.enabled page = v.bit 1 ∧ (isShadowed page = true → (k.reg page 0x008).bit 0 = v.bit 0) ∧
      ∀ key, key ≠ regKey page 0x008 → SMap.get? k.regs key = SMap.get? (s.ch c).regs key)

/-- A register write of several words makes them one after another, in ascending order (03 R69). An access that is not made of
whole words is refused with WIDTH, by the PF and the Rook, and a word out of a page that does not exist is UNMAPPED (R85). A
write of PG_EVMASK sets the mask and nothing else; an MSI-X table and the Bus Master Enable of a function take what is written
(05 R136, R137). A poisoned write sets the function's AER status and is discarded (05 R162). A read of a channel's header
register by the PF answers it. -/
def Obligations.RegisterWriteWords : Prop :=
  (∀ (s : State) (snd : Sender) (c : Ch) (page off : Nat) (w : Word) (ws : List Word),
    Sys2Proof.Machine.exec (.registerWrite ⟨snd, .chan c page off, w :: ws, true, .write⟩) s =
      match Sys2Proof.Machine.exec (.registerWrite ⟨snd, .chan c page off, [w], true, .write⟩) s with
      | .next t => Sys2Proof.Machine.exec (.registerWrite ⟨snd, .chan c page (off + 4), ws, true, .write⟩) t
      | o => o) ∧
  (∀ (s : State) (snd : Sender) (c : Ch) (page off : Nat) (ws : List Word), s.reaches snd c → Own snd →
    page ∈ chanPages → ∃ t, Sys2Proof.Machine.exec (.registerWrite ⟨snd, .chan c page off, ws, false, .write⟩) s = .next t ∧
      RegsOnly (s.ch c) (t.ch c) ∧ Recorded (s.ch c) (t.ch c) page cWIDTH snd.id (regAddr page off)) ∧
  (∀ (s : State) (snd : Sender) (c : Ch) (page : Nat) (w : Word), s.reaches snd c → Own snd → page ∈ chanPages →
    Sys2Proof.Machine.exec (.registerWrite ⟨snd, .chan c page 0x018, [w], true, .write⟩) s =
      .next (s.setCh c ((s.ch c).setReg page 0x018 w))) ∧
  (∀ (s : State) (page : Nat) (w : Word), FromPf4 s → page < 9 →
    Sys2Proof.Machine.exec (.registerWrite ⟨.pf4, .dev page 0x018, [w], true, .write⟩) s = .next (s.setDreg page 0x018 w)) ∧
  (∀ (s : State) (c : Ch) (w : Word), s.arrives (.pf c) = true → s.dev.host.elofSel = false →
    Sys2Proof.Machine.exec (.registerWrite ⟨.pf, .msix (.pf c) 5 2, [w], true, .write⟩) s =
      .next (s.setHost ((s.dev.host.setMsix (.pf c) 5 2 w).flush (.pf c)))) ∧
  (∀ (s : State) (f : HostFn), s.configures f = true →
    Sys2Proof.Machine.exec (.registerWrite ⟨.pf, .cfg f .busMaster, [1], true, .write⟩) s =
      .next (s.setHost ((s.dev.host.setFn f { s.dev.host.fn f with bme := true }).flush f))) ∧
  (∀ (s : State) (snd : Sender) (c : Ch) (page off : Nat) (w : Word), s.reaches snd c → snd ≠ .pf4 → page ∉ chanPages →
    off < 0x1000 → ∃ t, Sys2Proof.Machine.exec (.registerWrite ⟨snd, .chan c page off, [w], true, .write⟩) s = .next t ∧
      FaultOnly (s.ch c) (t.ch c) pgEVT ∧ Recorded (s.ch c) (t.ch c) pgEVT cUNMAPPED snd.id (regAddr page off)) ∧
  (∀ (s : State) (snd : Sender) (c : Ch) (page off : Nat) (ws : List Word), snd ≠ .rook → s.dev.host.elofSel = false →
    s.arrives (senderFn snd c) = true →
    ∃ t, Sys2Proof.Machine.exec (.registerWrite ⟨snd, .chan c page off, ws, true, .poisoned⟩) s = .next t ∧
      (∀ d, t.ch d = s.ch d) ∧ (t.dev.host.fn (senderFn snd c)).aer.bit 12 = true) ∧
  (∀ (s : State) (c : Ch) (page : Nat), s.reaches .pf c → page ∈ chanPages →
    ∃ t, Sys2Proof.Machine.exec (.registerWrite ⟨.pf, .chan c page 0x014, [], true, .read 1⟩) s = .next t ∧
      (∀ d, t.ch d = s.ch d) ∧ Answered s t (.pf c) (.inl (bytesLE 4 ((s.ch c).headerRead page 0x014).toNat)))

/-- A mask taken from an MSI-X vector of a function: its control word is 0, and a message that waited is sent when the
function may send (03 R82). -/
def Obligations.MsixUnmaskSends : Prop :=
  (∀ (s : State) (f : HostFn) (vec : Nat), s.arrives f = true → s.dev.host.elofSel = false → vec < fnVectors f →
    Sys2Proof.Machine.exec (.msixUnmask f vec) s = .next (s.setHost ((s.dev.host.setMsix f vec 3 0).flush f))) ∧
  (∀ (h : HostPort) (f : HostFn) (vec : Nat), vec < 36 → (h.setMsix f vec 3 0).msixWord f vec 3 = 0) ∧
  (∀ (h : HostPort) (f : HostFn) (vec : Nat), h.elofSel = false → vec < 36 → h.vecOpen f vec = true →
    fnNum f * 256 + vec ∈ h.msixPend →
    fnNum f * 256 + vec ∉ (h.flush f).msixPend ∧ h.upstream.length < (h.flush f).upstream.length)

/-- PF4 reads a channel only under the channel's grant: without it every read answers an error, is recorded as GRANT on CHCTL
and raises EVT_CH_GRANT_DENY; with it a read answers the header or block register, or the memory. PF4 never writes a channel: the
write is discarded and recorded as SENDER. To a channel not in RUN either answers DOWN. An access to a page that does not exist
is recorded as UNMAPPED on EVT, on DEVEVT for PF4's own space, writes nothing and reads 0; to a page that exists it is none
(01 R38, R40, 03 R85, 05 R139, R162). -/
def Obligations.GrantAndUnmappedAccesses : Prop :=
  (∀ (s : State) (c : Ch) (sp : ChanSpace) (n : Nat), FromPf4 s → (s.ch c).boot = .run → (s.ch c).granted = false → 1 ≤ n →
    (∀ page off, sp = .regs page off → off < 0x1000) →
    ∃ t, Sys2Proof.Machine.exec (.mgmtRead c sp n) s = .next t ∧ RegsOnly (s.ch c) (t.ch c) ∧
      Answered s t .pf4 (.inr elERR_DENIED) ∧ Recorded (s.ch c) (t.ch c) pgCHCTL cGRANT 9 (spaceAddr sp) ∧
      ((t.ch c).reg pgCHCTL 0x014).bit 0 = true) ∧
  (∀ (s : State) (c : Ch) (page off : Nat), FromPf4 s → (s.ch c).boot = .run → (s.ch c).granted = true → page ∈ chanPages →
    off < 0x040 → off % 4 = 0 →
    ∃ t, Sys2Proof.Machine.exec (.mgmtRead c (.regs page off) 4) s = .next t ∧ (∀ d, t.ch d = s.ch d) ∧
      Answered s t .pf4 (.inl (bytesLE 4 ((s.ch c).headerRead page off).toNat))) ∧
  (∀ (s : State) (c : Ch) (page off : Nat), FromPf4 s → (s.ch c).boot = .run → (s.ch c).granted = true → page ∈ chanPages →
    page ≠ pgMBOX → 0x040 ≤ off → off < 0x1000 → off % 4 = 0 → Free s c page →
    ∃ t, Sys2Proof.Machine.exec (.mgmtRead c (.regs page off) 4) s = .next t ∧
      Answered s t .pf4 (.inl (bytesLE 4 ((s.node c).blockRead .pf4 page off).2.toNat))) ∧
  (∀ (s : State) (c : Ch) (off n : Nat), FromPf4 s → (s.ch c).boot = .run → (s.ch c).granted = true → 0x400000 ≤ off →
    off + n ≤ 0x800000 → (s.ch c).ecc = Ecc.reset →
    ∃ t, Sys2Proof.Machine.exec (.mgmtRead c (.window off) n) s = .next t ∧ (∀ d, t.ch d = s.ch d) ∧
      Answered s t .pf4 (.inl ((s.ch c).sram.read (off - 0x400000 + SRAM0) n))) ∧
  (∀ (s : State) (c : Ch) (sp : ChanSpace), FromPf4 s → (s.ch c).boot = .run →
    ∃ t, Sys2Proof.Machine.exec (.pf4ChannelWrite c sp) s = .next t ∧ FaultOnly (s.ch c) (t.ch c) pgCHCTL ∧
      Recorded (s.ch c) (t.ch c) pgCHCTL cSENDER 9 (spaceAddr sp)) ∧
  (∀ (s : State) (c : Ch) (sp : ChanSpace) (n : Nat), FromPf4 s → (s.ch c).boot ≠ .run → 1 ≤ n →
    (∃ t, Sys2Proof.Machine.exec (.mgmtRead c sp n) s = .next t ∧ (∀ d, t.ch d = s.ch d) ∧
      Answered s t .pf4 (.inr elERR_DOWN) ∧ (t.dreg dvHOSTP 0x048).bit 31 = true) ∧
    ∃ t, Sys2Proof.Machine.exec (.pf4ChannelWrite c sp) s = .next t ∧ (∀ d, t.ch d = s.ch d) ∧
      (t.dreg dvHOSTP 0x048).bit 31 = true) ∧
  (∀ (s : State) (snd : Sender) (c : Ch) (page : Nat) (acc : PageAcc), s.reaches snd c → page ∉ chanPages →
    page < 0x100 → acc.off < 0x1000 →
    snd ≠ .pf4 ∨ (acc.rd = true ∧ (s.ch c).granted = true) →
    ∃ t, Sys2Proof.Machine.exec (.unmappedPageAccess snd (.chan c page) acc) s = .next t ∧ FaultOnly (s.ch c) (t.ch c) pgEVT ∧
      Recorded (s.ch c) (t.ch c) pgEVT cUNMAPPED snd.id (regAddr page acc.off) ∧
      (acc.rd = true → snd ≠ .rook → Answered s t (senderFn snd c) (.inl (bytesLE 4 0)))) ∧
  (∀ (s : State) (page : Nat) (acc : PageAcc), FromPf4 s → devHole page = true →
    ∃ t, Sys2Proof.Machine.exec (.unmappedPageAccess .pf4 (.dev page) acc) s = .next t ∧ (∀ c, t.ch c = s.ch c) ∧
      DevRecorded s t dvDEVEVT cUNMAPPED (devAddr page acc.off) ∧
      (acc.rd = true → Answered s t .pf4 (.inl (bytesLE 4 0)))) ∧
  (∀ (s : State) (snd : Sender) (c : Ch) (page : Nat) (acc : PageAcc), page ∈ chanPages →
    Sys2Proof.Machine.exec (.unmappedPageAccess snd (.chan c page) acc) s = .next s)

/-! ## Device reset, power and boot (04) -/

/-- Device reset: every channel returns to Reset, the device is held, no management command runs, the host port is down and
the fuses stay; for every cause but a pulse on RSTn of less than 1 µs, which is free or too short. Its end samples HOSTSEL and
starts the OTP read; a millisecond later the management block runs with the OTP verdict and RST_LASTDEV, and two
milliseconds later the host port is ready. -/
def Obligations.DeviceResetSequence : Prop :=
  (∀ (s : State) (cause : DevCause), (∀ ns, cause = .rstn ns → 1000 ≤ ns) →
    ∃ t, Sys2Proof.Machine.exec (.deviceReset cause) s = .next t ∧ (∀ c, t.ch c = Channel.reset) ∧
      t.dev.phase = .held ∧ t.dev.cmd = none ∧ t.dev.host = HostPort.reset ∧ t.dev.jtag = false ∧
      t.dev.otp = { s.dev.otp with err := false } ∧ t.pending = s.pending ∧
      (∀ page off, regKey page off ≠ regKey dvMON 0x040 → t.dreg page off = devBlank (regKey page off)) ∧
      t.dreg dvMON 0x040 = s.dreg dvMON 0x040) ∧
  (∀ (s : State) (ns : Nat), ns < 100 → Sys2Proof.Machine.exec (.deviceReset (.rstn ns)) s = .next s) ∧
  (∀ (s : State) (b : Bool), s.dev.phase = .held → s.dev.thermal = false →
    Sys2Proof.Machine.exec (.deviceResetEnd (some b)) s =
      .next { s with dev := { s.dev with phase := .otp, host := { s.dev.host with elofSel := b } } }) ∧
  (∀ (s : State), s.dev.phase = .held → s.dev.thermal = false →
    ∃ b : Bool, Sys2Proof.Machine.exec (.deviceResetEnd none) s =
      .next { s with dev := { s.dev with phase := .otp, host := { s.dev.host with elofSel := b } }, freeCtr := s.freeCtr + 1 }) ∧
  (∀ (s : State), s.dev.phase = .otp →
    Sys2Proof.Machine.exec (.managementStart true) s =
      .next (({ s with dev := { s.dev with phase := .mgmt, otp := { s.dev.otp with err := false } } } : State).setDfield
        dvRST 0x04C 0 3 s.dev.cause) ∧
    Sys2Proof.Machine.exec (.managementStart false) s =
      .next ((({ s with dev := { s.dev with phase := .mgmt, otp := { s.dev.otp with err := true } } } : State).setDfield
        dvRST 0x04C 0 3 s.dev.cause).raiseDev dvOTP_ERR)) ∧
  (∀ (s : State), s.dev.phase = .mgmt →
    Sys2Proof.Machine.exec .hostPortReady s = .next { s with dev := { s.dev with phase := .ready } })

/-- A device event: its DEVEVT_PEND bit is set; every channel keeps all but registers of CHCTL and EVT; a channel its route
forwards to, powered and not in reset, shows it in CHCTL_DEVFWD (03 R84). -/
def Obligations.DeviceEventOccurrence : Prop :=
  ∀ (s : State) (e : Nat), e < 40 →
    ((s.raiseDev e).dreg dvDEVEVT (devPendOff e)).bit (e % 32) = true ∧ s.Keeps (s.raiseDev e) ∧
    (∀ c, (s.dreg dvDEVEVT (0x100 + 4 * e)).bit (6 + c.num) = true → (s.ch c).up = true →
      (((s.raiseDev e).ch c).reg pgCHCTL (if e < 32 then 0x048 else 0x04C)).bit (e % 32) = true) ∧
    (∀ c, (s.dreg dvDEVEVT (0x100 + 4 * e)).bit (6 + c.num) = false → (s.raiseDev e).ch c = s.ch c)

/-- Power-up: PWR_ON of a channel that is off begins the ramp, of one that is not ends with RESULT 1; the rail good, the PLLs
start; locked, the channel is on and its reset drains; a rail that fails within its time is a power fault, and so is a rail
that leaves its window later: the channel is off without a drain, PWR_STAT.FAULTc is set and EVT_CHn_PWR_FAULT pending
(04 R104, R126). A management command while one runs is refused with STATE (R103). -/
def Obligations.PowerUpSequence : Prop :=
  (∀ (s : State) (c : Ch), FromPf4 s → s.dev.cmd = none → (s.ch c).pwr = .off →
    Sys2Proof.Machine.exec (.pwrOn c) s =
      .next (({ s with dev := { s.dev with cmd := some ⟨1, c, s.dreg dvMGMT 0x04C⟩ } } : State).setCh c
        { s.ch c with pwr := .ramp, seq := .rail })) ∧
  (∀ (s : State) (c : Ch), FromPf4 s → s.dev.cmd = none → (s.ch c).pwr ≠ .off →
    Sys2Proof.Machine.exec (.pwrOn c) s = .next (s.mgmtEnd 1)) ∧
  (∀ (s : State) (r : Nat), r < 256 → (s.mgmtEnd r).dev.cmd = none ∧ ((s.mgmtEnd r).dreg dvMGMT 0x050).field 8 8 = r ∧
    DevPending (s.mgmtEnd r) (if r = 0 then dvMGMT_DONE else dvMGMT_ERR) ∧ s.Keeps (s.mgmtEnd r)) ∧
  (∀ (s : State) (c : Ch), FromPf4 s → s.dev.cmd.isSome = true →
    ∀ i ∈ [Instr.pwrOn c, .pwrOff c, .chReset c, .loadBegin c, .loadEnd c, .bootKept c, .otpMinver c, .otpKey c, .otpRevoke c,
           .otpLock c, .devReset c],
      ∃ t, Sys2Proof.Machine.exec i s = .next t ∧ DevFaultOnly s t dvMGMT ∧
        DevRecorded s t dvMGMT cSTATE (devAddr dvMGMT 0x048)) ∧
  (∀ (s : State) (c : Ch), (s.ch c).seq = .rail →
    Sys2Proof.Machine.exec (.channelRailGood c) s = .next (s.setCh c { s.ch c with seq := .lock }) ∧
    ∃ t, Sys2Proof.Machine.exec (.pwrOnRailTimeout c) s = .next t ∧ (t.ch c).pwr = .off ∧ (t.ch c).boot = .off ∧
      (t.dreg dvPWR 0x040).bit (4 * c.num + 2) = true ∧ DevPending t (dvCh c dvPWR_FAULT)) ∧
  (∀ (s : State) (c : Ch), (s.ch c).seq ≠ .rail → Sys2Proof.Machine.exec (.channelRailGood c) s = .next s ∧
    Sys2Proof.Machine.exec (.pwrOnRailTimeout c) s = .next s) ∧
  (∀ (s : State) (c : Ch), (s.ch c).seq = .lock →
    ∃ t, Sys2Proof.Machine.exec (.pllLock c) s = .next t ∧ (t.ch c).pwr = .on ∧ (t.ch c).boot = .reset ∧
      (t.ch c).seq = .drain .powerOn false ∧ (t.ch c).rook.running = false ∧ (t.ch c).sram = (s.ch c).sram) ∧
  (∀ (s : State) (c : Ch), (s.ch c).seq ≠ .lock → Sys2Proof.Machine.exec (.pllLock c) s = .next s) ∧
  (∀ (s : State) (c : Ch), (s.ch c).pwr = .on →
    ∃ t, Sys2Proof.Machine.exec (.channelPowerFault c) s = .next t ∧ (t.ch c).pwr = .off ∧ (t.ch c).boot = .off ∧
      (t.ch c).sram = [] ∧ (t.dreg dvPWR 0x040).bit (4 * c.num + 2) = true ∧ DevPending t (dvCh c dvPWR_FAULT)) ∧
  (∀ (s : State) (c : Ch), (s.ch c).pwr ≠ .on → Sys2Proof.Machine.exec (.channelPowerFault c) s = .next s)

/-- A channel reset in steps (04 R105 to R107, R119, R121): requested by PF4, by the Rook or the PF, or by PWR_OFF, an idle
channel stops its Rook and drains; a request while one runs is merged under the order of causes, and while the clock is away it
waits for it; a channel that is off ends the command with RESULT 1. At the end of the drain the scrub runs, or for PWR_OFF the
switch opens; at the end of the scrub the registers are at Reset, RSTCAUSE is written, EVT_CHn_RESET_DONE is pending and the
channel waits for a load, or verifies the image it kept or was verifying when its clock was lost (R123). -/
def Obligations.ChannelResetSequence : Prop :=
  (∀ (s : State) (c : Ch), FromPf4 s → s.dev.cmd = none → (s.ch c).pwr = .on → (s.ch c).seq = .idle →
    ((s.ch c).boot ≠ .clklost ∨ (s.ch c).refclk = true →
      ∃ t, Sys2Proof.Machine.exec (.chReset c) s = .next t ∧ (t.ch c).boot = .reset ∧ (t.ch c).seq = .drain .mgmt false ∧
        (t.ch c).rook.running = false ∧ t.dev.cmd = some ⟨3, c, s.dreg dvMGMT 0x04C⟩) ∧
    ∃ t, Sys2Proof.Machine.exec (.pwrOff c) s = .next t ∧ (t.ch c).boot = .reset ∧ (t.ch c).seq = .drain .mgmt true ∧
      (t.ch c).rook.running = false ∧ t.dev.cmd = some ⟨2, c, s.dreg dvMGMT 0x04C⟩) ∧
  (∀ (s : State) (c : Ch), FromPf4 s → s.dev.cmd = none → (s.ch c).pwr = .off →
    Sys2Proof.Machine.exec (.chReset c) s = .next (s.mgmtEnd 1) ∧ Sys2Proof.Machine.exec (.pwrOff c) s = .next (s.mgmtEnd 1)) ∧
  (∀ (s : State) (c : Ch), FromPf4 s → s.dev.cmd = none → (s.ch c).pwr = .ramp →
    ∃ t, Sys2Proof.Machine.exec (.pwrOff c) s = .next t ∧ (t.ch c).pwr = .off ∧ (t.ch c).boot = .off ∧ t.dev.cmd = none) ∧
  (∀ (s : State) (c : Ch), FromPf4 s → s.dev.cmd = none → (s.ch c).pwr = .on → (s.ch c).seq = .idle →
    (s.ch c).boot = .clklost → (s.ch c).refclk = false → (s.ch c).suspended = none →
    ∃ t, Sys2Proof.Machine.exec (.chReset c) s = .next t ∧ (t.ch c).boot = .clklost ∧
      (t.ch c).suspended = some (.drain .mgmt false)) ∧
  (∀ (s : State) (snd : Sender) (c : Ch) (v : Word), s.reaches snd c → Own snd → Free s c pgCHCTL → (s.ch c).seq = .idle →
    v.bit 0 = true → ∃ t, Sys2Proof.Machine.exec (.chctlRstreq snd c v) s = .next t ∧ (t.ch c).boot = .reset ∧
      (t.ch c).seq = .drain (if snd = .rook then .rook else .pf) false ∧ (t.ch c).rook.running = false) ∧
  (∀ (s : State) (snd : Sender) (c : Ch) (v : Word), s.reaches snd c → Own snd → Free s c pgCHCTL → v.bit 0 = false →
    ∃ t, Sys2Proof.Machine.exec (.chctlRstreq snd c v) s = .next t ∧ ∀ d, t.ch d = s.ch d) ∧
  (∀ (s : State) (c : Ch) (r : RstCause), FromPf4 s → s.dev.cmd = none → (s.ch c).pwr ≠ .off → (s.ch c).seq = .drain r false →
    (s.ch c).loads ≠ .loading → (s.ch c).loads ≠ .verify →
    ∃ t, Sys2Proof.Machine.exec (.chReset c) s = .next t ∧ t.ch c = { s.ch c with seq := .drain (r.best .mgmt) false }) ∧
  (∀ (s : State) (c : Ch) (r : RstCause), (s.ch c).seq = .drain r false →
    ∃ t, Sys2Proof.Machine.exec (.channelResetDrainEnd c) s = .next t ∧ (t.ch c).seq = .scrub r) ∧
  (∀ (s : State) (c : Ch) (r : RstCause), (s.ch c).seq = .drain r true →
    ∃ t, Sys2Proof.Machine.exec (.channelResetDrainEnd c) s = .next t ∧ (t.ch c).pwr = .off ∧ (t.ch c).boot = .off) ∧
  (∀ (s : State) (c : Ch) (r : RstCause), (s.ch c).seq = .scrub r →
    ∃ t, Sys2Proof.Machine.exec (.channelResetScrubEnd c) s = .next t ∧ (t.ch c).pwr = .on ∧ (t.ch c).seq = .idle ∧
      (t.ch c).boot = (if ((s.ch c).kept && (s.dreg dvRST 0x040).bit c.num) || (s.ch c).resume = .verify then .verify
        else .loadwait) ∧
      (t.ch c).cause = r.num ∧ (t.ch c).rook = Rook.reset ∧ (t.ch c).inLast = (s.ch c).inLast ∧
      (t.ch c).sram = (s.ch c).sram ∧ DevPending t (dvCh c dvRESET_DONE) ∧
      ∀ page off, off < 0x1000 → page ∉ [pgCHCTL, pgEVT] → page ≠ pgMEMOWN ∨ off < 0x040 ∨ 0x080 ≤ off →
        (t.ch c).reg page off = chanBlank (regKey page off))

/-- Loading and starting an image (04 R108, R112 to R114, R116, R122): LOAD_BEGIN of a legal length in LOADWAIT or FAIL, with no
channel in LOADING, opens the staging area; not allowed it ends with RESULT 1, with a bad length 2. A word of the load window goes into
it in the place BOOT_LOADOFS and the offset name; with no load, or past its length, it is refused. LOAD_END in LOADING and BOOT_KEPT of a
kept image in LOADWAIT begin the verification, else they end with RESULT 1; its end leaves the channel in RUN with the Rook running at
the entry and EVT_CHn_BOOTED, or in FAIL with the error code and EVT_CHn_BOOTFAIL. -/
def Obligations.LoadAndStart : Prop :=
  (∀ (s : State) (c : Ch), FromPf4 s → s.dev.cmd = none → (s.ch c).boot = .loadwait ∨ (s.ch c).boot = .fail →
    s.loadingCh = none → 192 ≤ (s.dreg dvMGMT 0x04C).field 0 22 → (s.dreg dvMGMT 0x04C).field 0 22 ≤ 0x200000 →
    (s.dreg dvMGMT 0x04C).field 0 22 % 64 = 0 →
    ∃ t, Sys2Proof.Machine.exec (.loadBegin c) s = .next t ∧ (t.ch c).boot = .loading ∧
      (t.ch c).loadN = (s.dreg dvMGMT 0x04C).field 0 22 ∧ (t.ch c).kept = false ∧
      (t.ch c).keepReq = (s.dreg dvMGMT 0x04C).bit 31 ∧ t.dev.cmd = none) ∧
  (∀ (s : State) (c : Ch), FromPf4 s → s.dev.cmd = none →
    ¬((s.ch c).boot = .loadwait ∨ (s.ch c).boot = .fail) ∨ s.loadingCh ≠ none →
    Sys2Proof.Machine.exec (.loadBegin c) s = .next (s.mgmtEnd 1)) ∧
  (∀ (s : State) (c : Ch), FromPf4 s → s.dev.cmd = none → (s.ch c).boot = .loadwait ∨ (s.ch c).boot = .fail →
    s.loadingCh = none → ¬(192 ≤ (s.dreg dvMGMT 0x04C).field 0 22 ∧ (s.dreg dvMGMT 0x04C).field 0 22 ≤ 0x200000 ∧
      (s.dreg dvMGMT 0x04C).field 0 22 % 64 = 0) →
    Sys2Proof.Machine.exec (.loadBegin c) s = .next (s.mgmtEnd 2)) ∧
  (∀ (s : State) (c : Ch) (off : Nat) (v : Word), FromPf4 s → s.loadingCh = some c → (s.ch c).ecc = Ecc.reset →
    (s.dreg dvBOOT 0x054).field 0 22 + off < (s.ch c).loadN →
    ∃ t, Sys2Proof.Machine.exec (.bootLoadwinWrite off v) s = .next t ∧
      (t.ch c).sram = (s.ch c).sram.write (stageBase (s.ch c).loadN + ((s.dreg dvBOOT 0x054).field 0 22 + off))
        ((bytesLE 4 v.toNat).map some) ∧ (t.ch c).boot = .loading) ∧
  (∀ (s : State) (off : Nat) (v : Word), FromPf4 s → s.loadingCh = none →
    Sys2Proof.Machine.exec (.bootLoadwinWrite off v) s = .next (s.devFault dvBOOT cSTATE 9 (devAddr dvBOOT (0x800 + off)))) ∧
  (∀ (s : State) (c : Ch) (off : Nat) (v : Word), FromPf4 s → s.loadingCh = some c →
    (s.ch c).loadN ≤ (s.dreg dvBOOT 0x054).field 0 22 + off →
    Sys2Proof.Machine.exec (.bootLoadwinWrite off v) s = .next (s.devFault dvBOOT 0x10 9 (devAddr dvBOOT (0x800 + off)))) ∧
  (∀ (s : State) (c : Ch), FromPf4 s → s.dev.cmd = none →
    Sys2Proof.Machine.exec (.loadEnd c) s =
      if (s.ch c).boot = .loading then
        .next (({ s with dev := { s.dev with cmd := some ⟨5, c, s.dreg dvMGMT 0x04C⟩ } } : State).setCh c
          { s.ch c with boot := .verify })
      else .next (s.mgmtEnd 1)) ∧
  (∀ (s : State) (c : Ch), FromPf4 s → s.dev.cmd = none →
    Sys2Proof.Machine.exec (.bootKept c) s =
      if (s.ch c).boot = .loadwait ∧ (s.ch c).kept = true then
        .next (({ s with dev := { s.dev with cmd := some ⟨6, c, s.dreg dvMGMT 0x04C⟩ } } : State).setCh c
          { s.ch c with boot := .verify })
      else .next (s.mgmtEnd 1)) ∧
  (∀ (s : State) (c : Ch), (s.ch c).boot = .verify →
    ∃ t, Sys2Proof.Machine.exec (.bootVerifyEnd c) s = .next t ∧
      match (((s.node c).onK fun k => { k with devkey := !s.dev.otp.secureNow }).verify s.dev.otp).2 with
      | .inl x => (t.ch c).boot = .run ∧ (t.ch c).code = 0 ∧ (t.ch c).rook = Rook.started x ∧
        (t.ch c).rook.pc = BitVec.ofNat 32 x.entry ∧ (t.ch c).rook.running = true ∧ DevPending t (dvCh c dvBOOTED)
      | .inr code => (t.ch c).boot = .fail ∧ (t.ch c).code = code ∧ (t.ch c).kept = false ∧
        DevPending t (dvCh c dvBOOTFAIL)) ∧
  (∀ (s : State) (c : Ch), (s.ch c).boot ≠ .verify → Sys2Proof.Machine.exec (.bootVerifyEnd c) s = .next s)

/-- The OTP commands run for a version above the fused one and at most 64, and for a slot not programmed; else they end with
RESULT 1, a version above 64 with 2. They burn at the end of programming inside the supply window: the version, the key of the
slot from OTP_KEYSTAGE, the revocation, the locks; outside it RESULT is 3 and nothing burns. DEV_RESET with its argument resets
the device, with another it ends with RESULT 2 (04 R103, R116, R118, R127, R133). -/
def Obligations.OtpCommands : Prop :=
  (∀ (s : State) (c : Ch), FromPf4 s → s.dev.cmd = none → Sys2Proof.Machine.exec (.otpMinver c) s =
    if (s.dreg dvMGMT 0x04C).field 0 7 ≤ s.dev.otp.minver then .next (s.mgmtEnd 1)
    else if 64 < (s.dreg dvMGMT 0x04C).field 0 7 then .next (s.mgmtEnd 2)
    else .next { s with dev := { s.dev with cmd := some ⟨7, c, s.dreg dvMGMT 0x04C⟩ } }) ∧
  (∀ (s : State) (c : Ch), FromPf4 s → s.dev.cmd = none → Sys2Proof.Machine.exec (.otpKey c) s =
    if s.dev.otp.prog.getLsbD ((s.dreg dvMGMT 0x04C).field 0 2) = true then .next (s.mgmtEnd 1)
    else .next { s with dev := { s.dev with cmd := some ⟨8, c, s.dreg dvMGMT 0x04C⟩ } }) ∧
  (∀ (s : State) (c : Ch), FromPf4 s → s.dev.cmd = none →
    Sys2Proof.Machine.exec (.otpRevoke c) s =
      .next { s with dev := { s.dev with cmd := some ⟨9, c, s.dreg dvMGMT 0x04C⟩ } } ∧
    Sys2Proof.Machine.exec (.otpLock c) s =
      .next { s with dev := { s.dev with cmd := some ⟨10, c, s.dreg dvMGMT 0x04C⟩ } }) ∧
  (∀ (s : State) (m : MgmtCmd), s.dev.cmd = some m → 7 ≤ m.op → m.op ≤ 10 → s.otpSupplyOk = true →
    ∃ t, Sys2Proof.Machine.exec .otpProgrammingDone s = .next t ∧ t.dev.cmd = none ∧ s.Keeps { t with dev := { t.dev with otp := s.dev.otp } } ∧
      (m.op = 7 → t.dev.otp = { s.dev.otp with minver := max s.dev.otp.minver (min 64 (m.arg.field 0 7)) }) ∧
      (m.op = 8 → ∀ j : Fin 4, t.dev.otp.keys[j] = (if j.val = m.arg.field 0 2 then s.keyStage else s.dev.otp.keys[j]) ∧
        t.dev.otp.prog.getLsbD j = (s.dev.otp.prog.getLsbD j || decide (j.val = m.arg.field 0 2))) ∧
      (m.op = 9 → ∀ j : Fin 4, t.dev.otp.revoke.getLsbD j = (s.dev.otp.revoke.getLsbD j || decide (j.val = m.arg.field 0 2))) ∧
      (m.op = 10 → t.dev.otp = { s.dev.otp with secure := s.dev.otp.secure || m.arg.bit 0,
                                                dbglock := s.dev.otp.dbglock || m.arg.bit 1 }) ∧
      (t.dreg dvMGMT 0x050).field 8 8 = 0) ∧
  (∀ (s : State) (m : MgmtCmd), s.dev.cmd = some m → 7 ≤ m.op → m.op ≤ 10 → s.otpSupplyOk = false →
    Sys2Proof.Machine.exec .otpProgrammingDone s = .next (s.mgmtEnd 3)) ∧
  (∀ (s : State), (∀ m, s.dev.cmd = some m → ¬(7 ≤ m.op ∧ m.op ≤ 10)) →
    Sys2Proof.Machine.exec .otpProgrammingDone s = .next s) ∧
  (∀ (s : State) (c : Ch), FromPf4 s → s.dev.cmd = none → s.dreg dvMGMT 0x04C = 0xA5C3 →
    ∃ t, Sys2Proof.Machine.exec (.devReset c) s = .next t ∧ (∀ d, t.ch d = Channel.reset) ∧ t.dev.phase = .held) ∧
  (∀ (s : State) (c : Ch), FromPf4 s → s.dev.cmd = none → s.dreg dvMGMT 0x04C ≠ 0xA5C3 →
    Sys2Proof.Machine.exec (.devReset c) s = .next (s.mgmtEnd 2))

/-- The supervision timer's expiry raises EVT_SUPV_TIMER and reloads it from PERIOD, a write of RST_SUPVKICK reloads it
(04 R115). A temperature at or above MON_WARN raises EVT_THERM_WARN; at or above MON_CRIT EVT_THERM_CRIT, and with CRITOFF
every channel of CRITOFF powers off; at 130 °C the device is held in reset, below 115 °C it is let go (R127). A supply
measured outside its window raises its event, and the core and OTP supplies below their trip level reset the device. VDDIO of a bank clears and sets its bit of MON_BANKOK (18 R487).
With its bank down, its channel out of RUN or the device unpowered a ball is high impedance (R487, R489). -/
def Obligations.MonitorsAndTimer : Prop :=
  (∀ (s : State), (s.dreg dvRST 0x044).bit 31 = true → (s.dreg dvRST 0x044).field 0 16 ≠ 0 →
    ∃ t, Sys2Proof.Machine.exec .supervisionTimerExpiry s = .next t ∧ t.dev.supv = 32 * (s.dreg dvRST 0x044).field 0 16 ∧
      s.Keeps t ∧ (t.dreg dvDEVEVT 0x044).bit 7 = true) ∧
  (∀ (s : State) (v : Word), FromPf4 s → Sys2Proof.Machine.exec (.rstSupvkick v) s =
      .next { s with dev := { s.dev with supv := 32 * (s.dreg dvRST 0x044).field 0 16 } }) ∧
  (∀ (s : State) (tj : Half), (s.setTemp tj).hot 0x044 = true →
    Sys2Proof.Machine.exec (.thermWarn tj) s = .next ((s.setTemp tj).raiseDev dvTHERM_WARN)) ∧
  (∀ (s : State) (tj : Half), (s.setTemp tj).hot 0x048 = true → s.dreg dvMON 0x04C = 0 →
    Sys2Proof.Machine.exec (.thermCrit tj) s = .next ((s.setTemp tj).raiseDev dvTHERM_CRIT)) ∧
  (∀ (s : State) (tj : Half), 130 * 16 ≤ tj.toInt →
    ∃ t, Sys2Proof.Machine.exec (.thermalShutdown tj) s = .next t ∧ t.dev.phase = .held ∧ t.dev.thermal = true ∧
      ∀ c, t.ch c = Channel.reset) ∧
  (∀ (s : State) (tj : Half), tj.toInt < 115 * 16 →
    Sys2Proof.Machine.exec (.thermalShutdownRelease tj) s =
      .next { s.setTemp tj with dev := { (s.setTemp tj).dev with thermal := false } }) ∧
  (∀ (s : State) (tj : Half), (s.setTemp tj).hot 0x048 = true →
    ∃ t, Sys2Proof.Machine.exec (.thermCrit tj) s = .next t ∧ DevPending t dvTHERM_CRIT ∧
      ∀ c, (s.dreg dvMON 0x04C).bit c.num = true → (s.ch c).pwr = .on → (s.ch c).seq = .idle →
        (t.ch c).seq = .drain .mgmt true) ∧
  (∀ (s : State) (tj : Half), ((s.setTemp tj).hot 0x044 = false → Sys2Proof.Machine.exec (.thermWarn tj) s = .next (s.setTemp tj)) ∧
    ((s.setTemp tj).hot 0x048 = false → Sys2Proof.Machine.exec (.thermCrit tj) s = .next (s.setTemp tj)) ∧
    (tj.toInt < 130 * 16 → Sys2Proof.Machine.exec (.thermalShutdown tj) s = .next (s.setTemp tj)) ∧
    (115 * 16 ≤ tj.toInt → Sys2Proof.Machine.exec (.thermalShutdownRelease tj) s = .next (s.setTemp tj))) ∧
  (∀ (s : State) (mv : Half),
    (720 ≤ mv.toNat → mv.toNat < 760 ∨ 840 < mv.toNat → Sys2Proof.Machine.exec (.supplyWindowExit .vddCore mv) s =
      .next ((s.setDreg dvMON 0x050 (mv.setWidth 32)).raiseDev dvVMON_CORE)) ∧
    (mv.toNat < 855 ∨ 945 < mv.toNat → Sys2Proof.Machine.exec (.supplyWindowExit .vddSd09 mv) s =
      .next ((s.setDreg dvMON 0x054 (mv.setWidth 32)).raiseDev dvVMON_SERDES)) ∧
    (mv.toNat < 1710 ∨ 1890 < mv.toNat → Sys2Proof.Machine.exec (.supplyWindowExit .vddSd18 mv) s =
      .next ((s.setDreg dvMON 0x054 (mv.setWidth 32)).raiseDev dvVMON_SERDES)) ∧
    (1620 ≤ mv.toNat → mv.toNat < 1710 ∨ 1890 < mv.toNat → Sys2Proof.Machine.exec (.supplyWindowExit .vddOtp18 mv) s =
      .next ((s.setDreg dvMON 0x05C (mv.setWidth 32)).raiseDev dvVMON_OTP)) ∧
    ∀ bank, Sys2Proof.Machine.exec (.supplyWindowExit (.vddio bank) mv) s =
      .next ((s.setDreg dvMON 0x058 (mv.setWidth 32)).raiseDev dvVMON_IO)) ∧
  (∀ (s : State) (mv : Half),
    (mv.toNat < 720 → ∃ t, Sys2Proof.Machine.exec (.supplyWindowExit .vddCore mv) s = .next t ∧ t.dev.phase = .held ∧
      ∀ c, t.ch c = Channel.reset) ∧
    (mv.toNat < 1620 → ∃ t, Sys2Proof.Machine.exec (.supplyWindowExit .vddOtp18 mv) s = .next t ∧ t.dev.phase = .held ∧
      ∀ c, t.ch c = Channel.reset)) ∧
  (∀ (s : State), (s.dreg dvRST 0x044).bit 31 = false ∨ (s.dreg dvRST 0x044).field 0 16 = 0 →
    Sys2Proof.Machine.exec .supervisionTimerExpiry s = .next s) ∧
  (∀ (s : State) (k : Fin 17),
    Sys2Proof.Machine.exec (.bankDrop k) s = .next (s.setDreg dvMON 0x060 ((s.dreg dvMON 0x060).setField k 1 0)) ∧
    Sys2Proof.Machine.exec (.bankReturn k) s = .next (s.setDreg dvMON 0x060 ((s.dreg dvMON 0x060).setField k 1 1))) ∧
  (∀ (s : State) (k : Nat) (b : Ball), b.bank = some k → s.bankUp k = false → s.ball b = .hiz) ∧
  (∀ (s : State) (c : Ch) (b : Ball), b.chan = some c → (s.ch c).boot ≠ .run → s.ball b = .hiz) ∧
  (∀ b : Ball, deviceBall none b = .hiz)

/-- Loss of a channel's clock: the channel is in CLKLOST, what ran is suspended; with the policy bit set a reset waits for the
clock. When the clock returns a suspended reset drain or scrub starts again at its drain, a suspended power-up at its ramp; with
nothing suspended the channel waits in CLKLOST for a reset, but a verification that the loss had cut starts again, behind the
reset where one waits (04 R123, R125). -/
def Obligations.ClockLossAndReturn : Prop :=
  (∀ (s : State) (c : Ch), (s.ch c).pwr ≠ .off → (s.ch c).boot ≠ .clklost →
    ∃ t, Sys2Proof.Machine.exec (.refclkLoss c) s = .next t ∧ (t.ch c).boot = .clklost ∧ (t.ch c).refclk = false ∧
      (t.ch c).resume = (if (s.ch c).boot = .reset then (s.ch c).resume else (s.ch c).boot) ∧
      (t.ch c).sram = (s.ch c).sram ∧ DevPending t (dvCh c dvREFCLK_LOSS) ∧
      ((s.dreg dvRST 0x040).bit (4 + c.num) = false →
        (t.ch c).suspended = (if (s.ch c).seq = .idle then none else some (s.ch c).seq)) ∧
      ((s.dreg dvRST 0x040).bit (4 + c.num) = true → (s.ch c).seq = .idle →
        (t.ch c).suspended = some (.drain .refclk false))) ∧
  (∀ (s : State) (c : Ch), (s.ch c).pwr = .off ∨ (s.ch c).boot = .clklost →
    Sys2Proof.Machine.exec (.refclkLoss c) s = .next s) ∧
  (∀ (s : State) (c : Ch), (s.ch c).boot = .clklost → (s.ch c).suspended = none →
    Sys2Proof.Machine.exec (.refclkReturn c) s = .next (s.setCh c
      (if (s.ch c).resume = .verify then { s.ch c with refclk := true, boot := .verify, resume := .off }
       else { s.ch c with refclk := true }))) ∧
  (∀ (s : State) (c : Ch) (r : RstCause) (off : Bool), (s.ch c).boot = .clklost →
    (s.ch c).suspended = some (.drain r off) ∨ ((s.ch c).suspended = some (.scrub r) ∧ off = false) →
    ∃ t, Sys2Proof.Machine.exec (.refclkReturn c) s = .next t ∧ (t.ch c).boot = .reset ∧ (t.ch c).seq = .drain r off ∧
      (t.ch c).refclk = true ∧ ((t.ch c).resume = .verify ↔ (s.ch c).resume = .verify)) ∧
  (∀ (s : State) (c : Ch), (s.ch c).boot = .clklost → (s.ch c).suspended = some .rail ∨ (s.ch c).suspended = some .lock →
    Sys2Proof.Machine.exec (.refclkReturn c) s = .next (s.setCh c
      { s.ch c with refclk := true, boot := .off, pwr := .ramp, seq := .rail, suspended := none })) ∧
  (∀ (s : State) (c : Ch), (s.ch c).boot ≠ .clklost → Sys2Proof.Machine.exec (.refclkReturn c) s = .next s)

/-- A debugger's attachment raises EVT_JTAG_ATTACH. Under the debug lock an access to a channel only raises EVT_DBG_DENY;
without it a write of ROOKDBG acts as the PF's, a read answers the register, and a channel not in RUN takes no write. IDCODE is
never refused, and changes nothing but what it reads (04 R128, R129). In device reset, and with the HOST bank down, the port hears
nothing (18 R486). -/
def Obligations.JtagAccess : Prop :=
  (∀ (s : State), s.jtagReady = true → Sys2Proof.Machine.exec .jtagAttach s =
    .next (({ s with dev := { s.dev with jtag := true } } : State).raiseDev dvJTAG_ATTACH)) ∧
  (∀ (s : State) (c : Ch) (off : Nat) (v : Word), s.jtagReady = true → s.dev.otp.locked = true →
    Sys2Proof.Machine.exec (.jtagAccess (.read c off)) s = .next (s.raiseDev dvDBG_DENY) ∧
    Sys2Proof.Machine.exec (.jtagAccess (.write c off v)) s = .next (s.raiseDev dvDBG_DENY)) ∧
  (∀ (s : State) (c : Ch) (off : Nat) (v : Word), s.jtagReady = true → s.dev.otp.locked = false → (s.ch c).boot = .run →
    off < 0x1000 → Sys2Proof.Machine.exec (.jtagAccess (.write c off v)) s =
      .next (s.within c fun n => n.pageWrite .pf pgROOKDBG off v)) ∧
  (∀ (s : State) (c : Ch) (off : Nat) (v : Word), s.jtagReady = true → s.dev.otp.locked = false → (s.ch c).boot ≠ .run →
    Sys2Proof.Machine.exec (.jtagAccess (.write c off v)) s = .next s) ∧
  (∀ (s : State) (c : Ch) (off : Nat), s.jtagReady = true → s.dev.otp.locked = false → (s.ch c).boot = .run → off < 0x040 →
    Sys2Proof.Machine.exec (.jtagAccess (.read c off)) s =
      .next { s with dev := { s.dev with jtagOut := (s.ch c).headerRead pgROOKDBG off } }) ∧
  (∀ (s : State), s.jtagReady = true → ∃ t, Sys2Proof.Machine.exec (.jtagAccess .idcode) s = .next t ∧
    { t with freeCtr := s.freeCtr, dev := { t.dev with jtagOut := s.dev.jtagOut } } = s) ∧
  (∀ (s : State) (op : JtagOp), s.dev.phase = .held ∨ s.bankUp 16 = false →
    Sys2Proof.Machine.exec .jtagAttach s = .next s ∧ Sys2Proof.Machine.exec (.jtagAccess op) s = .next s)

/-! ## Host port (05) -/

/-- PCIe functions, whose configuration requests arrive over a link that is up. NumVFs takes 0 to 7 while VF Enable is 0; a
larger value, or a write under VF Enable, changes nothing. An FLR clears a function's configuration controls and its BARs,
empties its rings and mailbox pair on a channel that has items, and raises EVT_FLR. Bus Master Enable clears and D3hot is
entered, with either the function's rings hold no open item; where the function has no ring with items the next state is given
whole; cleared or entered already, nothing changes. VF Enable clears and NumVFs stays. A request that does not arrive changes
nothing (05 R140, R159). -/
def Obligations.FunctionControls : Prop :=
  (∀ (s : State) (c : Ch) (v : Half), s.configures (.pf c) = true → v.toNat ≤ 7 → s.dev.host.vfEn c = false →
    Sys2Proof.Machine.exec (.numvfsWrite c v) s = .next (s.setHost (s.dev.host.setSriov c false v.toNat))) ∧
  (∀ (s : State) (c : Ch) (v : Half), s.configures (.pf c) = false ∨ 7 < v.toNat ∨ s.dev.host.vfEn c = true →
    Sys2Proof.Machine.exec (.numvfsWrite c v) s = .next s) ∧
  (∀ (s : State) (f : HostFn), s.configures f = true →
    ∃ t, Sys2Proof.Machine.exec (.functionLevelReset f) s = .next t ∧
      (t.dreg dvDEVEVT 0x044).bit 1 = true ∧ t.dev.otp = s.dev.otp ∧ t.dev.host.fn f = FnCfg.reset ∧
      (∀ (vf : Bool) (i : Fin 6), t.dev.host.bar f vf i = (barBits f vf i).2) ∧
      ∀ c j, FnOf f c j → (s.ch c).hasItems = true →
        (∀ r : Fin 8, ((t.ch c).ring j r).items = []) ∧ (t.ch c).inFull j = false ∧ (t.ch c).outFull j = false) ∧
  (∀ (s : State) (f : HostFn), s.configures f = true → (∀ c j, FnOf f c j → (s.ch c).hasItems = false) →
    ((s.dev.host.fn f).bme = true → Sys2Proof.Machine.exec (.busMasterEnableClear f) s =
      .next (s.setHost (s.dev.host.setFn f { s.dev.host.fn f with bme := false }))) ∧
    ((s.dev.host.fn f).d3hot = false → Sys2Proof.Machine.exec (.d3hotEntry f) s =
      .next (s.setHost (s.dev.host.setFn f { s.dev.host.fn f with d3hot := true })))) ∧
  (∀ (s : State) (f : HostFn) (c : Ch) (j : Fin 8), s.configures f = true → FnOf f c j → (s.ch c).hasItems = true →
    ((s.dev.host.fn f).bme = true →
      ∃ t, Sys2Proof.Machine.exec (.busMasterEnableClear f) s = .next t ∧ (t.dev.host.fn f).bme = false ∧
        ∀ r : Fin 8, ((t.ch c).ring j r).items = []) ∧
    ((s.dev.host.fn f).d3hot = false →
      ∃ t, Sys2Proof.Machine.exec (.d3hotEntry f) s = .next t ∧ (t.dev.host.fn f).d3hot = true ∧
        ∀ r : Fin 8, ((t.ch c).ring j r).items = [])) ∧
  (∀ (s : State) (f : HostFn),
    (s.configures f = false ∨ (s.dev.host.fn f).bme = false → Sys2Proof.Machine.exec (.busMasterEnableClear f) s = .next s) ∧
    (s.configures f = false ∨ (s.dev.host.fn f).d3hot = true → Sys2Proof.Machine.exec (.d3hotEntry f) s = .next s) ∧
    (s.configures f = false → Sys2Proof.Machine.exec (.functionLevelReset f) s = .next s)) ∧
  (∀ (s : State) (c : Ch), s.configures (.pf c) = true → s.dev.host.vfEn c = true →
    ∃ t, Sys2Proof.Machine.exec (.vfEnableClear c) s = .next t ∧ t.dev.host.vfEn c = false ∧
      t.dev.host.vfNum c = s.dev.host.vfNum c ∧ t.dev.otp = s.dev.otp) ∧
  (∀ (s : State) (c : Ch), s.configures (.pf c) = false ∨ s.dev.host.vfEn c = false →
    Sys2Proof.Machine.exec (.vfEnableClear c) s = .next s)

/-- The PCIe port: a host port reset and the loss of the link clear the configuration, BAR, SR-IOV and MSI-X state of every
function and take the link down, with EVT_LINK_DOWN where it was up; on a channel that has items every ring is empty and
disabled. A link that trains is shown in HOSTP and raises EVT_LINK_UP. Where the host port is Elof, the device is not ready or
the link is already so, nothing changes (05 R134, R160). -/
def Obligations.PortResetAndLink : Prop :=
  (∀ (s : State), s.dev.phase = .ready → s.dev.host.elofSel = false →
    ∃ t, Sys2Proof.Machine.exec .hostPortReset s = .next t ∧ t.dev.host.linkUp = false ∧ t.dev.host.fns = [] ∧
      t.dev.host.msix = [] ∧ t.dev.host.bars = [] ∧ (∀ c, t.dev.host.vfEn c = false ∧ t.dev.host.vfNum c = 0) ∧
      (s.dev.host.linkUp = true → (t.dreg dvDEVEVT 0x044).bit 0 = true) ∧
      ∀ (c : Ch) (f r : Fin 8), (s.ch c).hasItems = true →
        ((t.ch c).ring f r).items = [] ∧ (t.ch c).ringEn f r = false) ∧
  (∀ (s : State), s.dev.phase ≠ .ready ∨ s.dev.host.elofSel = true → Sys2Proof.Machine.exec .hostPortReset s = .next s) ∧
  (∀ (s : State), s.dev.host.linkUp = true →
    ∃ t, Sys2Proof.Machine.exec .pcieLinkDown s = .next t ∧ t.dev.host.linkUp = false ∧ t.dev.host.fns = [] ∧
      t.dev.host.msix = [] ∧ t.dev.host.bars = [] ∧ (t.dreg dvDEVEVT 0x044).bit 0 = true ∧
      ∀ (c : Ch) (f r : Fin 8), (s.ch c).hasItems = true →
        ((t.ch c).ring f r).items = [] ∧ (t.ch c).ringEn f r = false) ∧
  (∀ (s : State), s.dev.host.linkUp = false → Sys2Proof.Machine.exec .pcieLinkDown s = .next s) ∧
  (∀ (s : State) (gen width : Nat), s.dev.phase = .ready → s.dev.host.elofSel = false → s.dev.host.linkUp = false →
    Sys2Proof.Machine.exec (.pcieLinkUp gen width) s =
      .next ((({ s with dev := { s.dev with host := { s.dev.host with linkUp := true, trained := true } } } : State).setDreg
        dvHOSTP 0x040 (BitVec.ofNat 32 (1 + 2 * (gen % 8) + 16 * (width % 4)))).raiseDev dvLINK_UP)) ∧
  (∀ (s : State) (gen width : Nat), s.dev.phase ≠ .ready ∨ s.dev.host.elofSel = true ∨ s.dev.host.linkUp = true →
    Sys2Proof.Machine.exec (.pcieLinkUp gen width) s = .next s)

/-- Elof: a read of a register of the selected channel's PF space drives the wait bytes, OK, its value and then zeros; of a device
register by the fifth select likewise; an offset outside the space ERR_RANGE, a space that does not exist ERR_FORMAT with
EVT_ELOF_ERR, a channel not in RUN ERR_DOWN; one whose select rises before the final status performs nothing. A write of one
word acts as the PF's and drives nothing; its failure, and a partial word, are latched in the status of its chip select. A
status read drives that and clears it. With two selects low, or the reserved OP, nothing is driven and EVT_ELOF_ERR is raised. A
port that is not ready takes no transaction (05 R153 to R156). -/
def Obligations.ElofTransactions : Prop :=
  (∀ (s : State) (j : Fin 4) (m : Bool) (cmd : Byte) (addr : BitVec 24) (page tsck wait cycles : Nat), s.elReady = true →
    (s.ch (Ch.nth j)).boot = .run → page ∈ chanPages → elHeader cmd addr = ⟨0, 0, 1, regKey page 0x014⟩ →
    2 * elWaits false tsck wait + 22 ≤ cycles →
    ∃ t, Sys2Proof.Machine.exec (.elofRead ⟨j.val, by omega⟩ m cmd addr tsck wait cycles) s = .next t ∧
      (∀ c, t.ch c = s.ch c) ∧ t.dev.elof.out = List.replicate (elWaits false tsck wait) 0x0F ++ 0x00 ::
        bytesLE 4 ((s.ch (Ch.nth j)).headerRead page 0x014).toNat ++
        List.replicate ((cycles - 12) / 2 - (elWaits false tsck wait + 5)) 0x00) ∧
  (∀ (s : State) (m : Bool) (cmd : Byte) (addr : BitVec 24) (page tsck wait cycles : Nat), s.elReady = true →
    page < 9 → elHeader cmd addr = ⟨0, 0, 1, regKey page 0x018⟩ → 2 * elWaits false tsck wait + 22 ≤ cycles →
    ∃ t, Sys2Proof.Machine.exec (.elofRead 4 m cmd addr tsck wait cycles) s = .next t ∧
      (∀ c, t.ch c = s.ch c) ∧ t.dev.elof.out = List.replicate (elWaits false tsck wait) 0x0F ++ 0x00 ::
        bytesLE 4 (s.devRead page 0x018).toNat ++
        List.replicate ((cycles - 12) / 2 - (elWaits false tsck wait + 5)) 0x00) ∧
  (∀ (s : State) (j : Fin 4) (m : Bool) (cmd : Byte) (addr : BitVec 24) (a tsck wait cycles : Nat), s.elReady = true →
    elHeader cmd addr = ⟨0, 0, 1, a⟩ → 2 * elWaits false tsck wait + 14 ≤ cycles →
    (0x100000 ≤ a → ∃ t, Sys2Proof.Machine.exec (.elofRead ⟨j.val, by omega⟩ m cmd addr tsck wait cycles) s = .next t ∧
      (∀ c, t.ch c = s.ch c) ∧ t.dev.elof.out = List.replicate (elWaits false tsck wait) 0x0F ++ elERR_RANGE ::
        List.replicate ((cycles - 12) / 2 - (elWaits false tsck wait + 1)) 0x00) ∧
    (a < 0x100000 → (s.ch (Ch.nth j)).boot ≠ .run →
      ∃ t, Sys2Proof.Machine.exec (.elofRead ⟨j.val, by omega⟩ m cmd addr tsck wait cycles) s = .next t ∧
      (∀ c, t.ch c = s.ch c) ∧ t.dev.elof.out = List.replicate (elWaits false tsck wait) 0x0F ++ elERR_DOWN ::
        List.replicate ((cycles - 12) / 2 - (elWaits false tsck wait + 1)) 0x00 ∧ (t.dreg dvHOSTP 0x048).bit 31 = true)) ∧
  (∀ (s : State) (j : Fin 4) (m : Bool) (cmd : Byte) (addr : BitVec 24) (sp n a tsck wait cycles : Nat), s.elReady = true →
    elHeader cmd addr = ⟨0, sp, n, a⟩ → 2 ≤ sp → 1 ≤ n → 2 * elWaits false tsck wait + 14 ≤ cycles →
    ∃ t, Sys2Proof.Machine.exec (.elofRead ⟨j.val, by omega⟩ m cmd addr tsck wait cycles) s = .next t ∧ s.Keeps t ∧
      DevPending t dvELOF_ERR ∧ t.dev.elof.out = List.replicate (elWaits false tsck wait) 0x0F ++ elERR_FORMAT ::
        List.replicate ((cycles - 12) / 2 - (elWaits false tsck wait + 1)) 0x00) ∧
  (∀ (s : State) (hcs : Fin 5) (m : Bool) (cmd : Byte) (addr : BitVec 24) (tsck wait cycles : Nat), s.elReady = true →
    (elHeader cmd addr).op = 0 → cycles < 13 + 2 * elWaits (elMemory hcs (elHeader cmd addr).space) tsck wait →
    ∃ t, Sys2Proof.Machine.exec (.elofRead hcs m cmd addr tsck wait cycles) s = .next t ∧ (∀ c, t.ch c = s.ch c) ∧
      t.dev.elof.status = s.dev.elof.status ∧ t.dev.elof.out = List.replicate ((cycles - 12) / 2) 0x0F) ∧
  (∀ (s : State) (j : Fin 4) (m : Bool) (cmd : Byte) (addr : BitVec 24) (page : Nat) (w : Word) (nib : Bool), s.elReady = true →
    (s.ch (Ch.nth j)).boot = .run → page ∈ chanPages → elHeader cmd addr = ⟨1, 0, 1, regKey page 0x018⟩ →
    ∃ t, Sys2Proof.Machine.exec (.elofWrite ⟨j.val, by omega⟩ m cmd addr (bytesLE 4 w.toNat) nib) s = .next t ∧
      t.ch (Ch.nth j) = (s.ch (Ch.nth j)).setReg page 0x018 w ∧ t.dev.elof.out = [] ∧
      t.dev.elof.status = s.dev.elof.status) ∧
  (∀ (s : State) (j : Fin 4) (m : Bool) (cmd : Byte) (addr : BitVec 24) (w : Word) (nib : Bool) (a : Nat), s.elReady = true →
    (s.ch (Ch.nth j)).boot ≠ .run → elHeader cmd addr = ⟨1, 0, 1, a⟩ → a < 0x100000 →
    ∃ t, Sys2Proof.Machine.exec (.elofWrite ⟨j.val, by omega⟩ m cmd addr (bytesLE 4 w.toNat) nib) s = .next t ∧
      (∀ c, t.ch c = s.ch c) ∧ t.dev.elof.out = [] ∧ t.dev.elof.status = s.dev.elof.status.set j.val
        (if s.dev.elof.status[j.val] = 0 then elERR_DOWN else s.dev.elof.status[j.val])) ∧
  (∀ (s : State) (j : Fin 4) (m : Bool) (cmd : Byte) (addr : BitVec 24) (data : List Byte) (nib : Bool) (n a : Nat),
    s.elReady = true → elHeader cmd addr = ⟨1, 0, n, a⟩ → a < 0x100000 → data.length < 4 → data ≠ [] →
    ∃ t, Sys2Proof.Machine.exec (.elofWrite ⟨j.val, by omega⟩ m cmd addr data nib) s = .next t ∧
      s.Keeps t ∧ DevPending t dvELOF_ERR ∧ t.dev.elof.out = [] ∧ t.dev.elof.status = s.dev.elof.status.set j.val
        (if s.dev.elof.status[j.val] = 0 then elERR_FORMAT else s.dev.elof.status[j.val])) ∧
  (∀ (s : State) (j : Fin 5) (m : Bool), s.elReady = true →
    ∃ t, Sys2Proof.Machine.exec (.elofStatusRead j m) s = .next t ∧ (∀ c, t.ch c = s.ch c) ∧
      t.dev.elof.out = [s.dev.elof.status[j]] ∧ t.dev.elof.status = s.dev.elof.status.set j 0) ∧
  (∀ (s : State) (e : ElofStart) (n : Nat) (b : Bool), s.elReady = true → 2 ≤ n ∨ b = true →
    ∃ t, Sys2Proof.Machine.exec (.elofHeaderMalformed e n b) s = .next t ∧ t.dev.elof.out = [] ∧ s.Keeps t ∧
      DevPending t dvELOF_ERR) ∧
  (∀ (s : State) (hcs : Fin 5) (e : ElofStart) (m : Bool) (cmd : Byte) (addr : BitVec 24) (data : List Byte)
      (nib b : Bool) (n tsck wait cycles : Nat),
    (s.elReady = false ∨ (elHeader cmd addr).op ≠ 0 →
      Sys2Proof.Machine.exec (.elofRead hcs m cmd addr tsck wait cycles) s = .next s) ∧
    (s.elReady = false ∨ (elHeader cmd addr).op ≠ 1 →
      Sys2Proof.Machine.exec (.elofWrite hcs m cmd addr data nib) s = .next s) ∧
    (s.elReady = false → Sys2Proof.Machine.exec (.elofStatusRead hcs m) s = .next s) ∧
    (s.elReady = false ∨ (n < 2 ∧ b = false) → Sys2Proof.Machine.exec (.elofHeaderMalformed e n b) s = .next s))

/-- A memory-window access of the PF. A read that ownership grants and no error meets answers the bytes of SRAM, IRAM or DTCM,
and changes no memory, and no channel at all unless a CAN controller watches its objects; a write stores the enabled bytes at
the address the offset names, leaves every other byte of the channel's SRAM, and keeps its canonical form. One that ownership
refuses is recorded in REGION, a read of it answers zeros; at an offset no memory has, in MEMOWN as UNMAPPED. One that a
handover holds waits with it. A channel not in RUN answers DOWN. A poisoned write changes no channel (05 R138, R162, 06 R166,
R170, R190). -/
def Obligations.MemoryWindow : Prop :=
  (∀ (s : State) (c : Ch) (off n : Nat), s.arrives (.pf c) = true → (s.ch c).boot = .run →
    0x400000 ≤ off → off + n ≤ 0x800000 → (s.ch c).ecc = Ecc.reset →
    (s.ch c).grant mPF (off - 0x400000 + SRAM0) n false = .ok →
    ∃ t, Sys2Proof.Machine.exec (.memoryWindowAccess c off (.read n)) s = .next t ∧
      Answered s t (.pf c) (.inl ((s.ch c).sram.read (off - 0x400000 + SRAM0) n)) ∧ (t.ch c).sram = (s.ch c).sram ∧
      ((s.ch c).canWatches .u0 = false → (s.ch c).canWatches .u1 = false → ∀ d, t.ch d = s.ch d)) ∧
  (∀ (s : State) (c : Ch) (off n : Nat), s.arrives (.pf c) = true → (s.ch c).boot = .run → (s.ch c).ecc = Ecc.reset →
    (off + n ≤ 0x40000 → ∃ t, Sys2Proof.Machine.exec (.memoryWindowAccess c off (.read n)) s = .next t ∧
      Answered s t (.pf c) (.inl ((s.ch c).iram.read off n)) ∧ ∀ d, t.ch d = s.ch d) ∧
    (0x100000 ≤ off → off + n ≤ 0x140000 → ∃ t, Sys2Proof.Machine.exec (.memoryWindowAccess c off (.read n)) s = .next t ∧
      Answered s t (.pf c) (.inl ((s.ch c).dtcm.read off n)) ∧ ∀ d, t.ch d = s.ch d)) ∧
  (∀ (s : State) (c : Ch) (off : Nat) (data : List (Option Byte)), s.arrives (.pf c) = true → (s.ch c).boot = .run →
    0x400000 ≤ off → off + data.length ≤ 0x800000 → (s.ch c).ecc = Ecc.reset →
    (s.ch c).grant mPF (off - 0x400000 + SRAM0) data.length true = .ok → Memory.wf (s.ch c).sram = true →
    Sys2Proof.Machine.exec (.memoryWindowAccess c off (.write data false)) s = .next (s.setCh c
      { s.ch c with sram := (s.ch c).sram.write (off - 0x400000 + SRAM0) data }) ∧
    Memory.wf ((s.ch c).sram.write (off - 0x400000 + SRAM0) data) = true) ∧
  (∀ (m : Mem) (a : Nat) (data : List (Option Byte)) (x : Nat), (x < a ∨ a + data.length ≤ x) →
    (m.write a data).get x = m.get x) ∧
  (∀ (s : State) (c : Ch) (off n : Nat), s.arrives (.pf c) = true → (s.ch c).boot = .run →
    0x400000 ≤ off → off + n ≤ 0x800000 → (s.ch c).grant mPF (off - 0x400000 + SRAM0) n false = .refused →
    ∃ t, Sys2Proof.Machine.exec (.memoryWindowAccess c off (.read n)) s = .next t ∧
      Answered s t (.pf c) (.inl (List.replicate n 0)) ∧ RegsOnly (s.ch c) (t.ch c) ∧
      Recorded (s.ch c) (t.ch c) pgREGION 0x10 1 (BitVec.ofNat 32 (off - 0x400000 + SRAM0))) ∧
  (∀ (s : State) (c : Ch) (off : Nat) (data : List (Option Byte)), s.arrives (.pf c) = true → (s.ch c).boot = .run →
    0x400000 ≤ off → off + data.length ≤ 0x800000 →
    (s.ch c).grant mPF (off - 0x400000 + SRAM0) data.length true = .refused →
    ∃ t, Sys2Proof.Machine.exec (.memoryWindowAccess c off (.write data false)) s = .next t ∧ RegsOnly (s.ch c) (t.ch c) ∧
      Recorded (s.ch c) (t.ch c) pgREGION 0x10 1 (BitVec.ofNat 32 (off - 0x400000 + SRAM0))) ∧
  (∀ (s : State) (c : Ch) (off n : Nat) (data : List (Option Byte)), s.arrives (.pf c) = true → (s.ch c).boot = .run →
    0x40000 ≤ off → off < 0x100000 →
    (1 ≤ n → ∃ t, Sys2Proof.Machine.exec (.memoryWindowAccess c off (.read n)) s = .next t ∧
      Answered s t (.pf c) (.inl (List.replicate n 0)) ∧ RegsOnly (s.ch c) (t.ch c) ∧
      Recorded (s.ch c) (t.ch c) pgMEMOWN cUNMAPPED 1 (BitVec.ofNat 32 off)) ∧
    (data ≠ [] → ∃ t, Sys2Proof.Machine.exec (.memoryWindowAccess c off (.write data false)) s = .next t ∧
      RegsOnly (s.ch c) (t.ch c) ∧ Recorded (s.ch c) (t.ch c) pgMEMOWN cUNMAPPED 1 (BitVec.ofNat 32 off))) ∧
  (∀ (s : State) (c : Ch) (off : Nat) (acc : MemAcc), s.arrives (.pf c) = true → (s.ch c).boot = .run →
    (s.ch c).windowHeld off acc = true →
    ∃ t, Sys2Proof.Machine.exec (.memoryWindowAccess c off acc) s = .next t ∧ t.dev = s.dev ∧
      { t.ch c with handovers := (s.ch c).handovers } = s.ch c ∧
      ∃ h ∈ (t.ch c).handovers, (⟨.pf, off, acc⟩ : Held) ∈ h.held) ∧
  (∀ (s : State) (c : Ch) (off n : Nat) (data : List (Option Byte)), s.arrives (.pf c) = true → (s.ch c).boot ≠ .run →
    (∃ t, Sys2Proof.Machine.exec (.memoryWindowAccess c off (.read n)) s = .next t ∧
      Answered s t (.pf c) (.inr elERR_DOWN) ∧ (∀ d, t.ch d = s.ch d) ∧ (t.dreg dvHOSTP 0x048).bit 31 = true) ∧
    ∃ t, Sys2Proof.Machine.exec (.memoryWindowAccess c off (.write data false)) s = .next t ∧ (∀ d, t.ch d = s.ch d) ∧
      (t.dreg dvHOSTP 0x048).bit 31 = true) ∧
  (∀ (s : State) (c : Ch) (off : Nat) (data : List (Option Byte)),
    ∃ t, Sys2Proof.Machine.exec (.memoryWindowAccess c off (.write data true)) s = .next t ∧ (∀ d, t.ch d = s.ch d) ∧
      (s.arrives (.pf c) = true → s.dev.host.elofSel = false →
        (t.dev.host.fn (.pf c)).aer = (s.dev.host.fn (.pf c)).aer ||| 0x1000)) ∧
  (∀ (s : State) (c : Ch) (off : Nat) (acc : MemAcc), s.arrives (.pf c) = false →
    Sys2Proof.Machine.exec (.memoryWindowAccess c off acc) s = .next s)

/-! ## Memory ownership and mailboxes (06) -/

/-- A private bank's controller hands it over: BUSY sets and the handover is under way; its end writes OWNER and MODE,
clears BUSY and raises EVT_MEM_HANDOVER; memory stays where nothing was held. A write that names the owner and mode a bank has
changes nothing. A shared bank takes an OWNER, and a MODE of 0 hands it over. A write of a busy or held bank is refused with
STATE, of a private bank by one that does not control it with SENDER, a reserved OWNER is recorded as RSVD. The end of a
handover that does not run changes nothing. A corrected word leaves the write-back list. A read of MEMOWN_CECNT clears it (06
R167, R169, R170, R191, R194). -/
def Obligations.BankHandover : Prop :=
  (∀ (s : State) (snd : Sender) (c : Ch) (b : Fin 16) (v : Word), s.reaches snd c → Own snd → Free s c pgMEMOWN →
    ((s.ch c).bank b).bit 2 = false → ((s.ch c).bank b).bit 1 = false → ((s.ch c).bank b).bit 0 = false →
    v.field 8 5 < 18 → controls snd (((s.ch c).bank b).field 8 5) = true →
    (v.field 8 5 ≠ ((s.ch c).bank b).field 8 5 ∨ v.bit 0 = true) →
    Sys2Proof.Machine.exec (.memownBankWrite snd c b v) s = .next (s.setCh c
      { (s.ch c).setReg pgMEMOWN (0x040 + 4 * b) (((s.ch c).bank b).setBit 1 true) with
        handovers := (s.ch c).handovers ++ [⟨b, v.field 8 5, v.bit 0, []⟩] })) ∧
  (∀ (s : State) (snd : Sender) (c : Ch) (b : Fin 16) (v : Word), s.reaches snd c → Own snd → Free s c pgMEMOWN →
    ((s.ch c).bank b).bit 2 = false → ((s.ch c).bank b).bit 1 = false → ((s.ch c).bank b).bit 0 = false →
    v.field 8 5 = ((s.ch c).bank b).field 8 5 → v.field 8 5 < 18 → v.bit 0 = false →
    Sys2Proof.Machine.exec (.memownBankWrite snd c b v) s = .next s) ∧
  (∀ (s : State) (snd : Sender) (c : Ch) (b : Fin 16) (v : Word), s.reaches snd c → Own snd → Free s c pgMEMOWN →
    ((s.ch c).bank b).bit 2 = false → ((s.ch c).bank b).bit 1 = false → ((s.ch c).bank b).bit 0 = true → v.field 8 5 < 18 →
    Sys2Proof.Machine.exec (.memownBankWrite snd c b v) s = .next (s.setCh c
      (if v.bit 0 then (s.ch c).setReg pgMEMOWN (0x040 + 4 * b) (((s.ch c).bank b).setField 8 5 (v.field 8 5))
       else { (s.ch c).setReg pgMEMOWN (0x040 + 4 * b) (((s.ch c).bank b).setBit 1 true) with
              handovers := (s.ch c).handovers ++ [⟨b, v.field 8 5, false, []⟩] }))) ∧
  (∀ (s : State) (snd : Sender) (c : Ch) (b : Fin 16) (v : Word), s.reaches snd c → Own snd → Free s c pgMEMOWN →
    (((s.ch c).bank b).bit 2 = true ∨ ((s.ch c).bank b).bit 1 = true) →
    ∃ t, Sys2Proof.Machine.exec (.memownBankWrite snd c b v) s = .next t ∧ RegsOnly (s.ch c) (t.ch c) ∧
      Recorded (s.ch c) (t.ch c) pgMEMOWN cSTATE snd.id (regAddr pgMEMOWN (0x040 + 4 * b)) ∧
      (t.ch c).bank b = (s.ch c).bank b) ∧
  (∀ (s : State) (snd : Sender) (c : Ch) (b : Fin 16) (v : Word), s.reaches snd c → Own snd → Free s c pgMEMOWN →
    ((s.ch c).bank b).bit 2 = false → ((s.ch c).bank b).bit 1 = false → ((s.ch c).bank b).bit 0 = false →
    controls snd (((s.ch c).bank b).field 8 5) = false → (v.field 8 5 ≠ ((s.ch c).bank b).field 8 5 ∨ v.bit 0 = true) →
    ∃ t, Sys2Proof.Machine.exec (.memownBankWrite snd c b v) s = .next t ∧ RegsOnly (s.ch c) (t.ch c) ∧
      Recorded (s.ch c) (t.ch c) pgMEMOWN cSENDER snd.id (regAddr pgMEMOWN (0x040 + 4 * b)) ∧
      (t.ch c).bank b = (s.ch c).bank b) ∧
  (∀ (s : State) (snd : Sender) (c : Ch) (b : Fin 16) (v : Word), s.reaches snd c → Own snd → Free s c pgMEMOWN →
    ((s.ch c).bank b).bit 2 = false → ((s.ch c).bank b).bit 1 = false → 18 ≤ v.field 8 5 →
    ((s.ch c).bank b).bit 0 = true ∨ controls snd (((s.ch c).bank b).field 8 5) = true →
    ∃ t, Sys2Proof.Machine.exec (.memownBankWrite snd c b v) s = .next t ∧
      Recorded (s.ch c) (t.ch c) pgMEMOWN cRSVD snd.id (regAddr pgMEMOWN (0x040 + 4 * b)) ∧
      ((t.ch c).bank b).field 8 5 = ((s.ch c).bank b).field 8 5) ∧
  (∀ (s : State) (c : Ch) (b : Fin 16) (h : Handover), (s.ch c).handovers.find? (fun h => h.bank = b.val) = some h →
    ∃ t, Sys2Proof.Machine.exec (.handoverEnd c b) s = .next t ∧
      (t.ch c).bank b = BitVec.ofNat 32 (h.shared.toNat + 256 * h.newOwner) ∧ (t.ch c).handing b = false ∧
      ((t.ch c).reg pgMEMOWN 0x014).bit 2 = true ∧
      (h.held = [] → (t.ch c).handovers = (s.ch c).handovers.filter (fun x => x.bank ≠ b.val) ∧
        (t.ch c).sram = (s.ch c).sram)) ∧
  (∀ (s : State) (c : Ch) (b : Fin 16), (s.ch c).handing b = false →
    Sys2Proof.Machine.exec (.handoverEnd c b) s = .next s) ∧
  (∀ (s : State) (c : Ch) (k : MemKind) (a : Nat), Sys2Proof.Machine.exec (.eccWriteback c k a) s = .next (s.setCh c
    { s.ch c with ecc := { (s.ch c).ecc with wb := (s.ch c).ecc.wb.filter (· ≠ (k, a)) } })) ∧
  (∀ (s : State) (c : Ch), (s.ch c).boot = .run → Free s c pgMEMOWN →
    Sys2Proof.Machine.exec (.memownCecntRead .rook c) s = .next (s.setCh c ((s.ch c).setReg pgMEMOWN 0x080 0))) ∧
  (∀ (s : State) (snd : Sender) (c : Ch), s.reaches snd c → snd = .pf ∨ (snd = .pf4 ∧ (s.ch c).granted = true) →
    Free s c pgMEMOWN →
    ∃ t, Sys2Proof.Machine.exec (.memownCecntRead snd c) s = .next t ∧ t.ch c = (s.ch c).setReg pgMEMOWN 0x080 0 ∧
      Answered s t (senderFn snd c) (.inl (bytesLE 4 ((s.ch c).reg pgMEMOWN 0x080).toNat)))

/-- Inbound messages: a host sender writes a word of its empty mailbox, word 0 without its stamp bits, and whatever error the word
held goes with it; SEND stamps the sender and fills the mailbox with EVT_MBOX_IN; where word 0 holds an uncorrectable error the
stamp is not written and the error is recorded, while the message goes (the model's choice, log entry 56). The Rook's
acknowledgement of one message empties it with result OK, of none changes nothing. A SEND or a word write while it is full is
refused with STATE. What turns a mailbox command away: a channel not in RUN, a request that does not arrive, a block reset
(BUSY), the Rook in an own view (SENDER) (06 R174, R176, R187, R191, R193, R197). -/
def Obligations.InboundMail : Prop :=
  (∀ (s : State) (snd : Sender) (c : Ch) (w : Fin 16) (v : Word), s.reaches snd c → snd.isHost = true → Free s c pgMBOX →
    (s.ch c).inFull (pairOf snd) = false → (s.ch c).ecc = Ecc.reset →
    Sys2Proof.Machine.exec (.mbInWrite snd c w v) s = .next (s.setCh c ((s.ch c).setReg pgMBOX (mbIN (pairOf snd) w)
      (if w.val = 0 then v.setField 0 4 (((s.ch c).reg pgMBOX (mbIN (pairOf snd) 0)).field 0 4) else v)))) ∧
  (∀ (s : State) (snd : Sender) (c : Ch) (w : Fin 16) (v : Word), s.reaches snd c → snd.isHost = true → Free s c pgMBOX →
    (s.ch c).inFull (pairOf snd) = false →
    ∃ t, Sys2Proof.Machine.exec (.mbInWrite snd c w v) s = .next t ∧
      (t.ch c).reg pgMBOX (mbIN (pairOf snd) w) =
        (if w.val = 0 then v.setField 0 4 (((s.ch c).reg pgMBOX (mbIN (pairOf snd) 0)).field 0 4) else v) ∧
      (t.ch c).mailBad (mbIN (pairOf snd) w) = false ∧ t.dev = s.dev) ∧
  (∀ (s : State) (snd : Sender) (c : Ch), s.reaches snd c → snd.isHost = true → Free s c pgMBOX →
    (s.ch c).inFull (pairOf snd) = false →
    ∃ t, Sys2Proof.Machine.exec (.send snd c) s = .next t ∧ (t.ch c).inFull (pairOf snd) = true ∧
      ((t.ch c).reg pgMBOX 0x014).bit 0 = true ∧ (t.ch c).sram = (s.ch c).sram ∧
      (t.ch c).reg pgMBOX (mbIN (pairOf snd) 0) = (if (s.ch c).mailBad (mbIN (pairOf snd) 0) then
        (s.ch c).reg pgMBOX (mbIN (pairOf snd) 0)
        else ((s.ch c).reg pgMBOX (mbIN (pairOf snd) 0)).setField 0 4 snd.id) ∧
      ((s.ch c).mailBad (mbIN (pairOf snd) 0) = true → Recorded (s.ch c) (t.ch c) pgMEMOWN 0x10 snd.id
        (BitVec.ofNat 32 (0x08005000 + mbIN (pairOf snd) 0)))) ∧
  (∀ (s : State) (snd : Sender) (c : Ch) (w : Fin 16) (v : Word), s.reaches snd c → snd.isHost = true → Free s c pgMBOX →
    (s.ch c).inFull (pairOf snd) = true →
    (∃ t, Sys2Proof.Machine.exec (.mbInWrite snd c w v) s = .next t ∧ FaultOnly (s.ch c) (t.ch c) pgMBOX ∧
      Recorded (s.ch c) (t.ch c) pgMBOX cSTATE snd.id (regAddr pgMBOX (0x800 + (0x040 + 4 * w.val)))) ∧
    ∃ t, Sys2Proof.Machine.exec (.send snd c) s = .next t ∧ FaultOnly (s.ch c) (t.ch c) pgMBOX ∧
      Recorded (s.ch c) (t.ch c) pgMBOX cSTATE snd.id (regAddr pgMBOX (0x800 + 0x084))) ∧
  (∀ (s : State) (c : Ch) (j : Fin 9), (s.ch c).boot = .run → Free s c pgMBOX → (s.ch c).inFull j = true →
    Sys2Proof.Machine.exec (.mbInack .rook c (BitVec.ofNat 32 (2 ^ j.val))) s = .next (s.setCh c
      { (s.ch c).setReg pgMBOX 0x040 (((s.ch c).reg pgMBOX 0x040).setBit j false) with
        inLast := (s.ch c).inLast.set j stOK })) ∧
  (∀ (s : State) (c : Ch) (v : Word), (s.ch c).boot = .run → Free s c pgMBOX →
    (∀ j : Fin 9, v.bit j = true → (s.ch c).inFull j = false) →
    Sys2Proof.Machine.exec (.mbInack .rook c v) s = .next s) ∧
  (∀ (i : Instr) (snd : Sender) (c : Ch) (off : Nat), mailForm i = some (snd, c, off) → ∀ s : State,
    (snd = .rook → (s.ch c).boot ≠ .run → Sys2Proof.Machine.exec i s = .next s) ∧
    (snd ≠ .rook → s.arrives (senderFn snd c) = false → Sys2Proof.Machine.exec i s = .next s) ∧
    (snd ≠ .rook → s.arrives (senderFn snd c) = true → (s.ch c).boot ≠ .run →
      ∃ t, Sys2Proof.Machine.exec i s = .next t ∧ (∀ d, t.ch d = s.ch d) ∧ (t.dreg dvHOSTP 0x048).bit 31 = true) ∧
    (s.reaches snd c → (s.ch c).busy pgMBOX = true →
      ∃ t, Sys2Proof.Machine.exec i s = .next t ∧ FaultOnly (s.ch c) (t.ch c) pgMBOX ∧
        Recorded (s.ch c) (t.ch c) pgMBOX cBUSY snd.id (regAddr pgMBOX off))) ∧
  (∀ (s : State) (c : Ch) (w : Fin 16) (v : Word), (s.ch c).boot = .run → Free s c pgMBOX →
    ∀ p ∈ [(Instr.mbInWrite .rook c w v, 0x840 + 4 * w.val), (.send .rook c, 0x884), (.free .rook c, 0x884),
      (.dbRing .rook c v, 0x888)],
    ∃ t, Sys2Proof.Machine.exec p.1 s = .next t ∧ FaultOnly (s.ch c) (t.ch c) pgMBOX ∧
      Recorded (s.ch c) (t.ch c) pgMBOX cSENDER 0 (regAddr pgMBOX p.2))

/-- Outbound messages: the Rook writes a word of an empty mailbox and sends it, which stamps it, fills it and notifies a function
of its pair; a full one refuses both with STATE, a VF that does not exist the SEND with NOFN. The receiver's FREE empties it with
result OK and EVT_MBOX_OUT_FREE; one of an empty mailbox changes nothing. A host sender in the Rook's region is refused with
SENDER, a block reset refuses with BUSY (06 R175, R176, R187, R196). -/
def Obligations.OutboundMail : Prop :=
  (∀ (s : State) (c : Ch) (j : Fin 9) (w : Fin 16) (v : Word), (s.ch c).boot = .run → Free s c pgMBOX →
    (s.ch c).outFull j = false → (s.ch c).ecc = Ecc.reset →
    Sys2Proof.Machine.exec (.mbOutWrite .rook c j w v) s = .next (s.setCh c ((s.ch c).setReg pgMBOX (mbOUT j w)
      (if w.val = 0 then v.setField 0 4 (((s.ch c).reg pgMBOX (mbOUT j 0)).field 0 4) else v)))) ∧
  (∀ (s : State) (c : Ch) (j : Fin 9) (w : Fin 16) (v : Word), (s.ch c).boot = .run → Free s c pgMBOX →
    (s.ch c).outFull j = false →
    ∃ t, Sys2Proof.Machine.exec (.mbOutWrite .rook c j w v) s = .next t ∧ (t.ch c).mailBad (mbOUT j w) = false ∧
      (t.ch c).reg pgMBOX (mbOUT j w) =
        (if w.val = 0 then v.setField 0 4 (((s.ch c).reg pgMBOX (mbOUT j 0)).field 0 4) else v) ∧ t.dev = s.dev) ∧
  (∀ (s : State) (c : Ch) (j : Fin 9) (w : Fin 16) (v : Word), (s.ch c).boot = .run → Free s c pgMBOX →
    (s.ch c).outFull j = true →
    ∃ t, Sys2Proof.Machine.exec (.mbOutWrite .rook c j w v) s = .next t ∧ FaultOnly (s.ch c) (t.ch c) pgMBOX ∧
      Recorded (s.ch c) (t.ch c) pgMBOX cSTATE 0 (regAddr pgMBOX (mbOUT j w))) ∧
  (∀ (s : State) (c : Ch) (j : Fin 9), (s.ch c).boot = .run → Free s c pgMBOX → (s.ch c).outFull j = false →
    (s.node c).pairExists j = true → ∃ t, Sys2Proof.Machine.exec (.mbOutsend .rook c (BitVec.ofNat 32 (2 ^ j.val))) s = .next t ∧
      (t.ch c).outFull j = true ∧
      (t.ch c).reg pgMBOX (mbOUT j 0) = (if (s.ch c).mailBad (mbOUT j 0) then (s.ch c).reg pgMBOX (mbOUT j 0)
        else ((s.ch c).reg pgMBOX (mbOUT j 0)).setField 0 4 0) ∧
      (j ≠ 8 → (s.ch c).ecc = Ecc.reset → t.dev.host = s.dev.host.msi (pairFn c j) (mailVec (pairFn c j))) ∧
      (j = 8 → DevPending t (dvCh c dvMBOX_MGMT))) ∧
  (∀ (s : State) (c : Ch) (j : Fin 9), (s.ch c).boot = .run → Free s c pgMBOX →
    ((s.ch c).outFull j = true ∨ (s.node c).pairExists j = false) →
    ∃ t, Sys2Proof.Machine.exec (.mbOutsend .rook c (BitVec.ofNat 32 (2 ^ j.val))) s = .next t ∧
      FaultOnly (s.ch c) (t.ch c) pgMBOX ∧
      Recorded (s.ch c) (t.ch c) pgMBOX (if (s.ch c).outFull j then cSTATE else 0x10) 0 (regAddr pgMBOX 0x04C)) ∧
  (∀ (s : State) (snd : Sender) (c : Ch), s.reaches snd c → snd.isHost = true → Free s c pgMBOX →
    (s.ch c).outFull (pairOf snd) = true →
    ∃ t, Sys2Proof.Machine.exec (.free snd c) s = .next t ∧ (t.ch c).outFull (pairOf snd) = false ∧
      (t.ch c).reg pgMBOX (0x140 + 4 * (pairOf snd).val) = 0 ∧ ((t.ch c).reg pgMBOX 0x014).bit 1 = true ∧
      RegsOnly (s.ch c) (t.ch c)) ∧
  (∀ (s : State) (snd : Sender) (c : Ch), s.reaches snd c → snd.isHost = true → Free s c pgMBOX →
    (s.ch c).outFull (pairOf snd) = false → Sys2Proof.Machine.exec (.free snd c) s = .next s) ∧
  (∀ (i : Instr) (snd : Sender) (c : Ch) (off : Nat), rookForm i = some (snd, c, off) → ∀ s : State,
    (snd = .rook → (s.ch c).boot ≠ .run → Sys2Proof.Machine.exec i s = .next s) ∧
    (snd ≠ .rook → s.arrives (senderFn snd c) = false → Sys2Proof.Machine.exec i s = .next s) ∧
    (snd ≠ .rook → s.arrives (senderFn snd c) = true → (s.ch c).boot ≠ .run →
      ∃ t, Sys2Proof.Machine.exec i s = .next t ∧ (∀ d, t.ch d = s.ch d) ∧ (t.dreg dvHOSTP 0x048).bit 31 = true) ∧
    (s.reaches snd c → snd = .pf4 →
      ∃ t, Sys2Proof.Machine.exec i s = .next t ∧ FaultOnly (s.ch c) (t.ch c) pgCHCTL ∧
        Recorded (s.ch c) (t.ch c) pgCHCTL cSENDER 9 (regAddr pgMBOX off)) ∧
    (s.reaches snd c → snd ≠ .pf4 → (s.ch c).busy pgMBOX = true ∨ snd ≠ .rook →
      ∃ t, Sys2Proof.Machine.exec i s = .next t ∧ FaultOnly (s.ch c) (t.ch c) pgMBOX ∧
        Recorded (s.ch c) (t.ch c) pgMBOX (if (s.ch c).busy pgMBOX then cBUSY else cSENDER) snd.id (regAddr pgMBOX off)))

/-- Tokens and common mailboxes: a read of a free Token makes the reader its holder, of a held one changes nothing; the host gets
the owner number it read. Its holder's write of its own number frees it with EVT_TOKEN_FREE, any other write is refused with
SENDER and frees nothing; the holder's write of the common mailbox stamps it, another's is refused with SENDER; the Rook frees
Tokens by force, and a Token that is free stays so (06 R176, R177, R178). -/
def Obligations.TokensAndCommonMail : Prop :=
  (∀ (s : State) (c : Ch) (k : Fin 4), (s.ch c).boot = .run → Free s c pgMBOX →
    Sys2Proof.Machine.exec (.tokenClaim .rook c k) s =
      if (s.ch c).token k = 0 then
        .next (s.setCh c ((s.ch c).setReg pgMBOX 0x068 (((s.ch c).reg pgMBOX 0x068).setField (4 * k) 4 1)))
      else .next s) ∧
  (∀ (s : State) (snd : Sender) (c : Ch) (k : Fin 4), s.reaches snd c → snd.isHost = true → Free s c pgMBOX →
    ∃ t, Sys2Proof.Machine.exec (.tokenClaim snd c k) s = .next t ∧
      (t.ch c).token k = (if (s.ch c).token k = 0 then snd.id + 1 else (s.ch c).token k) ∧ RegsOnly (s.ch c) (t.ch c) ∧
      (∀ j : Fin 4, j ≠ k → (t.ch c).token j = (s.ch c).token j) ∧
      Answered s t (senderFn snd c) (.inl (bytesLE 4 (BitVec.ofNat 32 ((s.ch c).token k)).toNat))) ∧
  (∀ (s : State) (snd : Sender) (c : Ch) (k : Fin 4) (v : Word), s.reaches snd c → Free s c pgMBOX →
    (s.ch c).token k = snd.id + 1 → v.field 0 4 = snd.id + 1 →
    ∃ t, Sys2Proof.Machine.exec (.tokenRelease snd c k v) s = .next t ∧ (t.ch c).token k = 0 ∧
      RegsOnly (s.ch c) (t.ch c) ∧ ((t.ch c).reg pgMBOX 0x014).bit 3 = true ∧
      (∀ j : Fin 4, j ≠ k → (t.ch c).token j = (s.ch c).token j)) ∧
  (∀ (s : State) (snd : Sender) (c : Ch) (k : Fin 4) (v : Word), s.reaches snd c → Free s c pgMBOX →
    ((s.ch c).token k ≠ snd.id + 1 ∨ v.field 0 4 ≠ snd.id + 1) →
    ∃ t, Sys2Proof.Machine.exec (.tokenRelease snd c k v) s = .next t ∧ (t.ch c).token k = (s.ch c).token k ∧
      FaultOnly (s.ch c) (t.ch c) pgMBOX ∧ Recorded (s.ch c) (t.ch c) pgMBOX cSENDER snd.id (regAddr pgMBOX (tokenOff snd k))) ∧
  (∀ (s : State) (snd : Sender) (c : Ch) (k : Fin 4) (w : Fin 16) (v : Word), s.reaches snd c → Free s c pgMBOX →
    (s.ch c).token k = snd.id + 1 →
    ∃ t, Sys2Proof.Machine.exec (.commonWrite snd c k w v) s = .next t ∧
      (t.ch c).reg pgMBOX (mbCOMMON k w) = (if w = 0 then v.setField 0 4 snd.id else v) ∧
      (w = 0 ∨ (s.ch c).mailBad (mbCOMMON k 0) = false → ((t.ch c).reg pgMBOX (mbCOMMON k 0)).field 0 4 = snd.id) ∧
      (t.ch c).sram = (s.ch c).sram) ∧
  (∀ (s : State) (snd : Sender) (c : Ch) (k : Fin 4) (w : Fin 16) (v : Word), s.reaches snd c → Free s c pgMBOX →
    (s.ch c).token k ≠ snd.id + 1 →
    ∃ t, Sys2Proof.Machine.exec (.commonWrite snd c k w v) s = .next t ∧ FaultOnly (s.ch c) (t.ch c) pgMBOX ∧
      Recorded (s.ch c) (t.ch c) pgMBOX cSENDER snd.id (regAddr pgMBOX (commonOff snd k w))) ∧
  (∀ (s : State) (c : Ch) (k : Fin 4), (s.ch c).boot = .run → Free s c pgMBOX → (s.ch c).token k ≠ 0 →
    ∃ t, Sys2Proof.Machine.exec (.mbTokforce .rook c (BitVec.ofNat 32 (2 ^ k.val))) s = .next t ∧ (t.ch c).token k = 0 ∧
      RegsOnly (s.ch c) (t.ch c) ∧ ((t.ch c).reg pgMBOX 0x014).bit 3 = true ∧
      (∀ j : Fin 4, j ≠ k → (t.ch c).token j = (s.ch c).token j)) ∧
  (∀ (s : State) (c : Ch) (v : Word), (s.ch c).boot = .run → Free s c pgMBOX →
    (∀ k : Fin 4, v.bit k = true → (s.ch c).token k = 0) →
    Sys2Proof.Machine.exec (.mbTokforce .rook c v) s = .next s)

/-- Doorbells: a host sender's ring sets the Rook's bits that MB_RDB_SEL lets it ring, the Rook's ring sets a pair's bits; a
receiver clears its pending bits and writes its mask; the signal, EVT_DOORBELL to the Rook and a message to a host function, goes
when PEND AND MASK leaves zero (06 R179, R180). -/
def Obligations.Doorbells : Prop :=
  (∀ (s : State) (snd : Sender) (c : Ch) (v : Word), s.reaches snd c → snd.isHost = true → Free s c pgMBOX →
    ∃ t, Sys2Proof.Machine.exec (.dbRing snd c v) s = .next t ∧ RegsOnly (s.ch c) (t.ch c) ∧
      (∀ b : Fin 32, ((t.ch c).reg pgMBOX 0x050).bit b =
        (((s.ch c).reg pgMBOX 0x050).bit b || (v.bit b && (s.ch c).selAllows snd b))) ∧
      ((s.ch c).reg pgMBOX 0x050 &&& (s.ch c).reg pgMBOX 0x054 = 0 →
        (t.ch c).reg pgMBOX 0x050 &&& (s.ch c).reg pgMBOX 0x054 ≠ 0 →
        ((t.ch c).reg (evtHome evDOORBELL).1 0x014).bit (evtHome evDOORBELL).2 = true)) ∧
  (∀ (s : State) (c : Ch) (j : Fin 9) (v : Word), (s.ch c).boot = .run → Free s c pgMBOX →
    ∃ t, Sys2Proof.Machine.exec (.mbHdbRing .rook c j v) s = .next t ∧
      (t.ch c).bellPend j = (s.ch c).bellPend j ||| v ∧ (t.ch c).dbMask = (s.ch c).dbMask ∧
      t.dev.host = (if ((s.ch c).bellPend j &&& (s.ch c).dbMask[j]) = 0 ∧
          (((s.ch c).bellPend j ||| v) &&& (s.ch c).dbMask[j]) ≠ 0 then
        s.dev.host.msi (pairFn c j) (bellVec c (pairFn c j)) else s.dev.host)) ∧
  (∀ (s : State) (c : Ch) (v : Word), (s.ch c).boot = .run → Free s c pgMBOX →
    Sys2Proof.Machine.exec (.doorbellClear .rook c v) s =
      .next (s.setCh c ((s.ch c).setReg pgMBOX 0x050 ((s.ch c).reg pgMBOX 0x050 &&& ~~~v)))) ∧
  (∀ (s : State) (snd : Sender) (c : Ch) (v : Word), s.reaches snd c → snd.isHost = true → Free s c pgMBOX →
    Sys2Proof.Machine.exec (.doorbellClear snd c v) s = .next (s.setCh c ((s.ch c).setReg pgMBOX (0x0C0 + 4 * (pairOf snd).val)
      ((s.ch c).bellPend (pairOf snd) &&& ~~~v)))) ∧
  (∀ (s : State) (c : Ch) (v : Word), (s.ch c).boot = .run → Free s c pgMBOX →
    ∃ t, Sys2Proof.Machine.exec (.doorbellMaskWrite .rook c v) s = .next t ∧ RegsOnly (s.ch c) (t.ch c) ∧
      (t.ch c).reg pgMBOX 0x054 = v ∧ (t.ch c).reg pgMBOX 0x050 = (s.ch c).reg pgMBOX 0x050 ∧
      ((s.ch c).reg pgMBOX 0x050 &&& (s.ch c).reg pgMBOX 0x054 = 0 → (s.ch c).reg pgMBOX 0x050 &&& v ≠ 0 →
        ((t.ch c).reg (evtHome evDOORBELL).1 0x014).bit (evtHome evDOORBELL).2 = true)) ∧
  (∀ (s : State) (snd : Sender) (c : Ch) (v : Word), s.reaches snd c → snd.isHost = true → Free s c pgMBOX →
    ∃ t, Sys2Proof.Machine.exec (.doorbellMaskWrite snd c v) s = .next t ∧
      (t.ch c).dbMask = (s.ch c).dbMask.set (pairOf snd) v ∧ (t.ch c).bellPend (pairOf snd) = (s.ch c).bellPend (pairOf snd) ∧
      t.dev.host = (if ((s.ch c).bellPend (pairOf snd) &&& (s.ch c).dbMask[pairOf snd]) = 0 ∧
          ((s.ch c).bellPend (pairOf snd) &&& v) ≠ 0 then
        s.dev.host.msi (pairFn c (pairOf snd)) (bellVec c (pairFn c (pairOf snd))) else s.dev.host))

/-! ## DMA (05) -/

/-- DMA rings, by the Rook, the PF or the VF whose ring it is: a RINGCFG write with EN enables an idle ring with PROD, CONS and
the ring at their start, and is refused with STATE on an enabled one; one without EN ends its open items with their records and
clears EN, and leaves a disabled ring disabled; PROD takes a value that does not pass CONS, another is rejected with RSVD; the
STOPPED bit clears by a write of one; a read of RINGSTAT clears DROPS. A VF reaches no other function's ring: its write is
recorded as SENDER, its read answers zeros. During a block reset a write is refused with BUSY (05 R141, R147, R157, R161,
R163). -/
def Obligations.DmaRingRegisters : Prop :=
  (∀ (s : State) (snd : Sender) (c : Ch) (f r : Fin 8) (v : Word), s.reaches snd c → Rings snd f → Free s c pgDMA →
    (s.ch c).ringEn f r = false →
    ∃ t, Sys2Proof.Machine.exec (.dmaRingEnable snd c f r v) s = .next t ∧ (t.ch c).ringEn f r = true ∧
      (t.ch c).ringProd f r = 0 ∧ (t.ch c).ringCons f r = 0 ∧ (t.ch c).ring f r = { dmaBlank with phase := true } ∧
      (t.ch c).sram = (s.ch c).sram) ∧
  (∀ (s : State) (snd : Sender) (c : Ch) (f r : Fin 8) (v : Word), s.reaches snd c → Rings snd f → Free s c pgDMA →
    (s.ch c).ringEn f r = true →
    ∃ t, Sys2Proof.Machine.exec (.dmaRingEnable snd c f r v) s = .next t ∧ FaultOnly (s.ch c) (t.ch c) pgDMA ∧
      Recorded (s.ch c) (t.ch c) pgDMA cSTATE snd.id (regAddr pgDMA (dmaB f r + 0x10))) ∧
  (∀ (s : State) (snd : Sender) (c : Ch) (f r : Fin 8) (v : Word), s.reaches snd c → Rings snd f → Free s c pgDMA →
    ∃ t, Sys2Proof.Machine.exec (.dmaRingDisable snd c f r v) s = .next t ∧ (t.ch c).ringEn f r = false ∧
      (t.ch c).sram = (s.ch c).sram ∧
      ((s.ch c).ringEn f r = false → (t.ch c).ring f r = (s.ch c).ring f r) ∧
      ((s.ch c).ringEn f r = true → ((t.ch c).ring f r).items = [] ∧ ((t.ch c).ring f r).wait = [] ∧
        ∃ l, t.dev.host.upstream = s.dev.host.upstream ++ l ∧ ((s.ch c).ring f r).items.length ≤ l.length) ∧
      ((s.ch c).ringEn f r = true → ((s.ch c).ring f r).items = [] → ((s.ch c).ring f r).wait = [] → t.dev = s.dev)) ∧
  (∀ (s : State) (snd : Sender) (c : Ch) (f r : Fin 8) (v : Word), s.reaches snd c → Rings snd f → Free s c pgDMA →
    v.field 0 12 < (s.ch c).ringSize f r →
    ((s.ch c).ringProd f r + (s.ch c).ringSize f r - (s.ch c).ringCons f r) % (s.ch c).ringSize f r ≤
      (v.field 0 12 + (s.ch c).ringSize f r - (s.ch c).ringCons f r) % (s.ch c).ringSize f r →
    Sys2Proof.Machine.exec (.dmaRingprodWrite snd c f r v) s =
      .next (s.setCh c ((s.ch c).setReg pgDMA (dmaB f r + 0x14) (BitVec.ofNat 32 (v.field 0 12))))) ∧
  (∀ (s : State) (snd : Sender) (c : Ch) (f r : Fin 8) (v : Word), s.reaches snd c → Rings snd f → Free s c pgDMA →
    (s.ch c).ringSize f r ≤ v.field 0 12 ∨
      (v.field 0 12 + (s.ch c).ringSize f r - (s.ch c).ringCons f r) % (s.ch c).ringSize f r <
        ((s.ch c).ringProd f r + (s.ch c).ringSize f r - (s.ch c).ringCons f r) % (s.ch c).ringSize f r →
    ∃ t, Sys2Proof.Machine.exec (.dmaRingprodWrite snd c f r v) s = .next t ∧ FaultOnly (s.ch c) (t.ch c) pgDMA ∧
      Recorded (s.ch c) (t.ch c) pgDMA cRSVD snd.id (regAddr pgDMA (dmaB f r + 0x14)) ∧
      (t.ch c).ringProd f r = (s.ch c).ringProd f r) ∧
  (∀ (s : State) (snd : Sender) (c : Ch) (f r : Fin 8), s.reaches snd c → Rings snd f → Free s c pgDMA →
    ∃ t, Sys2Proof.Machine.exec (.dmaStoppedClear snd c f r) s = .next t ∧
      (((s.ch c).ring f r).items = [] → RegsOnly (s.ch c) { t.ch c with dma := (s.ch c).dma } ∧
        (t.ch c).ring f r = (s.ch c).ring f r ∧ (t.ch c).ringStopped f r = false ∧
        (t.ch c).reg pgDMA (dmaB f r + 0x1C) = (s.ch c).reg pgDMA (dmaB f r + 0x1C) &&& ~~~1)) ∧
  (∀ (s : State) (c : Ch) (f r : Fin 8), (s.ch c).boot = .run → Free s c pgDMA →
    Sys2Proof.Machine.exec (.dmaDropsRead .rook c f r) s = .next (s.setCh c ((s.ch c).setReg pgDMA (dmaB f r + 0x1C)
      (((s.ch c).reg pgDMA (dmaB f r + 0x1C)).setField 16 16 0)))) ∧
  (∀ (s : State) (snd : Sender) (c : Ch) (f r : Fin 8), s.reaches snd c → snd ≠ .rook →
    Rings snd f ∨ (snd = .pf4 ∧ (s.ch c).granted = true) → Free s c pgDMA →
    ∃ t, Sys2Proof.Machine.exec (.dmaDropsRead snd c f r) s = .next t ∧
      t.ch c = (s.ch c).setReg pgDMA (dmaB f r + 0x1C) (((s.ch c).reg pgDMA (dmaB f r + 0x1C)).setField 16 16 0) ∧
      Answered s t (senderFn snd c) (.inl (bytesLE 4 ((s.ch c).view pgDMA (dmaB f r + 0x1C)).toNat))) ∧
  (∀ (s : State) (v : Fin 7) (c : Ch) (f r : Fin 8), s.reaches (.vf v) c → f.val ≠ v.val + 1 →
    ∃ t, Sys2Proof.Machine.exec (.dmaDropsRead (.vf v) c f r) s = .next t ∧ (∀ d, t.ch d = s.ch d) ∧
      Answered s t (.vf c v) (.inl [0, 0, 0, 0])) ∧
  (∀ (i : Instr) (snd : Sender) (c : Ch) (f : Fin 8) (off : Nat), dmaForm i = some (snd, c, f, off) → ∀ s : State,
    (snd = .rook → (s.ch c).boot ≠ .run → Sys2Proof.Machine.exec i s = .next s) ∧
    (snd ≠ .rook → s.arrives (senderFn snd c) = false → Sys2Proof.Machine.exec i s = .next s) ∧
    (snd ≠ .rook → s.arrives (senderFn snd c) = true → (s.ch c).boot ≠ .run →
      ∃ t, Sys2Proof.Machine.exec i s = .next t ∧ (∀ d, t.ch d = s.ch d) ∧ (t.dreg dvHOSTP 0x048).bit 31 = true) ∧
    (s.reaches snd c → snd = .pf4 →
      ∃ t, Sys2Proof.Machine.exec i s = .next t ∧ FaultOnly (s.ch c) (t.ch c) pgCHCTL ∧
        Recorded (s.ch c) (t.ch c) pgCHCTL cSENDER 9 (regAddr pgDMA off)) ∧
    (s.reaches snd c → snd ≠ .pf4 → ¬ Rings snd f →
      ∃ t, Sys2Proof.Machine.exec i s = .next t ∧ FaultOnly (s.ch c) (t.ch c) pgDMA ∧
        Recorded (s.ch c) (t.ch c) pgDMA cSENDER snd.id (regAddr pgDMA off)) ∧
    (s.reaches snd c → Rings snd f → (s.ch c).busy pgDMA = true →
      ∃ t, Sys2Proof.Machine.exec i s = .next t ∧ FaultOnly (s.ch c) (t.ch c) pgDMA ∧
        Recorded (s.ch c) (t.ch c) pgDMA cBUSY snd.id (regAddr pgDMA off)))

/-- DMA items: a live ring fetches the next posted descriptor, and one that cannot be read or is malformed stops the ring with
BAD_DESC; the data of a host read goes to the item's SRAM address and the last byte fixes its outcome OK; a read error fixes
ABORTED; a Completion Timeout is retried, up to DMA_CTRL.RETRY times, and then fixes ABORTED, of a descriptor fetch BAD_DESC; a
due deadline fixes TIMEOUT and no other item's outcome; the report of the oldest item writes its record, advances CONS and, for a
flagged one, sets IRQPEND. Read requests may go out with each (log entry 10), which `Told` leaves aside. A block that is disabled
does none of it (05 R145, R146, R147, R149, R150, R157). -/
def Obligations.DmaItems : Prop :=
  (∀ (s : State) (c : Ch) (f r : Fin 8) (d : Option (List Byte)), (s.ch c).ringLive f r = true → (s.node c).canIssue f = true →
    ((s.ch c).ring f r).fetch ≠ (s.ch c).ringProd f r →
    (∀ x, d = some x → (dmaParse (s.ch c) ((s.ch c).ringKind f r) ((s.ch c).ring f r).fetch x).2 = false) →
    ∃ t, Sys2Proof.Machine.exec (.dmaDescriptorFetch c f r d) s = .next t ∧ (t.ch c).ringStopped f r = true ∧
      ((t.ch c).ring f r).fetch = (((s.ch c).ring f r).fetch + 1) % (s.ch c).ringSize f r ∧
      ((t.ch c).ring f r).wait = [] ∧ ∃ it : DmaItem, it.outcome = some stBAD_DESC ∧ it.idx = ((s.ch c).ring f r).fetch ∧
        Told ((t.ch c).ring f r).items = Told (((s.ch c).ring f r).items ++ [it])) ∧
  (∀ (s : State) (c : Ch) (f r : Fin 8) (d : List Byte), (s.ch c).ringLive f r = true → (s.node c).canIssue f = true →
    ((s.ch c).ring f r).fetch ≠ (s.ch c).ringProd f r → (s.ch c).ringKind f r = 2 →
    (dmaParse (s.ch c) 2 ((s.ch c).ring f r).fetch d).2 = true → ((s.ch c).ring f r).items = [] →
    ((s.ch c).ring f r).wait = [] →
    ∃ t, Sys2Proof.Machine.exec (.dmaDescriptorFetch c f r (some d)) s = .next t ∧
      ((t.ch c).ring f r).items = [{ (dmaParse (s.ch c) 2 ((s.ch c).ring f r).fetch d).1 with
        retries := ((s.ch c).ring f r).tries }] ∧ (t.ch c).ringStopped f r = false) ∧
  (∀ (s : State) (c : Ch) (f r : Fin 8) (d : List Byte), (s.ch c).ringLive f r = true → (s.node c).canIssue f = true →
    ((s.ch c).ring f r).fetch ≠ (s.ch c).ringProd f r → (s.ch c).ringKind f r = 0 →
    (dmaParse (s.ch c) 0 ((s.ch c).ring f r).fetch d).2 = true → ((s.ch c).ring f r).items = [] →
    (s.ch c).settled (dmaMaster f) (dmaParse (s.ch c) 0 ((s.ch c).ring f r).fetch d).1.saddr
      (dmaParse (s.ch c) 0 ((s.ch c).ring f r).fetch d).1.len true ≠ .refused → ((s.ch c).ring f r).wait = [] →
    ∃ t, Sys2Proof.Machine.exec (.dmaDescriptorFetch c f r (some d)) s = .next t ∧
      Told ((t.ch c).ring f r).items = Told [{ (dmaParse (s.ch c) 0 ((s.ch c).ring f r).fetch d).1 with
        retries := ((s.ch c).ring f r).tries, started := true }] ∧ (t.ch c).ringStopped f r = false) ∧
  (∀ (s : State) (c : Ch) (f r : Fin 8) (it : DmaItem) (bs : List Byte), (s.ch c).live pgDMA = true →
    (s.ch c).readingItem f r = some it → it.asked = it.len → bs.length = it.len - it.done → it.done < it.len →
    (s.ch c).ecc = Ecc.reset → (s.ch c).grant (dmaMaster f) (it.saddr + it.done) bs.length true = .ok →
    ∃ t, Sys2Proof.Machine.exec (.dmaReadCompletion c f r (.data bs)) s = .next t ∧
      (t.ch c).sram = (s.ch c).sram.write (it.saddr + it.done) (bs.map some) ∧
      Told ((t.ch c).ring f r).items = Told (onFirst DmaItem.reading
        (fun x => { x with done := it.len, tries := 0, outcome := some stOK }) ((s.ch c).ring f r).items)) ∧
  (∀ (s : State) (c : Ch) (f r : Fin 8) (it : DmaItem), (s.ch c).live pgDMA = true →
    (s.ch c).readingItem f r = some it → ∀ e ∈ [ReadResult.ur, .ca, .poison],
    ∃ t, Sys2Proof.Machine.exec (.dmaReadCompletion c f r e) s = .next t ∧ (t.ch c).sram = (s.ch c).sram ∧
      Told ((t.ch c).ring f r).items = Told (onFirst DmaItem.reading (fun x => { x with outcome := some stABORTED })
        ((s.ch c).ring f r).items)) ∧
  (∀ (s : State) (c : Ch) (f r : Fin 8) (it : DmaItem), (s.ch c).live pgDMA = true →
    (s.ch c).readingItem f r = some it → it.done < it.asked →
    ∃ t, Sys2Proof.Machine.exec (.dmaCompletionTimeout c f ⟨r, false⟩) s = .next t ∧ (t.ch c).sram = (s.ch c).sram ∧
      Told ((t.ch c).ring f r).items = Told (onFirst DmaItem.reading
        (fun x => if it.tries < ((s.ch c).reg pgDMA 0x040).field 0 2 then
            { x with tries := x.tries + 1, retries := x.retries + 1 }
          else { x with outcome := some stABORTED }) ((s.ch c).ring f r).items)) ∧
  (∀ (s : State) (c : Ch) (f r : Fin 8), (s.ch c).ringLive f r = true → (s.node c).canIssue f = true →
    ((s.ch c).ring f r).fetch ≠ (s.ch c).ringProd f r →
    ∃ t, Sys2Proof.Machine.exec (.dmaCompletionTimeout c f ⟨r, true⟩) s = .next t ∧ (t.ch c).sram = (s.ch c).sram ∧
      if ((s.ch c).ring f r).tries < ((s.ch c).reg pgDMA 0x040).field 0 2 then
        ((t.ch c).ring f r).tries = ((s.ch c).ring f r).tries + 1 ∧ (t.ch c).ringStopped f r = false ∧
        ∃ l, t.dev.host.upstream = s.dev.host.upstream ++ (s.node c).fetchReq f r :: l
      else (t.ch c).ringStopped f r = true) ∧
  (∀ (s : State) (c : Ch) (f r : Fin 8) (idx : Nat), (s.ch c).boot = .run →
    ∃ t, Sys2Proof.Machine.exec (.dmaDeadline c f r idx) s = .next t ∧
      ((t.ch c).ring f r).items = ((s.ch c).ring f r).items.map fun it =>
        if it.idx = idx ∧ it.outcome = none ∧ (s.ch c).due it.fire = true then { it with outcome := some stTIMEOUT } else it) ∧
  (∀ (s : State) (c : Ch) (f r : Fin 8) (it : DmaItem) (rest : List DmaItem) (st : Byte), (s.ch c).live pgDMA = true →
    ((s.ch c).ring f r).items = it :: rest → it.outcome = some st →
    ∃ t, Sys2Proof.Machine.exec (.dmaItemCompletion c f r) s = .next t ∧
      (rest = [] → ((t.ch c).ring f r).items = []) ∧
      (t.ch c).ringCons f r = ((it.idx + 1) % (s.ch c).ringSize f r) % 4096 ∧
      (it.irq = true → ((t.ch c).reg pgDMA (dmaB f r + 0x1C)).bit 1 = true) ∧
      ∃ l, t.dev.host.upstream = s.dev.host.upstream ++ .write (chFn c f)
        (((s.ch c).reg pgDMA (dmaB f r + 0x0C)).toNat * 2 ^ 32 + ((s.ch c).reg pgDMA (dmaB f r + 0x08)).toNat + 16 * it.idx)
        (dmaRecord it ((s.ch c).ring f r).phase st) false :: l) ∧
  (∀ (s : State) (c : Ch) (f r : Fin 8) (idx : Nat), (s.ch c).boot ≠ .run →
    Sys2Proof.Machine.exec (.dmaDeadline c f r idx) s = .next s) ∧
  (∀ (s : State) (c : Ch) (f r : Fin 8) (d : Option (List Byte)) (e : ReadResult) (b : Bool), (s.ch c).live pgDMA = false →
    ∀ i ∈ [Instr.dmaDescriptorFetch c f r d, .dmaReadCompletion c f r e, .dmaCompletionTimeout c f ⟨r, b⟩,
      .dmaItemCompletion c f r],
    ∃ t, Sys2Proof.Machine.exec i s = .next t ∧ t.ch c = s.ch c)

/-! ## Time base and whistle (02, 18) -/

/-- The whistle: a boundary that is due, and a STEP while EN is 0, add one to WHISTLE_COUNT, latch TIME_NOW in WHISTLE_TIME, close
the tick (LEDGER_LAST is what it was charged, LEDGER_USED starts from zero, the cause of an overrun is kept) and set the WHISTLE
event. A boundary that is not due changes nothing; a STEP while EN is 1 is refused with STATE and no whistle fires (02 R47, R49,
R53). -/
def Obligations.WhistleFires : Prop :=
  (∀ (s : State) (c : Ch), (s.ch c).whistleDue = true →
    ∃ t, Sys2Proof.Machine.exec (.whistle c) s = .next t ∧ (t.ch c).wh.count = (s.ch c).wh.count + 1 ∧
      (t.ch c).wh.time = (s.ch c).now ∧ (t.ch c).led.used = 0 ∧ (t.ch c).led.last = (s.ch c).led.used + (s.ch c).led.debt ∧
      (t.ch c).led.done = false ∧ (t.ch c).led.cause = (s.ch c).led.judge ∧ ((t.ch c).reg pgWHISTLE 0x014).bit 0 = true) ∧
  (∀ (s : State) (snd : Sender) (c : Ch) (v : Word), s.reaches snd c → Own snd → Free s c pgWHISTLE →
    (s.ch c).whistleEn = false →
    ∃ t, Sys2Proof.Machine.exec (.whistleStep snd c v) s = .next t ∧ (t.ch c).wh.count = (s.ch c).wh.count + 1 ∧
      (t.ch c).wh.time = (s.ch c).now ∧ (t.ch c).led.used = 0 ∧ (t.ch c).led.last = (s.ch c).led.used + (s.ch c).led.debt ∧
      (t.ch c).led.done = false ∧ (t.ch c).led.cause = (s.ch c).led.judge ∧ ((t.ch c).reg pgWHISTLE 0x014).bit 0 = true) ∧
  (∀ (s : State) (c : Ch), (s.ch c).whistleDue = false → Sys2Proof.Machine.exec (.whistle c) s = .next s) ∧
  (∀ (s : State) (snd : Sender) (c : Ch) (v : Word), s.reaches snd c → Own snd → Free s c pgWHISTLE →
    (s.ch c).whistleEn = true →
    ∃ t, Sys2Proof.Machine.exec (.whistleStep snd c v) s = .next t ∧ (t.ch c).wh.count = (s.ch c).wh.count ∧
      (t.ch c).wh.time = (s.ch c).wh.time ∧ Recorded (s.ch c) (t.ch c) pgWHISTLE cSTATE snd.id (regAddr pgWHISTLE 0x040))

/-- WHISTLE_CTRL without STEP: EN and ABANDON are written, and EN from 0 to 1 places the next whistle at the first boundary above
TIME_NOW, counted from where a changed period has anchored the boundaries, else from PHASE; REALIGN is remembered; ARMALL arms
the pages with a written shadow set; a write with STEP, REALIGN or ARMALL is one write of the register with that bit set. ARM of
PG_SHADOW arms its page, on a page without a shadow set it changes nothing; LEDGER_MARK sets the done mark (02 R43, R48, R52, R53,
R58, R67). -/
def Obligations.WhistleControls : Prop :=
  (∀ (s : State) (snd : Sender) (c : Ch) (v : Word), s.reaches snd c → Own snd → Free s c pgWHISTLE →
    v.bit 2 = false → v.bit 3 = false → v.bit 4 = false → (s.ch c).whistleEn = true ∨ v.bit 0 = false →
    Sys2Proof.Machine.exec (.whistleEn snd c v) s = .next (s.setCh c ((s.ch c).setReg pgWHISTLE 0x040
      (((s.ch c).reg pgWHISTLE 0x040).setField 0 2 (v.field 0 2))))) ∧
  (∀ (s : State) (snd : Sender) (c : Ch) (v : Word), s.reaches snd c → Own snd → Free s c pgWHISTLE →
    v.bit 2 = false → v.bit 3 = false → v.bit 4 = false → (s.ch c).whistleEn = false → v.bit 0 = true →
    Sys2Proof.Machine.exec (.whistleEn snd c v) s = .next (s.setCh c
      { (s.ch c).setReg pgWHISTLE 0x040 (((s.ch c).reg pgWHISTLE 0x040).setField 0 2 (v.field 0 2)) with
        wh := { (s.ch c).wh with
          next := boundaryAfter ((s.ch c).wh.anchor.getD (s.ch c).phase) (s.ch c).period (s.ch c).nowNs, slipNow := false } })) ∧
  (∀ (s : State) (snd : Sender) (c : Ch) (v : Word),
    Sys2Proof.Machine.exec (.whistleStep snd c v) s = Sys2Proof.Machine.exec (.whistleEn snd c (v.setBit 2 true)) s ∧
    Sys2Proof.Machine.exec (.realign snd c v) s = Sys2Proof.Machine.exec (.whistleEn snd c (v.setBit 3 true)) s ∧
    Sys2Proof.Machine.exec (.armall snd c v) s = Sys2Proof.Machine.exec (.whistleEn snd c (v.setBit 4 true)) s) ∧
  (∀ (phase period now : Nat), 0 < period → now < boundaryAfter phase period now ∧
    (period : Int) ∣ (boundaryAfter phase period now : Int) - phase) ∧
  (∀ (s : State) (snd : Sender) (c : Ch) (v : Word), s.reaches snd c → Own snd → Free s c pgWHISTLE →
    v.bit 2 = false → v.bit 4 = false → (s.ch c).whistleEn = true ∨ v.bit 0 = false →
    Sys2Proof.Machine.exec (.realign snd c v) s = .next (s.setCh c
      { (s.ch c).setReg pgWHISTLE 0x040 (((s.ch c).reg pgWHISTLE 0x040).setField 0 2 (v.field 0 2)) with
        wh := { (s.ch c).wh with realign := true } })) ∧
  (∀ (s : State) (snd : Sender) (c : Ch) (v : Word), s.reaches snd c → Own snd → Free s c pgWHISTLE →
    v.bit 2 = false → v.bit 4 = false → (s.ch c).whistleEn = false → v.bit 0 = true →
    ∃ t, Sys2Proof.Machine.exec (.realign snd c v) s = .next t ∧ (t.ch c).wh.realign = true ∧ (t.ch c).whistleEn = true ∧
      (0 < (s.ch c).period → (t.ch c).nowNs < (t.ch c).wh.next) ∧ t.dev = s.dev) ∧
  (∀ (s : State) (snd : Sender) (c : Ch) (v : Word), s.reaches snd c → Own snd → Free s c pgWHISTLE → v.bit 2 = false →
    ∃ t, Sys2Proof.Machine.exec (.armall snd c v) s = .next t ∧ (t.ch c).wh.count = (s.ch c).wh.count ∧
      (t.ch c).sram = (s.ch c).sram ∧ ∀ p ∈ shadowedPages, ((t.ch c).reg p 0x01C).bit 0 =
        (((s.ch c).reg p 0x01C).bit 0 || ((s.ch c).reg p 0x01C).bit 2)) ∧
  (∀ (s : State) (snd : Sender) (c : Ch) (page : Nat) (v : Word), s.reaches snd c → Own snd → page ∈ shadowedPages →
    ∃ t, Sys2Proof.Machine.exec (.arm snd c page v) s = .next t ∧ RegsOnly (s.ch c) (t.ch c) ∧
      ((t.ch c).reg page 0x01C).bit 0 = true ∧ ((t.ch c).reg page 0x01C).bit 1 = v.bit 1 ∧
      ∀ p o, regKey p o ≠ regKey page 0x01C → (t.ch c).reg p o = (s.ch c).reg p o) ∧
  (∀ (s : State) (snd : Sender) (c : Ch) (page : Nat) (v : Word), s.reaches snd c → Own snd → page ∈ chanPages →
    page ∉ shadowedPages → Sys2Proof.Machine.exec (.arm snd c page v) s = .next s) ∧
  (∀ (s : State) (snd : Sender) (c : Ch) (v : Word), s.reaches snd c → Own snd → Free s c pgWHISTLE →
    Sys2Proof.Machine.exec (.ledgerMark snd c v) s =
      .next (s.setCh c { s.ch c with led := { (s.ch c).led with done := true } }))

/-- Setting the time base: TIME_ADJ adds its signed nanoseconds, TIME_NOW_HI sets the written and the staged word, TIME_NOW_LO
stages. The boundaries count from PHASE again; while EN is 0 nothing else of the whistle moves, and while EN is 1 the next whistle
lies above TIME_NOW at a distance from PHASE of a whole number of PERIODs (02 R43, R48, R58, R68). -/
def Obligations.TimeBaseWrites : Prop :=
  (∀ (s : State) (snd : Sender) (c : Ch) (v : Word), s.reaches snd c → Own snd → Free s c pgTIME →
    ∃ t, Sys2Proof.Machine.exec (.timeAdjWrite snd c v) s = .next t ∧
      (t.ch c).tb.acc = (s.ch c).tb.acc + BitVec.ofInt 88 (v.toInt * (tbUnit : Int)) ∧
      (t.ch c).regs = (s.ch c).regs ∧ (t.ch c).sram = (s.ch c).sram ∧
      ((s.ch c).whistleEn = false → (t.ch c).wh = { (s.ch c).wh with anchor := none }) ∧
      ((s.ch c).whistleEn = true → 0 < (s.ch c).period → (t.ch c).nowNs < (t.ch c).wh.next ∧
        ((s.ch c).period : Int) ∣ ((t.ch c).wh.next : Int) - (s.ch c).phase)) ∧
  (∀ (s : State) (snd : Sender) (c : Ch) (v : Word), s.reaches snd c → Own snd → Free s c pgTIME →
    ∃ t, Sys2Proof.Machine.exec (.timeNowHiWrite snd c v) s = .next t ∧
      (t.ch c).tb.acc = BitVec.ofNat 88 ((v.toNat * 2 ^ 32 + (s.ch c).tb.stage.toNat) * tbUnit) ∧
      (t.ch c).regs = (s.ch c).regs ∧ (t.ch c).sram = (s.ch c).sram ∧
      ((s.ch c).whistleEn = false → (t.ch c).wh = { (s.ch c).wh with anchor := none }) ∧
      ((s.ch c).whistleEn = true → 0 < (s.ch c).period → (t.ch c).nowNs < (t.ch c).wh.next ∧
        ((s.ch c).period : Int) ∣ ((t.ch c).wh.next : Int) - (s.ch c).phase)) ∧
  (∀ (s : State) (snd : Sender) (c : Ch) (v : Word), s.reaches snd c → Own snd → Free s c pgTIME →
    Sys2Proof.Machine.exec (.timeNowLoWrite snd c v) s =
      .next (s.setCh c { s.ch c with tb := { (s.ch c).tb with stage := v } }))

/-- A read of a low word latches the high word beside it and answers the low word: TIME_NOW, WHISTLE_COUNT, WHISTLE_TIME,
TIME_PPSIN and a CAN controller's TTMARK; nothing else of the channel changes, and a host function, the PF or PF4 under its grant,
gets the low word (01 R38, 02 R67, R68, 14 R387, 18 R510). -/
def Obligations.LatchedReads : Prop :=
  (∀ (s : State) (c : Ch), (s.ch c).boot = .run → Free s c pgTIME → Free s c pgWHISTLE →
    Sys2Proof.Machine.exec (.timeNowLoRead .rook c) s = .next (s.setCh c
      { s.ch c with tb := { (s.ch c).tb with nowHi := BitVec.ofNat 32 ((s.ch c).now.toNat / 2 ^ 32) } }) ∧
    Sys2Proof.Machine.exec (.timePpsinLoRead .rook c) s = .next (s.setCh c
      { s.ch c with tb := { (s.ch c).tb with ppsHi := BitVec.ofNat 32 ((s.ch c).tb.ppsIn.toNat / 2 ^ 32) } }) ∧
    Sys2Proof.Machine.exec (.whistleCountLoRead .rook c) s = .next (s.setCh c
      { s.ch c with wh := { (s.ch c).wh with countHi := BitVec.ofNat 32 ((s.ch c).wh.count.toNat / 2 ^ 32) } }) ∧
    Sys2Proof.Machine.exec (.whistleTimeLoRead .rook c) s = .next (s.setCh c
      { s.ch c with wh := { (s.ch c).wh with timeHi := BitVec.ofNat 32 ((s.ch c).wh.time.toNat / 2 ^ 32) } })) ∧
  (∀ (s : State) (c : Ch) (u : Unit2), (s.ch c).boot = .run → Free s c (pgCan u) →
    Sys2Proof.Machine.exec (.ttmarkLoRead .rook c u) s = .next (s.setCh c ((s.ch c).setCan u
      { (s.ch c).can u with ttHi := BitVec.ofNat 32 (((s.ch c).can u).ttMark.toNat / 2 ^ 32) }))) ∧
  (∀ (s : State) (snd : Sender) (c : Ch), s.reaches snd c → snd = .pf ∨ (snd = .pf4 ∧ (s.ch c).granted = true) →
    (Free s c pgTIME → (∃ t, Sys2Proof.Machine.exec (.timeNowLoRead snd c) s = .next t ∧
        t.ch c = { s.ch c with tb := { (s.ch c).tb with nowHi := BitVec.ofNat 32 ((s.ch c).now.toNat / 2 ^ 32) } } ∧
        Answered s t (senderFn snd c) (.inl (bytesLE 4 (BitVec.ofNat 32 (s.ch c).now.toNat).toNat))) ∧
      ∃ t, Sys2Proof.Machine.exec (.timePpsinLoRead snd c) s = .next t ∧
        t.ch c = { s.ch c with tb := { (s.ch c).tb with ppsHi := BitVec.ofNat 32 ((s.ch c).tb.ppsIn.toNat / 2 ^ 32) } } ∧
        Answered s t (senderFn snd c) (.inl (bytesLE 4 (BitVec.ofNat 32 (s.ch c).tb.ppsIn.toNat).toNat))) ∧
    (Free s c pgWHISTLE → (∃ t, Sys2Proof.Machine.exec (.whistleCountLoRead snd c) s = .next t ∧
        t.ch c = { s.ch c with wh := { (s.ch c).wh with countHi := BitVec.ofNat 32 ((s.ch c).wh.count.toNat / 2 ^ 32) } } ∧
        Answered s t (senderFn snd c) (.inl (bytesLE 4 ((s.ch c).wh.count.setWidth 32).toNat))) ∧
      ∃ t, Sys2Proof.Machine.exec (.whistleTimeLoRead snd c) s = .next t ∧
        t.ch c = { s.ch c with wh := { (s.ch c).wh with timeHi := BitVec.ofNat 32 ((s.ch c).wh.time.toNat / 2 ^ 32) } } ∧
        Answered s t (senderFn snd c) (.inl (bytesLE 4 ((s.ch c).wh.time.setWidth 32).toNat))) ∧
    ∀ u : Unit2, Free s c (pgCan u) → ∃ t, Sys2Proof.Machine.exec (.ttmarkLoRead snd c u) s = .next t ∧
        t.ch c = (s.ch c).setCan u
          { (s.ch c).can u with ttHi := BitVec.ofNat 32 (((s.ch c).can u).ttMark.toNat / 2 ^ 32) } ∧
        Answered s t (senderFn snd c) (.inl (bytesLE 4 (((s.ch c).can u).ttMark.setWidth 32).toNat)))

/-- The servo: SRC 0 or 5 frees it, a new source 1 to 4 starts acquiring, the same source written again leaves it, a reserved SRC is
rejected with RSVD. A reference event of the selected source that can feed it (a CAN controller only as time slave) and is within
1 µs while acquiring corrects the rate to a value within ±500 ppm that is free (log entry 4); one further off steps the time base by its
error; in the window it counts as good, and the fourth good one locks with EVT_TIME_LOCK; outside it the count starts over. After
holdover the first event acquires anew. An expected instant missed is counted, and the third ends in holdover with
EVT_TIME_UNLOCK. 1PPS: an edge of the selected sense is stamped 5 ns early and raises EVT_TIME_PPS, and with source 1 goes to the
servo; the output rises at a whole second it has not risen at and falls WIDTH milliseconds later; no other state moves. What is
none of these changes nothing (02 R44, R45, 14 R387, 18 R486, R498). -/
def Obligations.TimeServoAndPps : Prop :=
  (∀ (s : State) (snd : Sender) (c : Ch) (v : Word), s.reaches snd c → Own snd → Free s c pgTIME →
    (v.field 0 3 = 0 ∨ v.field 0 3 = 5) →
    ∃ t, Sys2Proof.Machine.exec (.timeCtrlWrite snd c v) s = .next t ∧ (t.ch c).tb.lock = .free ∧
      (t.ch c).timeSrc = v.field 0 3 ∧ (t.ch c).tb.acc = (s.ch c).tb.acc) ∧
  (∀ (s : State) (snd : Sender) (c : Ch) (v : Word), s.reaches snd c → Own snd → Free s c pgTIME →
    1 ≤ v.field 0 3 → v.field 0 3 ≤ 4 → v.field 0 3 ≠ (s.ch c).timeSrc →
    ∃ t, Sys2Proof.Machine.exec (.timeCtrlWrite snd c v) s = .next t ∧ (t.ch c).tb.lock = .acquiring ∧
      (t.ch c).tb.good = 0 ∧ (t.ch c).tb.missed = 0 ∧ (t.ch c).timeSrc = v.field 0 3 ∧ (t.ch c).tb.acc = (s.ch c).tb.acc) ∧
  (∀ (s : State) (snd : Sender) (c : Ch) (v : Word), s.reaches snd c → Own snd → Free s c pgTIME →
    1 ≤ v.field 0 3 → v.field 0 3 ≤ 4 → v.field 0 3 = (s.ch c).timeSrc →
    ∃ t, Sys2Proof.Machine.exec (.timeCtrlWrite snd c v) s = .next t ∧ (t.ch c).tb = (s.ch c).tb ∧
      (t.ch c).timeSrc = (s.ch c).timeSrc) ∧
  (∀ (s : State) (snd : Sender) (c : Ch) (v : Word), s.reaches snd c → Own snd → Free s c pgTIME → 5 < v.field 0 3 →
    ∃ t, Sys2Proof.Machine.exec (.timeCtrlWrite snd c v) s = .next t ∧ (t.ch c).timeSrc = (s.ch c).timeSrc ∧
      Recorded (s.ch c) (t.ch c) pgTIME cRSVD snd.id (regAddr pgTIME 0x040)) ∧
  (∀ (s : State) (c : Ch) (src : Nat) (stamp : DWord), (s.ch c).clocked = true → (s.ch c).servoOn = true →
    (s.ch c).timeSrc = src → (s.ch c).refSource src = true →
    ((s.ch c).tb.lock = .locked ∨ ((s.ch c).tb.lock = .acquiring ∧
      (servoError (s.ch c).lockOfs (s.ch c).lockInt stamp.toNat).natAbs ≤ 1000)) →
    ∃ t, Sys2Proof.Machine.exec (.servoReferenceEvent c src stamp) s = .next t ∧
      0x027FAE15 ≤ ((t.ch c).reg pgTIME 0x044).toNat ∧ ((t.ch c).reg pgTIME 0x044).toNat ≤ 0x028051EB ∧
      (t.ch c).tb.acc = (s.ch c).tb.acc ∧ t.freeCtr = s.freeCtr + 1 ∧
      (t.ch c).reg pgTIME 0x064 = clampWord (servoError (s.ch c).lockOfs (s.ch c).lockInt stamp.toNat) ∧
      (if (servoError (s.ch c).lockOfs (s.ch c).lockInt stamp.toNat).natAbs ≤ (s.ch c).lockWin then
        (t.ch c).tb.good = min 4 ((s.ch c).tb.good + 1) ∧ (t.ch c).tb.missed = 0 ∧
        ((t.ch c).tb.lock = .locked ↔ (s.ch c).tb.lock = .locked ∨ 3 ≤ (s.ch c).tb.good) ∧
        ((s.ch c).tb.lock = .acquiring → 3 ≤ (s.ch c).tb.good → ((t.ch c).reg pgTIME 0x014).bit 0 = true)
       else (t.ch c).tb.good = 0 ∧ (t.ch c).tb.lock = (s.ch c).tb.lock)) ∧
  (∀ (s : State) (c : Ch) (src : Nat) (stamp : DWord), (s.ch c).clocked = true → (s.ch c).servoOn = true →
    (s.ch c).timeSrc = src → (s.ch c).refSource src = true →
    (s.ch c).tb.lock = .acquiring ∨ (s.ch c).tb.lock = .holdover →
    1000 < (servoError (s.ch c).lockOfs (s.ch c).lockInt stamp.toNat).natAbs →
    ∃ t, Sys2Proof.Machine.exec (.servoReferenceEvent c src stamp) s = .next t ∧ t.freeCtr = s.freeCtr ∧
      (t.ch c).tb.acc = (s.ch c).tb.acc -
        BitVec.ofInt 88 (servoError (s.ch c).lockOfs (s.ch c).lockInt stamp.toNat * (tbUnit : Int)) ∧
      (t.ch c).reg pgTIME 0x044 = (s.ch c).reg pgTIME 0x044) ∧
  (∀ (s : State) (c : Ch) (src : Nat) (stamp : DWord), (s.ch c).clocked = true → (s.ch c).servoOn = true →
    (s.ch c).timeSrc = src → (s.ch c).refSource src = true → (s.ch c).tb.lock = .holdover →
    ∃ t, Sys2Proof.Machine.exec (.servoReferenceEvent c src stamp) s = .next t ∧ (t.ch c).tb.lock = .acquiring ∧
      (t.ch c).tb.good ≤ 1 ∧ (t.ch c).tb.missed = 0) ∧
  (∀ (s : State) (c : Ch) (src : Nat) (stamp : DWord), (s.ch c).clocked = false ∨ (s.ch c).refSource src = false ∨
    (s.ch c).servoOn = false ∨ (s.ch c).timeSrc ≠ src →
    Sys2Proof.Machine.exec (.servoReferenceEvent c src stamp) s = .next s) ∧
  (∀ (s : State) (c : Ch), (s.ch c).clocked = true → (s.ch c).servoOn = true →
    ((s.ch c).tb.lock = .acquiring ∨ (s.ch c).tb.lock = .locked) →
    (s.ch c).tb.instant + (s.ch c).lockInt / 2 < (s.ch c).nowNs →
    ∃ t, Sys2Proof.Machine.exec (.referenceInstantMissed c) s = .next t ∧
      (t.ch c).tb.missed = (s.ch c).tb.missed + 1 ∧ (t.ch c).tb.instant = (s.ch c).tb.instant + (s.ch c).lockInt ∧
      (t.ch c).tb.lock = (if (s.ch c).tb.missed + 1 < 3 then (s.ch c).tb.lock else .holdover) ∧
      (3 ≤ (s.ch c).tb.missed + 1 → ((t.ch c).reg pgWHISTLE 0x014).bit 0 = ((s.ch c).reg pgWHISTLE 0x014).bit 0 ∧
        ((t.ch c).reg pgTIME 0x014).bit 1 = true)) ∧
  (∀ (s : State) (c : Ch), (s.ch c).clocked = false ∨ (s.ch c).servoOn = false ∨ (s.ch c).tb.lock = .free ∨
    (s.ch c).tb.lock = .holdover ∨ (s.ch c).nowNs ≤ (s.ch c).tb.instant + (s.ch c).lockInt / 2 →
    Sys2Proof.Machine.exec (.referenceInstantMissed c) s = .next s) ∧
  (∀ (s : State) (c : Ch) (rising : Bool), (s.ch c).clocked = true → ((s.ch c).reg pgTIME 0x070).bit 1 = true →
    rising = !((s.ch c).reg pgTIME 0x070).bit 2 → rising = false ∨ (s.node c).fieldUp = true →
    ∃ t, Sys2Proof.Machine.exec (.ppsInEdge c rising) s = .next t ∧ (t.ch c).tb.ppsIn = (s.ch c).now - 5 ∧
      ((t.ch c).reg pgTIME 0x014).bit 2 = true ∧
      ((s.ch c).timeSrc ≠ 1 → (t.ch c).tb = { (s.ch c).tb with ppsIn := (s.ch c).now - 5 } ∧
        RegsOnly { s.ch c with tb := (t.ch c).tb } (t.ch c)) ∧
      ((s.ch c).timeSrc = 1 → (t.ch c).reg pgTIME 0x064 =
        clampWord (servoError (s.ch c).lockOfs (s.ch c).lockInt ((s.ch c).now - 5).toNat))) ∧
  (∀ (s : State) (c : Ch) (rising : Bool), (s.ch c).clocked = false ∨ ((s.ch c).reg pgTIME 0x070).bit 1 = false ∨
    rising = ((s.ch c).reg pgTIME 0x070).bit 2 ∨ (rising = true ∧ (s.node c).fieldUp = false) →
    Sys2Proof.Machine.exec (.ppsInEdge c rising) s = .next s) ∧
  (∀ (s : State) (c : Ch), (s.ch c).clocked = true → (s.ch c).ppsEn = true → (s.ch c).tb.ppsOut = false →
    (s.ch c).tb.ppsRise < (s.ch c).second →
    Sys2Proof.Machine.exec (.ppsOutRise c) s = .next (s.setCh c
      { s.ch c with tb := { (s.ch c).tb with ppsOut := true, ppsRise := (s.ch c).second } })) ∧
  (∀ (s : State) (c : Ch), (s.ch c).clocked = true → (s.ch c).tb.ppsOut = true →
    (s.ch c).tb.ppsRise + ((s.ch c).reg pgTIME 0x070).field 8 8 * 1000000 ≤ (s.ch c).nowNs →
    Sys2Proof.Machine.exec (.ppsOutFall c) s = .next (s.setCh c { s.ch c with tb := { (s.ch c).tb with ppsOut := false } })) ∧
  (∀ (s : State) (c : Ch),
    ((s.ch c).clocked = false ∨ (s.ch c).ppsEn = false ∨ (s.ch c).tb.ppsOut = true ∨ (s.ch c).second ≤ (s.ch c).tb.ppsRise →
      Sys2Proof.Machine.exec (.ppsOutRise c) s = .next s) ∧
    ((s.ch c).clocked = false ∨ (s.ch c).tb.ppsOut = false ∨
      (s.ch c).nowNs < (s.ch c).tb.ppsRise + ((s.ch c).reg pgTIME 0x070).field 8 8 * 1000000 →
      Sys2Proof.Machine.exec (.ppsOutFall c) s = .next s))

/-! ## The Rook (07, 08) -/

namespace Sys2Proof.Claims

/-- A channel's Rook after entry: the frame pushed, the entry record below SP in DTCM, PSW, SP, FP and PC of 07 R208. -/
def Entered (k k' : Channel) (cause code addr : Nat) (impr : Bool) : Prop :=
  let rcd := (k.rook.sp - 32).toNat
  let fs := k.rook.toSpill 64
  k'.rook.exl = true ∧ k'.rook.ie = false ∧ k'.rook.cm = (k.reg pgROOKDBG 0x050).bit 0 ∧
  k'.rook.pc = BitVec.ofNat 32 ((k.reg pgROOKDBG 0x050).toNat / 0x400 * 0x400 + 64 * cause) ∧
  k'.rook.sp = k.rook.sp - 32 ∧ k'.rook.fp = k.rook.sp - 32 ∧ k'.rook.wb = k.rook.wb + 64 ∧
  k'.rook.resbase = k.rook.resbase + fs.sum ∧ k'.rook.spillPtr = k.rook.spillPtr + BitVec.ofNat 32 (16 * fs.sum) ∧
  k'.rook.file = k.rook.file ∧ k'.rook.link = k.rook.link ∧ k'.rook.sb = k.rook.sb ∧ k'.rook.fatal = false ∧
  k'.dtcm.read rcd 32 = entryRecord k.rook.here k.rook.fp k.rook.psw k.rook.wb cause code impr addr ∧
  (∀ a, (a < rcd ∨ rcd + 32 ≤ a) → (a < k.rook.spillPtr.toNat ∨ k.rook.spillPtr.toNat + 16 * fs.sum ≤ a) →
    k'.dtcm.get a = k.dtcm.get a) ∧
  k'.sram = k.sram ∧ k'.iram = k.iram ∧ k'.regs = k.regs

/-- The entry record and the spill of an entry lie in DTCM, which holds no upset. -/
abbrev EntryFits (k : Channel) : Prop :=
  k.ecc = Ecc.reset ∧ inDtcm (k.rook.sp - 32).toNat 32 = true ∧
  inDtcm k.rook.spillPtr.toNat (16 * (k.rook.toSpill 64).sum) = true

/-- The Rook stands between bundles with no debug step or halt waiting. -/
abbrev Quiet (r : Rook) : Prop := r.step = false ∧ r.haltReq = false

/-- The Rook after a bundle of `len` syllables that goes on to the next. -/
def nextBundle (r : Rook) (len : Nat) : Rook :=
  { r with pc := BitVec.ofNat 32 (r.pc.toNat + 4 * len), lastPc := r.pc, lastCm := r.cm, issued := [], loadTick := none,
           waiting := false, bpSkip := false }

/-- The address of a load or store, or of a jump through a register. -/
abbrev target (r : Rook) (ra off : Nat) : Nat := (r.low ra + off) % 2 ^ 32

/-- Where a call or a jump of the Rook leads: the target of each form, and the CM it sets. -/
def goesTo (r : Rook) (a : Nat) : Op → Option (Nat × Bool)
  | .j off | .call off => some ((a + 4 * off) % 2 ^ 32 / 4 * 4, r.cm)
  | .bz rt off => some (if isZero (r.get rt) then (a + 4 * off) % 2 ^ 32 / 4 * 4 else a + 4, r.cm)
  | .bnz rt off => some (if isZero (r.get rt) then a + 4 else (a + 4 * off) % 2 ^ 32 / 4 * 4, r.cm)
  | .jr ra | .callr ra => some (r.low ra % 2 ^ 32 / 4 * 4, r.cm)
  | .jmpx ra | .callx ra => some (r.low ra % 2 ^ 32 / 4 * 4, r.low ra % 2 = 1)
  | _ => none

end Sys2Proof.Claims

/-- A bundle that issues is charged to the ledger. One of data operations writes their results, each computed from the registers as
they were before the bundle, and goes on to the next bundle; a branch or jump goes to its target and JMPX sets CM; MTS writes a special
register, ISYNC lets stores to IRAM be fetched, WAIT waits where no event is pending, BRK halts where debugging is enabled. A store
to DTCM or IRAM writes its bytes, one to the fabric joins the store buffer, one to LEDGER_MARK sets the done mark at once; a load
from DTCM or IRAM writes its register; a fabric load leaves the bundle issued; a watchpoint halts behind the bundle. Where no bundle
may issue nothing changes, and a breakpoint halts before it (07 R200, R206, R209, R210, R211, R212, R225, 08 R231, R233, R235, R237,
R244). -/
def Obligations.BundlesIssue : Prop :=
  (∀ (s : State) (c : Ch) (ws : List Word) (ops : List Op), (s.node c).boundary = .issue ws ops → Quiet (s.ch c).rook →
    (s.ch c).ecc = Ecc.reset → (∀ o ∈ ops, o = .nop ∨ o = .fence ∨ ((s.ch c).rook.alu o).isSome = true) →
    Sys2Proof.Machine.exec (.bundleIssue c) s = .next (s.setCh c { s.ch c with
      led := (s.ch c).led.bundle,
      rook := nextBundle ((ops.filterMap (s.ch c).rook.alu).foldl (fun r v => r.set v.1 v.2) (s.ch c).rook) ops.length })) ∧
  (∀ (s : State) (c : Ch) (ws : List Word) (off : Nat), (s.node c).boundary = .issue ws [.j off] → Quiet (s.ch c).rook →
    (s.ch c).ecc = Ecc.reset →
    Sys2Proof.Machine.exec (.bundleIssue c) s = .next (s.setCh c { s.ch c with
      led := (s.ch c).led.bundle,
      rook := { nextBundle (s.ch c).rook 1 with
        pc := BitVec.ofNat 32 (((s.ch c).rook.pc.toNat + 4 * off) % 2 ^ 32 / 4 * 4) } })) ∧
  (∀ (s : State) (c : Ch) (ws : List Word) (o : Op) (pc : Nat) (cm : Bool), (s.node c).boundary = .issue ws [o] →
    Quiet (s.ch c).rook → (s.ch c).ecc = Ecc.reset →
    (∃ rt off ra, o = .bz rt off ∨ o = .bnz rt off ∨ o = .j off ∨ o = .jr ra ∨ o = .jmpx ra) →
    goesTo (s.ch c).rook (s.ch c).rook.pc.toNat o = some (pc, cm) →
    Sys2Proof.Machine.exec (.bundleIssue c) s = .next (s.setCh c { s.ch c with
      led := (s.ch c).led.bundle, rook := { nextBundle (s.ch c).rook 1 with pc := BitVec.ofNat 32 pc, cm := cm } })) ∧
  (∀ (s : State) (c : Ch) (ws : List Word), Quiet (s.ch c).rook → (s.ch c).ecc = Ecc.reset →
    (∀ x ra, (s.node c).boundary = .issue ws [.mts x ra] →
      Sys2Proof.Machine.exec (.bundleIssue c) s = .next (s.setCh c { s.ch c with
        led := (s.ch c).led.bundle,
        rook := (nextBundle (s.ch c).rook 1).writeSpecial x ((s.ch c).rook.low ra) })) ∧
    ((s.node c).boundary = .issue ws [.isync] →
      Sys2Proof.Machine.exec (.bundleIssue c) s = .next (s.setCh c { s.ch c with
        led := (s.ch c).led.bundle, rook := nextBundle (s.ch c).rook 1, iramStale := [] })) ∧
    ((s.node c).boundary = .issue ws [.wait] →
      Sys2Proof.Machine.exec (.bundleIssue c) s = .next (s.setCh c { s.ch c with
        led := (s.ch c).led.bundle,
        rook := { nextBundle (s.ch c).rook 1 with waiting := (s.ch c).rookPend = 0 } })) ∧
    ((s.node c).boundary = .issue ws [.brk] →
      Sys2Proof.Machine.exec (.bundleIssue c) s = .next (s.setCh c { s.ch c with
        led := (s.ch c).led.bundle, rook := { nextBundle (s.ch c).rook 1 with halted := true, why := 5 } }))) ∧
  (∀ (s : State) (c : Ch) (ws : List Word) (len rd ra off : Nat), (s.node c).boundary = .issue ws [.store len rd ra off] →
    Quiet (s.ch c).rook → (s.ch c).ecc = Ecc.reset →
    (s.node c).watchHit ⟨target (s.ch c).rook ra off, len, true, false, rd⟩ = false →
    (zoneOf (target (s.ch c).rook ra off) = some .iram →
      ∃ t, Sys2Proof.Machine.exec (.bundleIssue c) s = .next t ∧ (t.ch c).rook = nextBundle (s.ch c).rook 1 ∧
        (t.ch c).iram = (s.ch c).iram.write (target (s.ch c).rook ra off)
          ((bytesLE len ((s.ch c).rook.get rd).toNat).map some) ∧ (t.ch c).led = (s.ch c).led.bundle ∧ t.dev = s.dev) ∧
    (len = 4 → target (s.ch c).rook ra off = markAddr →
      Sys2Proof.Machine.exec (.bundleIssue c) s = .next (s.setCh c { s.ch c with
        led := { (s.ch c).led.bundle with done := true }, rook := nextBundle (s.ch c).rook 1 }))) ∧
  (∀ (s : State) (c : Ch) (ws : List Word) (len rd ra off : Nat), (s.node c).boundary = .issue ws [.store len rd ra off] →
    (s.ch c).ecc = Ecc.reset → (s.node c).watchHit ⟨target (s.ch c).rook ra off, len, true, false, rd⟩ = true →
    ∃ t, Sys2Proof.Machine.exec (.bundleIssue c) s = .next t ∧ (t.ch c).rook.halted = true ∧ (t.ch c).rook.why = 4 ∧
      (t.ch c).rook.pc = BitVec.ofNat 32 ((s.ch c).rook.pc.toNat + 4)) ∧
  (∀ (s : State) (c : Ch) (ws : List Word) (len rd ra off : Nat), (s.node c).boundary = .issue ws [.store len rd ra off] →
    Quiet (s.ch c).rook → (s.ch c).ecc = Ecc.reset →
    (s.node c).watchHit ⟨((s.ch c).rook.low ra + off) % 2 ^ 32, len, true, false, rd⟩ = false →
    (zoneOf (((s.ch c).rook.low ra + off) % 2 ^ 32) = some .dtcm →
      Sys2Proof.Machine.exec (.bundleIssue c) s = .next (s.setCh c { s.ch c with
        led := (s.ch c).led.bundle, rook := nextBundle (s.ch c).rook 1,
        dtcm := (s.ch c).dtcm.write (((s.ch c).rook.low ra + off) % 2 ^ 32)
          ((bytesLE len ((s.ch c).rook.get rd).toNat).map some) })) ∧
    (zoneOf (((s.ch c).rook.low ra + off) % 2 ^ 32) = some .sram →
      Sys2Proof.Machine.exec (.bundleIssue c) s = .next (s.setCh c { s.ch c with
        led := (s.ch c).led.bundle,
        rook := { nextBundle (s.ch c).rook 1 with sb := (s.ch c).rook.sb ++
          [⟨BitVec.ofNat 32 (((s.ch c).rook.low ra + off) % 2 ^ 32), bytesLE len ((s.ch c).rook.get rd).toNat⟩] } }))) ∧
  (∀ (s : State) (c : Ch) (ws : List Word) (len rd ra off : Nat) (sg : Bool),
    (s.node c).boundary = .issue ws [.load len sg rd ra off] → Quiet (s.ch c).rook → (s.ch c).ecc = Ecc.reset →
    (s.node c).watchHit ⟨((s.ch c).rook.low ra + off) % 2 ^ 32, len, false, sg, rd⟩ = false →
    (zoneOf (((s.ch c).rook.low ra + off) % 2 ^ 32) = some .dtcm →
      Sys2Proof.Machine.exec (.bundleIssue c) s = .next (s.setCh c { s.ch c with
        led := (s.ch c).led.bundle,
        rook := nextBundle ((s.ch c).rook.set rd (loadValue ⟨((s.ch c).rook.low ra + off) % 2 ^ 32, len, false, sg, rd⟩
          ((s.ch c).dtcm.read (((s.ch c).rook.low ra + off) % 2 ^ 32) len))) 1 })) ∧
    (zoneOf (((s.ch c).rook.low ra + off) % 2 ^ 32) = some .sram →
      Sys2Proof.Machine.exec (.bundleIssue c) s = .next (s.setCh c { s.ch c with
        led := (s.ch c).led.bundle,
        rook := { (s.ch c).rook with issued := ws, loadTick := some ((s.ch c).wh.count, (s.ch c).led.done),
                                     waiting := false, bpSkip := false } })) ∧
    (zoneOf (target (s.ch c).rook ra off) = some .iram →
      Sys2Proof.Machine.exec (.bundleIssue c) s = .next (s.setCh c { s.ch c with
        led := (s.ch c).led.bundle,
        rook := nextBundle ((s.ch c).rook.set rd (loadValue ⟨target (s.ch c).rook ra off, len, false, sg, rd⟩
          ((s.ch c).iram.read (target (s.ch c).rook ra off) len))) 1 }))) ∧
  (∀ (s : State) (c : Ch), (s.node c).boundary = .none ∨ (s.node c).boundary = .event ∨
    (∃ cause a, (s.node c).boundary = .impr cause a) → Sys2Proof.Machine.exec (.bundleIssue c) s = .next s) ∧
  (∀ (s : State) (c : Ch) (why : Nat), (s.node c).boundary = .stop why →
    Sys2Proof.Machine.exec (.bundleIssue c) s = .next (s.setCh c { s.ch c with
      rook := { (s.ch c).rook with halted := true, why := why, step := false, haltReq := false } }))

/-- A call writes its record below SP in DTCM, moves SP and FP to it, sets LINK, raises WB by 48, spills the oldest frames that
find no room and goes to its target, CALLX with its CM; a return from a record at SP takes SP, FP and WB back, fills the frame it
returns to where that had spilled, and goes to the return address; RETE restores PSW too. A call whose record lies outside the
frame stack faults with STACK, one whose spill has no room with WINDOW (07 R202, R203, R205, R207, R208). -/
def Obligations.CallsAndReturns : Prop :=
  (∀ (s : State) (c : Ch) (ws : List Word) (o : Op) (pc : Nat) (cm : Bool), (s.node c).boundary = .issue ws [o] →
    Quiet (s.ch c).rook → (s.ch c).ecc = Ecc.reset → (∃ off ra, o = .call off ∨ o = .callr ra ∨ o = .callx ra) →
    goesTo (s.ch c).rook (s.ch c).rook.pc.toNat o = some (pc, cm) →
    ∃ t, Sys2Proof.Machine.exec (.bundleIssue c) s = .next t ∧
      (t.ch c).rook.sp = (s.ch c).rook.sp - 16 ∧ (t.ch c).rook.fp = (s.ch c).rook.sp - 16 ∧
      (t.ch c).rook.wb = (s.ch c).rook.wb + 48 ∧ (t.ch c).rook.file = (s.ch c).rook.file ∧
      (t.ch c).rook.resbase = (s.ch c).rook.resbase + ((s.ch c).rook.toSpill 48).sum ∧
      (t.ch c).rook.spillPtr = (s.ch c).rook.spillPtr + BitVec.ofNat 32 (16 * ((s.ch c).rook.toSpill 48).sum) ∧
      (t.ch c).rook.link = returnWord ((s.ch c).rook.pc.toNat + 4) (s.ch c).rook.cm ∧
      (t.ch c).rook.pc = BitVec.ofNat 32 pc ∧ (t.ch c).rook.cm = cm ∧
      (t.ch c).dtcm = (((s.ch c).dtcm.write ((s.ch c).rook.sp - 16).toNat ((callRecord
        (returnWord ((s.ch c).rook.pc.toNat + 4) (s.ch c).rook.cm) (s.ch c).rook.fp (s.ch c).rook.wb).map some)).write
        (s.ch c).rook.spillPtr.toNat
        (((s.ch c).rook.frameBytes (s.ch c).rook.resbase ((s.ch c).rook.toSpill 48).sum).map some)) ∧
      (t.ch c).regs = (s.ch c).regs ∧ (t.ch c).sram = (s.ch c).sram) ∧
  (∀ (s : State) (c : Ch) (ws : List Word) (o : Op) (size len : Nat), (s.node c).boundary = .issue ws [o] →
    Quiet (s.ch c).rook → (s.ch c).ecc = Ecc.reset → (o = .ret ∧ size = 48 ∧ len = 16) ∨ (o = .rete ∧ size = 64 ∧ len = 32) →
    ∃ t, Sys2Proof.Machine.exec (.bundleIssue c) s = .next t ∧
      let rec' := (s.ch c).dtcm.read (s.ch c).rook.sp.toNat len
      let cnt := (s.ch c).rook.toFill size
      (t.ch c).rook.sp = (s.ch c).rook.sp + BitVec.ofNat 32 len ∧ (t.ch c).rook.wb = (s.ch c).rook.wb - size ∧
      (t.ch c).rook.fp = wordAt rec' 4 ∧ (t.ch c).rook.link = wordAt rec' 0 ∧
      (o = .ret → (t.ch c).rook.cm = (wordAt rec' 0).bit 0 ∧ (t.ch c).rook.ie = (s.ch c).rook.ie ∧
        (t.ch c).rook.exl = (s.ch c).rook.exl) ∧
      (o = .rete → (t.ch c).rook.psw = ((s.ch c).rook.restorePsw (wordAt rec' 8) (wordAt rec' 0)).psw) ∧
      (t.ch c).rook.pc = BitVec.ofNat 32 ((wordAt rec' 0).toNat / 4 * 4) ∧
      (t.ch c).rook.spillPtr = BitVec.ofNat 32 ((s.ch c).rook.spillPtr.toNat - 16 * cnt) ∧
      (t.ch c).rook.file = (List.range cnt).foldl (fun f i => SMap.put 0 f (((s.ch c).rook.wb - size + i) % 512)
        (BitVec.ofNat 128 (ofBytesLE (slice ((s.ch c).dtcm.read ((s.ch c).rook.spillPtr.toNat - 16 * cnt) (16 * cnt))
          (16 * i) 16)))) (s.ch c).rook.file ∧
      (t.ch c).dtcm = (s.ch c).dtcm ∧ (t.ch c).regs = (s.ch c).regs) ∧
  (∀ (k : Channel), ((k.rook.sp - 16).toNat < (k.reg pgROOKDBG 0x054).toNat ∨ inDtcm (k.rook.sp - 16).toNat 16 = false) →
    k.callFault = some { cause := xSTACK }) ∧
  (∀ (k : Channel), (k.reg pgROOKDBG 0x054).toNat ≤ (k.rook.sp - 16).toNat → inDtcm (k.rook.sp - 16).toNat 16 = true →
    0 < (k.rook.toSpill 48).sum → k.spillLimit < k.rook.spillPtr.toNat + 16 * (k.rook.toSpill 48).sum →
    k.callFault = some { cause := xWINDOW, addr := k.rook.spillPtr.toNat })

/-- Entry. At a bundle boundary a pending event enters with the lowest event as its code, an imprecise fault with its cause and
address, a faulting bundle with its exception, having had no other effect, and TRAP behind its bundle: the record goes to DTCM
below SP, EXL is 1 and IE 0, CM and PC come from ROOKDBG_VEC, WB rises by 64; a refused access is recorded in REGION too. An
exception with EXL 1, or an entry whose record or spill lies outside DTCM, stops the Rook for good, and DOUBLE is recorded. An entry
whose boundary has not come changes nothing. A WAIT ends when an event is pending (06 R190, 07 R206, R208, R209, R210, R220). -/
def Obligations.RookEntry : Prop :=
  (∀ (s : State) (c : Ch), (s.node c).boundary = .event → EntryFits (s.ch c) →
    ∃ t, Sys2Proof.Machine.exec (.eventEntry c) s = .next t ∧
      Entered (s.ch c) (t.ch c) 0 (s.ch c).lowestPend 0 false ∧ t.dev = s.dev) ∧
  (∀ (s : State) (c : Ch) (cause : Nat) (addr : Word), (s.node c).boundary = .impr cause addr → (s.ch c).rook.exl = false →
    EntryFits (s.ch c) →
    ∃ t, Sys2Proof.Machine.exec (.impreciseFaultEntry c) s = .next t ∧
      Entered (s.ch c) (t.ch c) cause 0 addr.toNat true ∧ (t.ch c).rook.impr = none ∧ t.dev = s.dev) ∧
  (∀ (s : State) (c : Ch) (x : Exc), (s.node c).boundary = .except x → (s.ch c).rook.exl = false → x.ue = none →
    x.cause ≠ xDENY → EntryFits (s.ch c) →
    ∃ t, Sys2Proof.Machine.exec (.bundleIssue c) s = .next t ∧
      Entered (s.ch c) (t.ch c) x.cause x.code x.addr false ∧ (t.ch c).led = (s.ch c).led ∧ t.dev = s.dev) ∧
  (∀ (s : State) (c : Ch) (x : Exc), (s.node c).boundary = .except x → (s.ch c).rook.exl = true → x.ue = none →
    x.cause ≠ xDENY → x.cause ≠ xEVENT →
    ∃ t, Sys2Proof.Machine.exec (.bundleIssue c) s = .next t ∧
      (t.ch c).rook = { (s.ch c).rook with fatal := true, halted := true, why := 6, step := false, haltReq := false } ∧
      Recorded (s.ch c) (t.ch c) pgROOKDBG 0x12 0 (BitVec.ofNat 32 x.addr) ∧ (t.ch c).dtcm = (s.ch c).dtcm) ∧
  (∀ (s : State) (c : Ch) (x : Exc), (s.node c).boundary = .except x → (s.ch c).rook.exl = false → x.ue = none →
    x.cause = xDENY → EntryFits (s.ch c) →
    ∃ t, Sys2Proof.Machine.exec (.bundleIssue c) s = .next t ∧ (t.ch c).rook.exl = true ∧ (t.ch c).rook.ie = false ∧
      (t.ch c).rook.pc = BitVec.ofNat 32 (((s.ch c).reg pgROOKDBG 0x050).toNat / 0x400 * 0x400 + 64 * xDENY) ∧
      Recorded (s.ch c) (t.ch c) pgREGION 0x10 0 (BitVec.ofNat 32 x.addr) ∧ (t.ch c).sram = (s.ch c).sram) ∧
  (∀ (s : State) (c : Ch) (ws : List Word) (code : Nat), (s.node c).boundary = .issue ws [.trap code] →
    (s.ch c).rook.exl = false → EntryFits (s.ch c) →
    ∃ t, Sys2Proof.Machine.exec (.bundleIssue c) s = .next t ∧ (t.ch c).rook.exl = true ∧ (t.ch c).rook.ie = false ∧
      (t.ch c).rook.pc = BitVec.ofNat 32 (((s.ch c).reg pgROOKDBG 0x050).toNat / 0x400 * 0x400 + 64 * xTRAP) ∧
      (t.ch c).rook.sp = (s.ch c).rook.sp - 32 ∧ (t.ch c).rook.wb = (s.ch c).rook.wb + 64 ∧
      (t.ch c).dtcm.read ((s.ch c).rook.sp - 32).toNat 32 =
        entryRecord (returnWord ((s.ch c).rook.pc.toNat + 4) (s.ch c).rook.cm) (s.ch c).rook.fp (s.ch c).rook.psw
          (s.ch c).rook.wb xTRAP code false 0) ∧
  (∀ (s : State) (c : Ch), (s.node c).boundary = .event →
    inDtcm ((s.ch c).rook.sp - 32).toNat 32 = false →
    ∃ t, Sys2Proof.Machine.exec (.eventEntry c) s = .next t ∧ (t.ch c).rook.fatal = true ∧ (t.ch c).rook.halted = true ∧
      Recorded (s.ch c) (t.ch c) pgROOKDBG 0x12 0 (BitVec.ofNat 32 ((s.ch c).rook.sp - 32).toNat) ∧
      (t.ch c).dtcm = (s.ch c).dtcm) ∧
  (∀ (s : State) (c : Ch), ((s.node c).boundary ≠ .event → Sys2Proof.Machine.exec (.eventEntry c) s = .next s) ∧
    ((∀ cause a, (s.node c).boundary ≠ .impr cause a) → Sys2Proof.Machine.exec (.impreciseFaultEntry c) s = .next s)) ∧
  (∀ (s : State) (c : Ch), (s.ch c).boot = .run → (s.ch c).rookPend ≠ 0 →
    Sys2Proof.Machine.exec (.waitEnd c) s =
      .next (s.setCh c { s.ch c with rook := { (s.ch c).rook with waiting := false } })) ∧
  (∀ (s : State) (c : Ch), (s.ch c).boot ≠ .run ∨ (s.ch c).rookPend = 0 →
    Sys2Proof.Machine.exec (.waitEnd c) s = .next s)

/-- The Rook's side of the fabric: the data of an outstanding load from SRAM ends its bundle once the older stores
are done (where no CAN controller watches its objects), and of a register likewise; the oldest posted store is performed at its
bank, through the bit-set and bit-clear aliases as a mask, to a register as the Rook's write of it, one that is no whole words
refused with WIDTH; one that ownership refuses is denied and kept as an imprecise fault. With nothing outstanding, an older store
before the load or a handover that holds the access, nothing changes (03 R69, 06 R166, R170, R173, 07 R206, R213). -/
def Obligations.RookFabric : Prop :=
  (∀ (s : State) (c : Ch) (ws : List Word) (len rd ra off : Nat) (sg : Bool), (s.ch c).boot = .run →
    (s.ch c).rook.running = true → ws ≠ [] → (s.ch c).rook.issued = ws → decodeAll ws = some [.load len sg rd ra off] →
    (s.ch c).rook.sb = [] → (s.ch c).rook.halted = false → Quiet (s.ch c).rook → (s.ch c).ecc = Ecc.reset →
    zoneOf (((s.ch c).rook.low ra + off) % 2 ^ 32) = some .sram →
    ((s.ch c).rook.low ra + off) % 2 ^ 32 % 16 + len ≤ 16 →
    (s.ch c).canWatches .u0 = false → (s.ch c).canWatches .u1 = false →
    (s.ch c).grant mROOK (((s.ch c).rook.low ra + off) % 2 ^ 32) len false = .ok →
    (s.node c).watchHit ⟨((s.ch c).rook.low ra + off) % 2 ^ 32, len, false, sg, rd⟩ = false →
    Sys2Proof.Machine.exec (.fabricLoadReturn c) s = .next (s.setCh c { s.ch c with
      rook := { (s.ch c).rook.set rd (loadValue ⟨((s.ch c).rook.low ra + off) % 2 ^ 32, len, false, sg, rd⟩
          ((s.ch c).sram.read (((s.ch c).rook.low ra + off) % 2 ^ 32) len)) with
        pc := BitVec.ofNat 32 ((s.ch c).rook.pc.toNat + 4), lastPc := (s.ch c).rook.pc, lastCm := (s.ch c).rook.cm,
        issued := [], loadTick := none } })) ∧
  (∀ (s : State) (c : Ch) (ws : List Word) (rd ra off : Nat) (sg : Bool) (v : Word), (s.ch c).boot = .run →
    (s.ch c).rook.running = true → ws ≠ [] → (s.ch c).rook.issued = ws → decodeAll ws = some [.load 4 sg rd ra off] →
    (s.ch c).rook.sb = [] → (s.ch c).rook.halted = false → Quiet (s.ch c).rook → (s.ch c).ecc = Ecc.reset →
    zoneOf (target (s.ch c).rook ra off) = some .regs → target (s.ch c).rook ra off % 4 = 0 →
    (s.node c).watchHit ⟨target (s.ch c).rook ra off, 4, false, sg, rd⟩ = false →
    (s.node c).pageRead .rook (regPage (target (s.ch c).rook ra off)) (regOff (target (s.ch c).rook ra off)) = (s.node c, v) →
    Sys2Proof.Machine.exec (.fabricLoadReturn c) s = .next (s.setCh c { s.ch c with
      rook := { (s.ch c).rook.set rd (loadValue ⟨target (s.ch c).rook ra off, 4, false, sg, rd⟩ (bytesLE 4 v.toNat)) with
        pc := BitVec.ofNat 32 ((s.ch c).rook.pc.toNat + 4), lastPc := (s.ch c).rook.pc, lastCm := (s.ch c).rook.cm,
        issued := [], loadTick := none } })) ∧
  (∀ (s : State) (c : Ch), (s.ch c).rook.issued = [] ∨ (s.ch c).boot ≠ .run ∨ (s.ch c).rook.running = false ∨
    (s.ch c).rook.sb ≠ [] → Sys2Proof.Machine.exec (.fabricLoadReturn c) s = .next s) ∧
  (∀ (s : State) (c : Ch), (s.ch c).rook.sb = [] ∨ (s.ch c).boot ≠ .run ∨ (s.ch c).rook.running = false ∨
    (∃ x rest, (s.ch c).rook.sb = x :: rest ∧ (s.ch c).heldAt x.addr.toNat x.data.length true = true) →
    Sys2Proof.Machine.exec (.storeBufferAccept c) s = .next s) ∧
  (∀ (s : State) (c : Ch) (x : Store) (rest : List Store), (s.ch c).boot = .run → (s.ch c).rook.running = true →
    (s.ch c).rook.sb = x :: rest → zoneOf x.addr.toNat = some .regs →
    (x.data.length = 4 → x.addr.toNat % 4 = 0 →
      Sys2Proof.Machine.exec (.storeBufferAccept c) s = .next (s.within c fun n => (n.onRook fun r => { r with sb := rest }).pageWrite
        .rook (regPage x.addr.toNat) (regOff x.addr.toNat) (wordAt x.data 0))) ∧
    (x.data.length % 4 ≠ 0 ∨ x.addr.toNat % 4 ≠ 0 → regPage x.addr.toNat ∈ chanPages →
      ∃ t, Sys2Proof.Machine.exec (.storeBufferAccept c) s = .next t ∧ (t.ch c).rook.sb = rest ∧
        Recorded (s.ch c) (t.ch c) (regPage x.addr.toNat) cWIDTH 0 (regAddr (regPage x.addr.toNat) (regOff x.addr.toNat)))) ∧
  (∀ (s : State) (c : Ch) (x : Store) (rest : List Store), (s.ch c).boot = .run → (s.ch c).rook.running = true →
    (s.ch c).rook.sb = x :: rest → (s.ch c).ecc = Ecc.reset →
    (zoneOf x.addr.toNat = some .sram → (s.ch c).grant mROOK x.addr.toNat x.data.length true = .ok →
      Sys2Proof.Machine.exec (.storeBufferAccept c) s = .next (s.setCh c { s.ch c with
        rook := { (s.ch c).rook with sb := rest },
        sram := (s.ch c).sram.write x.addr.toNat (x.data.map some) })) ∧
    (zoneOf x.addr.toNat = some .bitSet → (s.ch c).grant mROOK (x.addr.toNat - 0x400000) x.data.length true = .ok →
      Sys2Proof.Machine.exec (.storeBufferAccept c) s = .next (s.setCh c { s.ch c with
        rook := { (s.ch c).rook with sb := rest },
        sram := (s.ch c).sram.write (x.addr.toNat - 0x400000)
          ((((s.ch c).sram.read (x.addr.toNat - 0x400000) x.data.length).zip x.data).map fun p => some (p.1 ||| p.2)) })) ∧
    (zoneOf x.addr.toNat = some .bitClear → (s.ch c).grant mROOK (x.addr.toNat - 0x800000) x.data.length true = .ok →
      Sys2Proof.Machine.exec (.storeBufferAccept c) s = .next (s.setCh c { s.ch c with
        rook := { (s.ch c).rook with sb := rest },
        sram := (s.ch c).sram.write (x.addr.toNat - 0x800000)
          ((((s.ch c).sram.read (x.addr.toNat - 0x800000) x.data.length).zip x.data).map fun p => some (p.1 &&& ~~~p.2)) })) ∧
    (zoneOf x.addr.toNat = some .sram → (s.ch c).grant mROOK x.addr.toNat x.data.length true = .refused →
      (s.ch c).rook.impr = none →
      ∃ t, Sys2Proof.Machine.exec (.storeBufferAccept c) s = .next t ∧ (t.ch c).sram = (s.ch c).sram ∧
        (t.ch c).rook = { (s.ch c).rook with sb := rest, impr := some (xDENY, x.addr) } ∧
        Recorded (s.ch c) (t.ch c) pgREGION 0x10 0 x.addr))

/-- A debugger's halt, resume and step, and its access to the halted Rook's registers: HALT at a bundle boundary halts at once with
WHY 1, with a fabric load outstanding behind it; under the debug lock HALT and STEP are refused; RESUME runs on, under the lock
too; STEP issues one bundle and halts with WHY 2; none acts on a Rook that is not as it asks, or stopped for good. RDATA reads and
writes the selected register of the window, of the file or a special one while halted, else it is refused, and under the lock a read
answers 0. SPILLBASE is written, and SPILLPTR with it, while nothing is spilled; else it is refused with STATE, a value it cannot
take with RSVD. The Rook's own accesses to the debugger's registers are refused with SENDER (07 R215, R222, R223, R225, R226). -/
def Obligations.RookDebug : Prop :=
  (∀ (s : State) (c : Ch), s.reaches .pf c → Free s c pgROOKDBG → (s.node c).lock = false →
    (s.ch c).rook.running = true → (s.ch c).rook.halted = false → (s.ch c).rook.fatal = false → (s.ch c).rook.issued = [] →
    ∃ t, Sys2Proof.Machine.exec (.halt .pf c) s = .next t ∧
      (t.ch c).rook = { (s.ch c).rook with halted := true, why := 1, step := false, haltReq := false } ∧
      (t.ch c).dtcm = (s.ch c).dtcm ∧ t.dev = s.dev) ∧
  (∀ (s : State) (c : Ch), s.reaches .pf c → Free s c pgROOKDBG → (s.node c).lock = true → (s.ch c).rook.halted = false →
    ∃ t, Sys2Proof.Machine.exec (.halt .pf c) s = .next t ∧ RegsOnly (s.ch c) (t.ch c) ∧
      Recorded (s.ch c) (t.ch c) pgROOKDBG 0x10 1 (regAddr pgROOKDBG 0x040)) ∧
  (∀ (s : State) (c : Ch), s.reaches .pf c → Free s c pgROOKDBG → (s.node c).lock = true →
    (∃ t, Sys2Proof.Machine.exec (.halt .pf c) s = .next t ∧ FaultOnly (s.ch c) (t.ch c) pgROOKDBG) ∧
    ∃ t, Sys2Proof.Machine.exec (.debugStep .pf c) s = .next t ∧ FaultOnly (s.ch c) (t.ch c) pgROOKDBG ∧
      Recorded (s.ch c) (t.ch c) pgROOKDBG 0x10 1 (regAddr pgROOKDBG 0x040)) ∧
  (∀ (s : State) (c : Ch), s.reaches .pf c → Free s c pgROOKDBG → (s.node c).lock = false →
    (s.ch c).rook.running = true → (s.ch c).rook.halted = false → (s.ch c).rook.fatal = false → (s.ch c).rook.issued ≠ [] →
    ∃ t, Sys2Proof.Machine.exec (.halt .pf c) s = .next t ∧
      (t.ch c).rook = { (s.ch c).rook with haltReq := true } ∧ t.dev = s.dev) ∧
  (∀ (s : State) (c : Ch), s.reaches .pf c → Free s c pgROOKDBG → (s.node c).lock = false →
    ((s.ch c).rook.fatal = true ∨ (s.ch c).rook.halted = true →
      ∃ t, Sys2Proof.Machine.exec (.halt .pf c) s = .next t ∧ (t.ch c).rook = (s.ch c).rook ∧ t.dev = s.dev) ∧
    ((s.ch c).rook.fatal = true ∨ (s.ch c).rook.halted = false →
      (∃ t, Sys2Proof.Machine.exec (.resume .pf c) s = .next t ∧ (t.ch c).rook = (s.ch c).rook ∧ t.dev = s.dev) ∧
      ∃ t, Sys2Proof.Machine.exec (.debugStep .pf c) s = .next t ∧ (t.ch c).rook = (s.ch c).rook ∧ t.dev = s.dev)) ∧
  (∀ (s : State) (c : Ch) (j : Fin 4) (v : Word), (s.ch c).boot = .run → Free s c pgROOKDBG →
    ∀ p ∈ [(Instr.halt .rook c, 0x040), (.resume .rook c, 0x040), (.debugStep .rook c, 0x040),
      (.rdataAccess .rook c j (some v), 0x080 + 4 * j.val)],
    ∃ t, Sys2Proof.Machine.exec p.1 s = .next t ∧ FaultOnly (s.ch c) (t.ch c) pgROOKDBG ∧
      Recorded (s.ch c) (t.ch c) pgROOKDBG cSENDER 0 (regAddr pgROOKDBG p.2)) ∧
  (∀ (s : State) (c : Ch), s.reaches .pf c → Free s c pgROOKDBG → (s.ch c).rook.halted = true → (s.ch c).rook.fatal = false →
    ∃ t, Sys2Proof.Machine.exec (.resume .pf c) s = .next t ∧
      (t.ch c).rook = { (s.ch c).rook with halted := false, bpSkip := true } ∧ t.dev = s.dev) ∧
  (∀ (s : State) (c : Ch) (ws : List Word) (ops : List Op), s.reaches .pf c → Free s c pgROOKDBG → (s.node c).lock = false →
    (s.ch c).rook.halted = true → (s.ch c).rook.fatal = false → (s.ch c).ecc = Ecc.reset →
    (((s.node c).setField pgROOKDBG 0x040 3 1 (((s.ch c).reg pgROOKDBG 0x040).field 3 1)).onRook fun r =>
      { r with halted := false, step := true, bpSkip := true }).boundary = .issue ws ops →
    (∀ o ∈ ops, o = .nop ∨ o = .fence ∨ ((s.ch c).rook.alu o).isSome = true) →
    ∃ t, Sys2Proof.Machine.exec (.debugStep .pf c) s = .next t ∧
      (t.ch c).rook.halted = true ∧ (t.ch c).rook.why = 2 ∧ (t.ch c).rook.step = false ∧
      (t.ch c).rook.pc = BitVec.ofNat 32 ((s.ch c).rook.pc.toNat + 4 * ops.length) ∧
      (t.ch c).rook.file =
        ((ops.filterMap (s.ch c).rook.alu).foldl (fun r v => r.set v.1 v.2) (s.ch c).rook).file) ∧
  (∀ (s : State) (c : Ch) (j : Fin 4) (v : Word), s.reaches .pf c → Free s c pgROOKDBG → (s.node c).lock = false →
    (s.ch c).rook.halted = true → (s.ch c).rselSpace = 0 →
    Sys2Proof.Machine.exec (.rdataAccess .pf c j (some v)) s = .next (s.setCh c { s.ch c with
      rook := (s.ch c).rook.set ((s.ch c).rselIndex % 64)
        (putLane ((s.ch c).rook.get ((s.ch c).rselIndex % 64)) j v) })) ∧
  (∀ (s : State) (c : Ch) (j : Fin 4), s.reaches .pf c → Free s c pgROOKDBG → (s.node c).lock = false →
    (s.ch c).rook.halted = true →
    ∃ t, Sys2Proof.Machine.exec (.rdataAccess .pf c j none) s = .next t ∧ t.ch c = s.ch c ∧
      t = s.answer (.pf c) none (bytesLE 4 ((s.ch c).rdata j).toNat)) ∧
  (∀ (s : State) (c : Ch) (v : Word), s.reaches .pf c → Free s c pgROOKDBG → (s.node c).lock = false →
    (s.ch c).rook.halted = true → (s.ch c).rselSpace = 1 →
    (specialOf ((s.ch c).rselIndex % 4) ≠ .sp ∨ v.toNat % 16 = 0 →
      Sys2Proof.Machine.exec (.rdataAccess .pf c 0 (some v)) s = .next (s.setCh c { s.ch c with
        rook := (s.ch c).rook.dbgSpecial (specialOf ((s.ch c).rselIndex % 4)) v })) ∧
    (specialOf ((s.ch c).rselIndex % 4) = .sp → v.toNat % 16 ≠ 0 →
      ∃ t, Sys2Proof.Machine.exec (.rdataAccess .pf c 0 (some v)) s = .next t ∧ FaultOnly (s.ch c) (t.ch c) pgROOKDBG ∧
        Recorded (s.ch c) (t.ch c) pgROOKDBG cRSVD 1 (regAddr pgROOKDBG 0x080)) ∧
    ∀ j : Fin 4, j ≠ 0 → Sys2Proof.Machine.exec (.rdataAccess .pf c j (some v)) s = .next s) ∧
  (∀ (s : State) (c : Ch) (j : Fin 4) (v : Word), s.reaches .pf c → Free s c pgROOKDBG → (s.node c).lock = false →
    (s.ch c).rook.halted = true → 2 ≤ (s.ch c).rselSpace →
    Sys2Proof.Machine.exec (.rdataAccess .pf c j (some v)) s = .next (s.setCh c { s.ch c with
      rook := { (s.ch c).rook with
        file := SMap.put 0 (s.ch c).rook.file (s.ch c).rselIndex
          (putLane ((SMap.get? (s.ch c).rook.file (s.ch c).rselIndex).getD 0) j v) } })) ∧
  (∀ (s : State) (c : Ch) (j : Fin 4) (v : Word), s.reaches .pf c → Free s c pgROOKDBG →
    ((s.node c).lock = true ∨ (s.ch c).rook.halted = false →
      ∃ t, Sys2Proof.Machine.exec (.rdataAccess .pf c j (some v)) s = .next t ∧ FaultOnly (s.ch c) (t.ch c) pgROOKDBG ∧
        Recorded (s.ch c) (t.ch c) pgROOKDBG (if (s.node c).lock then 0x10 else 0x11) 1 (regAddr pgROOKDBG (0x080 + 4 * j.val))) ∧
    ((s.node c).lock = true →
      ∃ t, Sys2Proof.Machine.exec (.rdataAccess .pf c j none) s = .next t ∧ t.ch c = s.ch c ∧
        Answered s t (.pf c) (.inl [0, 0, 0, 0])) ∧
    ((s.node c).lock = false → (s.ch c).rook.halted = false →
      ∃ t, Sys2Proof.Machine.exec (.rdataAccess .pf c j none) s = .next t ∧ FaultOnly (s.ch c) (t.ch c) pgROOKDBG ∧
        Recorded (s.ch c) (t.ch c) pgROOKDBG 0x11 1 (regAddr pgROOKDBG (0x080 + 4 * j.val)) ∧
        Answered s t (.pf c) (.inl [0, 0, 0, 0]))) ∧
  (∀ (s : State) (snd : Sender) (c : Ch) (v : Word), s.reaches snd c → Own snd → Free s c pgROOKDBG →
    (s.ch c).rook.spillPtr ≠ (s.ch c).reg pgROOKDBG 0x058 ∨ (s.ch c).rejects pgROOKDBG 0x058 v = true →
    ∃ t, Sys2Proof.Machine.exec (.spillbaseWrite snd c v) s = .next t ∧ FaultOnly (s.ch c) (t.ch c) pgROOKDBG ∧
      Recorded (s.ch c) (t.ch c) pgROOKDBG
        (if (s.ch c).rook.spillPtr ≠ (s.ch c).reg pgROOKDBG 0x058 then cSTATE else cRSVD) snd.id (regAddr pgROOKDBG 0x058)) ∧
  (∀ (s : State) (snd : Sender) (c : Ch) (v : Word), s.reaches snd c → Own snd → Free s c pgROOKDBG →
    (s.ch c).rook.spillPtr = (s.ch c).reg pgROOKDBG 0x058 → (s.ch c).rejects pgROOKDBG 0x058 v = false →
    Sys2Proof.Machine.exec (.spillbaseWrite snd c v) s = .next (s.setCh c
      { (s.ch c).setReg pgROOKDBG 0x058 v with rook := { (s.ch c).rook with spillPtr := v } }))

/-! ## The Pawn engines (09) -/

namespace Sys2Proof.Claims

/-- Engine e of a live page runs and executes the legal word `w` in its next step. -/
abbrev Executes (k : Channel) (e : Fin 8) (w : Nat) : Prop :=
  k.live pgPAWN = true ∧ (k.eng e).run = true ∧ (k.eng e).delay = 0 ∧
  k.pawnWord ((k.ebase e + (k.eng e).pc) % 512) = w

/-- What a step of engine e leaves: the other engines, memory, the Rook, and of the latches all that the engine does not own. -/
def PawnFrame (k k' : Channel) (e : Fin 8) : Prop :=
  (∀ d : Fin 8, d ≠ e → k'.eng d = k.eng d) ∧ k'.sram = k.sram ∧ k'.rook = k.rook ∧
  ∀ p, p < 24 → k.pinOwner p ≠ e.val →
    k'.pawn.outL.getLsbD p = k.pawn.outL.getLsbD p ∧ k'.pawn.dirL.getLsbD p = k.pawn.dirL.getLsbD p

/-- The levels that the engines of channel c read after PAWN cycles with these levels at the balls. -/
def levels (s : State) (c : Ch) (b : List (BitVec 24)) : BitVec 24 := (b.foldl Node.pinCycle (s.node c)).k.pinsRead

end Sys2Proof.Claims

/-- The synchroniser: a PAWN cycle of a live page takes the level of each pin, and what the engines read is two cycles old, at
once where PINSYNC.BYPASS is set. A step of a running engine. During a pace it only counts down. An illegal word halts the engine with ILLEGAL and is recorded; HALT halts it;
a LOAD of C0 writes C0 and goes on to the next word; an unconditional BR goes to its target, one on C0 counts it down and is taken
where it was not 0, one on PULLTH where fewer bits have been shifted; PIN 1 drives the pin high where the engine owns it; TEST of a
pin sets F to its level; SIG sets its IRQ flag; an AWAIT without bound whose pin has not the level stalls at its PC. No other engine,
no memory and no pin of another engine changes; a stopped engine does nothing (09 R248 to R253, R256, R257, R270). -/
def Obligations.PawnSteps : Prop :=
  (∀ (s : State) (c : Ch) (e : Fin 8) (b : List (BitVec 24)), ∃ t, Sys2Proof.Machine.exec (.pawnEngineStep c e b) s = .next t ∧
    PawnFrame (s.ch c) (t.ch c) e ∧ ((s.ch c).live pgPAWN = false → (t.ch c).pawn = (s.ch c).pawn) ∧
    (∀ x, (s.ch c).live pgPAWN = true → b = [x] → (t.ch c).pawn.pins = (s.node c).pinLevels x ∧
      (t.ch c).pawn.sync1 = (s.ch c).pawn.pins ∧ (t.ch c).pawn.sync2 = (s.ch c).pawn.sync1) ∧
    (((s.ch c).live pgPAWN = false ∨ ((s.ch c).eng e).run = false) → (t.ch c).eng e = (s.ch c).eng e)) ∧
  (∀ (s : State) (c : Ch) (e : Fin 8) (b : List (BitVec 24)), (s.ch c).live pgPAWN = true → ((s.ch c).eng e).run = true →
    ((s.ch c).eng e).delay ≠ 0 →
    ∃ t, Sys2Proof.Machine.exec (.pawnEngineStep c e b) s = .next t ∧
      (t.ch c).eng e = { (s.ch c).eng e with
        delay := ((s.ch c).eng e).delay - 1, stall := false, prev := levels s c b, stepped := true,
        div := ((t.ch c).eng e).div }) ∧
  (∀ (s : State) (c : Ch) (e : Fin 8) (b : List (BitVec 24)) (w : Nat), Executes (s.ch c) e w → pawnLegal w = false →
    ∃ t, Sys2Proof.Machine.exec (.pawnEngineStep c e b) s = .next t ∧
      ((t.ch c).eng e).run = false ∧ ((t.ch c).eng e).halted = true ∧ ((t.ch c).eng e).illegal = true ∧
      ((t.ch c).eng e).pc = ((s.ch c).eng e).pc ∧
      Recorded (s.ch c) (t.ch c) pgPAWN 0x10 0 (BitVec.ofNat 32 (((s.ch c).ebase e + ((s.ch c).eng e).pc) % 512))) ∧
  (∀ (s : State) (c : Ch) (e : Fin 8) (b : List (BitVec 24)) (w : Nat), Executes (s.ch c) e w → w / 4096 = 15 → w % 1024 = 256 →
    ∃ t, Sys2Proof.Machine.exec (.pawnEngineStep c e b) s = .next t ∧
      ((t.ch c).eng e).run = false ∧ ((t.ch c).eng e).halted = true ∧
      ((t.ch c).eng e).illegal = ((s.ch c).eng e).illegal ∧ ((t.ch c).eng e).pc = ((s.ch c).eng e).pc) ∧
  (∀ (s : State) (c : Ch) (e : Fin 8) (b : List (BitVec 24)) (w : Nat), Executes (s.ch c) e w → w / 4096 = 6 → w / 256 % 4 = 2 →
    ∃ t, Sys2Proof.Machine.exec (.pawnEngineStep c e b) s = .next t ∧
      ((t.ch c).eng e).c0 = BitVec.ofNat 16 (w % 256) ∧ ((t.ch c).eng e).pc = (((s.ch c).eng e).pc + 1) % 128 ∧
      ((t.ch c).eng e).delay = ((s.ch c).eng e).pace (w / 1024 % 4) ∧ ((t.ch c).eng e).run = true ∧
      ((t.ch c).eng e).a = ((s.ch c).eng e).a ∧ ((t.ch c).eng e).s = ((s.ch c).eng e).s ∧
      ((t.ch c).eng e).c1 = ((s.ch c).eng e).c1) ∧
  (∀ (s : State) (c : Ch) (e : Fin 8) (b : List (BitVec 24)) (w : Nat), Executes (s.ch c) e w → w / 4096 = 0 → w / 128 % 8 = 0 →
    ∃ t, Sys2Proof.Machine.exec (.pawnEngineStep c e b) s = .next t ∧
      ((t.ch c).eng e).pc = w % 128 ∧ ((t.ch c).eng e).run = true ∧ ((t.ch c).eng e).c0 = ((s.ch c).eng e).c0) ∧
  (∀ (s : State) (c : Ch) (e : Fin 8) (b : List (BitVec 24)) (w : Nat), Executes (s.ch c) e w → w / 4096 = 0 →
    (w / 128 % 8 = 2 → ∃ t, Sys2Proof.Machine.exec (.pawnEngineStep c e b) s = .next t ∧
      ((t.ch c).eng e).pc = (if ((s.ch c).eng e).c0 ≠ 0 then w % 128 else (((s.ch c).eng e).pc + 1) % 128) ∧
      ((t.ch c).eng e).c0 = ((s.ch c).eng e).c0 - 1 ∧ ((t.ch c).eng e).run = true) ∧
    (w / 128 % 8 = 7 → ∃ t, Sys2Proof.Machine.exec (.pawnEngineStep c e b) s = .next t ∧
      ((t.ch c).eng e).pc = (if ((s.ch c).eng e).n <
          (if ((s.ch c).engReg e 0x0C).field 9 5 = 0 then 32 else ((s.ch c).engReg e 0x0C).field 9 5) then w % 128
        else (((s.ch c).eng e).pc + 1) % 128) ∧ ((t.ch c).eng e).c0 = ((s.ch c).eng e).c0)) ∧
  (∀ (s : State) (c : Ch) (e : Fin 8) (b : List (BitVec 24)) (w p : Nat), Executes (s.ch c) e w → w / 4096 = 10 →
    w % 1024 = p → p < 24 →
    ∃ t, Sys2Proof.Machine.exec (.pawnEngineStep c e b) s = .next t ∧
      ((t.ch c).eng e).f = (levels s c b).getLsbD p ∧ ((t.ch c).eng e).pc = (((s.ch c).eng e).pc + 1) % 128) ∧
  (∀ (s : State) (c : Ch) (e : Fin 8) (b : List (BitVec 24)) (w i : Nat), Executes (s.ch c) e w → w / 4096 = 9 →
    w % 1024 = i → i < 8 →
    ∃ t, Sys2Proof.Machine.exec (.pawnEngineStep c e b) s = .next t ∧
      ((t.ch c).reg pgPAWN 0x04C).bit i = true ∧ ((t.ch c).eng e).pc = (((s.ch c).eng e).pc + 1) % 128) ∧
  (∀ (s : State) (c : Ch) (e : Fin 8) (b : List (BitVec 24)) (w p : Nat), Executes (s.ch c) e w → w / 4096 = 8 →
    w % 1024 = 256 + p → p < 24 →
    ∃ t, Sys2Proof.Machine.exec (.pawnEngineStep c e b) s = .next t ∧
      ((t.ch c).eng e).pc = (((s.ch c).eng e).pc + 1) % 128 ∧
      (t.ch c).pawn.outL.getLsbD p = ((s.ch c).pawn.outL.getLsbD p || (s.ch c).pinOwner p = e) ∧
      (t.ch c).pawn.dirL.getLsbD p = ((s.ch c).pawn.dirL.getLsbD p || (s.ch c).pinOwner p = e) ∧
      ∀ q, q < 24 → q ≠ p → (t.ch c).pawn.outL.getLsbD q = (s.ch c).pawn.outL.getLsbD q) ∧
  (∀ (s : State) (c : Ch) (e : Fin 8) (b : List (BitVec 24)) (w p : Nat), Executes (s.ch c) e w → w / 4096 = 1 →
    w % 1024 = 64 + p → p < 24 → (levels s c b).getLsbD p = false →
    ∃ t, Sys2Proof.Machine.exec (.pawnEngineStep c e b) s = .next t ∧
      ((t.ch c).eng e).pc = ((s.ch c).eng e).pc ∧ ((t.ch c).eng e).stall = true ∧ ((t.ch c).eng e).run = true)

/-- Starting and stopping engines, their FIFOs, the IRQ flags and the drain units. GO starts an engine at its START with its registers
zero, STOP stops it, and in a disabled block GO starts none; TXF takes a word while it has room, and records an overflow when it is
full; RXF gives its oldest word, to a host function as the answer, and records an underflow when it is empty; a FIFO that is not there
or that a drain unit serves is refused with STATE; PAWN_IRQSET sets and PAWN_IRQ clears flags; the drain unit moves the oldest word of
RX to the ring in SRAM, the fill unit a word of the ring to TX, each advancing its pointer, and one that is refused stops; a unit that is
off, stopped or has nothing to move does nothing; a write of STOPPED lets a stopped unit go on (09 R259 to R262, R264, R268). -/
def Obligations.PawnControls : Prop :=
  (∀ (s : State) (snd : Sender) (c : Ch) (v : Word) (e : Fin 8), s.reaches snd c → Own snd → Free s c pgPAWN → (s.ch c).live pgPAWN = true →
    ∃ t, Sys2Proof.Machine.exec (.pawnGo snd c v) s = .next t ∧ (t.ch c).sram = (s.ch c).sram ∧
      (v.bit (8 + e) = true → (t.ch c).eng e = { (s.ch c).eng e with run := false }) ∧
      (v.bit (8 + e) = false → v.bit e = false → (t.ch c).eng e = (s.ch c).eng e) ∧
      (v.bit (8 + e) = false → v.bit e = true →
        ((t.ch c).eng e).run = true ∧ ((t.ch c).eng e).pc = ((s.ch c).engReg e 0).field 9 6 ∧
        ((t.ch c).eng e).a = 0 ∧ ((t.ch c).eng e).s = 0 ∧ ((t.ch c).eng e).c0 = 0 ∧ ((t.ch c).eng e).c1 = 0 ∧
        ((t.ch c).eng e).n = 0 ∧ ((t.ch c).eng e).f = false ∧ ((t.ch c).eng e).fresh = false ∧
        ((t.ch c).eng e).halted = false ∧ ((t.ch c).eng e).illegal = false)) ∧
  (∀ (s : State) (snd : Sender) (c : Ch) (v : Word) (e : Fin 8), s.reaches snd c → Own snd → Free s c pgPAWN →
    (s.ch c).live pgPAWN = false →
    ∃ t, Sys2Proof.Machine.exec (.pawnGo snd c v) s = .next t ∧
      (t.ch c).eng e = (if v.bit (8 + e) then { (s.ch c).eng e with run := false } else (s.ch c).eng e)) ∧
  (∀ (s : State) (snd : Sender) (c : Ch) (v : Word) (e : Fin 8), s.reaches snd c → Own snd → Free s c pgPAWN →
    ∃ t, Sys2Proof.Machine.exec (.pawnStop snd c v) s = .next t ∧
      (t.ch c).eng e = (if v.bit (8 + e) then { (s.ch c).eng e with run := false } else (s.ch c).eng e)) ∧
  (∀ (s : State) (snd : Sender) (c : Ch) (v : Word) (e : Fin 8), s.reaches snd c → Own snd → Free s c pgPAWN →
    ((s.ch c).eng e).depth ≠ 1 → (s.ch c).drainOn e true = false →
    ∃ t, Sys2Proof.Machine.exec (.pawnTxfPush snd c e v) s = .next t ∧
      if ((s.ch c).eng e).tx.length < ((s.ch c).eng e).txCap then
        (t.ch c).eng e = { (s.ch c).eng e with tx := ((s.ch c).eng e).tx ++ [v] }
      else (t.ch c).eng e = { (s.ch c).eng e with txovf := true } ∧
        Recorded (s.ch c) (t.ch c) pgPAWN 0x11 snd.id (regAddr pgPAWN (0x100 + 0x40 * e.val + 0x14))) ∧
  (∀ (s : State) (snd : Sender) (c : Ch) (e : Fin 8), s.reaches snd c → Own snd → Free s c pgPAWN →
    ((s.ch c).eng e).depth ≠ 2 → (s.ch c).drainOn e false = false →
    ∃ t, Sys2Proof.Machine.exec (.pawnRxfPop snd c e) s = .next t ∧
      if ((s.ch c).eng e).rx = [] then (t.ch c).eng e = { (s.ch c).eng e with rxunf := true } ∧
        Recorded (s.ch c) (t.ch c) pgPAWN 0x12 snd.id (regAddr pgPAWN (0x100 + 0x40 * e.val + 0x18))
      else (t.ch c).eng e = { (s.ch c).eng e with rx := ((s.ch c).eng e).rx.drop 1 } ∧
        (snd = .pf → Answered s t (.pf c) (.inl (bytesLE 4 (((s.ch c).eng e).rx.headD 0).toNat)))) ∧
  (∀ (s : State) (snd : Sender) (c : Ch) (v : Word) (e : Fin 8), s.reaches snd c → Own snd → Free s c pgPAWN →
    (((s.ch c).eng e).depth = 1 ∨ (s.ch c).drainOn e true = true →
      ∃ t, Sys2Proof.Machine.exec (.pawnTxfPush snd c e v) s = .next t ∧ (t.ch c).eng e = (s.ch c).eng e ∧
        Recorded (s.ch c) (t.ch c) pgPAWN cSTATE snd.id (regAddr pgPAWN (0x100 + 0x40 * e.val + 0x14))) ∧
    (((s.ch c).eng e).depth = 2 ∨ (s.ch c).drainOn e false = true →
      ∃ t, Sys2Proof.Machine.exec (.pawnRxfPop snd c e) s = .next t ∧ (t.ch c).eng e = (s.ch c).eng e ∧
        Recorded (s.ch c) (t.ch c) pgPAWN cSTATE snd.id (regAddr pgPAWN (0x100 + 0x40 * e.val + 0x18)))) ∧
  (∀ (s : State) (snd : Sender) (c : Ch) (v : Word), s.reaches snd c → Own snd → Free s c pgPAWN →
    ∃ t, Sys2Proof.Machine.exec (.pawnIrqset snd c v) s = .next t ∧ (t.ch c).pawn.eng = (s.ch c).pawn.eng ∧
      ∀ b : Fin 8, ((t.ch c).reg pgPAWN 0x04C).bit b = (((s.ch c).reg pgPAWN 0x04C).bit b || v.bit b)) ∧
  (∀ (s : State) (snd : Sender) (c : Ch) (v : Word), s.reaches snd c → Own snd → Free s c pgPAWN →
    ∃ t, Sys2Proof.Machine.exec (.pawnIrqClear snd c v) s = .next t ∧ (t.ch c).pawn.eng = (s.ch c).pawn.eng ∧
      ∀ b : Fin 8, ((t.ch c).reg pgPAWN 0x04C).bit b = (((s.ch c).reg pgPAWN 0x04C).bit b && !v.bit b)) ∧
  (∀ (s : State) (c : Ch) (e : Fin 8) (w : Word) (ws : List Word), (s.ch c).live pgPAWN = true →
    (s.ch c).drainOn e false = true → (s.ch c).drainStopped e = false → ((s.ch c).eng e).rx = w :: ws →
    ((s.ch c).drainHw e + 4) % (s.ch c).drainBytes e ≠ (s.ch c).drainSw e → (s.ch c).ecc = Ecc.reset →
    ((s.ch c).settled mPAWN ((s.ch c).drainBase e + (s.ch c).drainHw e) 4 true ≠ .refused →
      ∃ t, Sys2Proof.Machine.exec (.pawnDrainWord c e) s = .next t ∧
        (t.ch c).eng e = { (s.ch c).eng e with rx := ws } ∧
        (t.ch c).drainHw e = ((s.ch c).drainHw e + 4) % (s.ch c).drainBytes e ∧
        (t.ch c).sram = (s.ch c).sram.write ((s.ch c).drainBase e + (s.ch c).drainHw e) ((bytesLE 4 w.toNat).map some)) ∧
    ((s.ch c).settled mPAWN ((s.ch c).drainBase e + (s.ch c).drainHw e) 4 true = .refused →
      ∃ t, Sys2Proof.Machine.exec (.pawnDrainWord c e) s = .next t ∧ (t.ch c).drainStopped e = true ∧
        (t.ch c).eng e = (s.ch c).eng e ∧ (t.ch c).drainHw e = (s.ch c).drainHw e ∧ (t.ch c).sram = (s.ch c).sram)) ∧
  (∀ (s : State) (c : Ch) (e : Fin 8), (s.ch c).live pgPAWN = true →
    (s.ch c).drainOn e true = true → (s.ch c).drainStopped e = false → (s.ch c).drainHw e ≠ (s.ch c).drainSw e →
    ((s.ch c).eng e).tx.length < ((s.ch c).eng e).txCap → (s.ch c).ecc = Ecc.reset →
    (s.ch c).settled mPAWN ((s.ch c).drainBase e + (s.ch c).drainHw e) 4 false ≠ .refused →
    (s.ch c).canWatches .u0 = false → (s.ch c).canWatches .u1 = false →
    ∃ t, Sys2Proof.Machine.exec (.pawnFillWord c e) s = .next t ∧ (t.ch c).sram = (s.ch c).sram ∧
      (t.ch c).eng e = { (s.ch c).eng e with tx := ((s.ch c).eng e).tx ++
        [wordAt ((s.ch c).sram.read ((s.ch c).drainBase e + (s.ch c).drainHw e) 4) 0] } ∧
      (t.ch c).drainHw e = ((s.ch c).drainHw e + 4) % (s.ch c).drainBytes e) ∧
  (∀ (s : State) (c : Ch) (e : Fin 8),
    ((s.ch c).live pgPAWN = false ∨ (s.ch c).drainOn e false = false ∨ (s.ch c).drainStopped e = true ∨
      ((s.ch c).eng e).rx = [] ∨ ((s.ch c).drainHw e + 4) % (s.ch c).drainBytes e = (s.ch c).drainSw e →
      Sys2Proof.Machine.exec (.pawnDrainWord c e) s = .next s) ∧
    ((s.ch c).live pgPAWN = false ∨ (s.ch c).drainOn e true = false ∨ (s.ch c).drainStopped e = true ∨
      ((s.ch c).eng e).txCap ≤ ((s.ch c).eng e).tx.length ∨ (s.ch c).drainHw e = (s.ch c).drainSw e →
      Sys2Proof.Machine.exec (.pawnFillWord c e) s = .next s)) ∧
  (∀ (s : State) (c : Ch) (e : Fin 8), (s.ch c).live pgPAWN = true →
    (s.ch c).drainOn e true = true → (s.ch c).drainStopped e = false → (s.ch c).drainHw e ≠ (s.ch c).drainSw e →
    ((s.ch c).eng e).tx.length < ((s.ch c).eng e).txCap →
    (s.ch c).settled mPAWN ((s.ch c).drainBase e + (s.ch c).drainHw e) 4 false = .refused →
    ∃ t, Sys2Proof.Machine.exec (.pawnFillWord c e) s = .next t ∧ (t.ch c).drainStopped e = true ∧
      (t.ch c).eng e = (s.ch c).eng e ∧ (t.ch c).drainHw e = (s.ch c).drainHw e ∧ (t.ch c).sram = (s.ch c).sram) ∧
  (∀ (s : State) (snd : Sender) (c : Ch) (e : Fin 8), s.reaches snd c → Own snd → Free s c pgPAWN →
    ∃ t, Sys2Proof.Machine.exec (.pawnDrainResume snd c e) s = .next t ∧ (t.ch c).drainStopped e = false ∧
      (t.ch c).pawn.eng = (s.ch c).pawn.eng ∧ (t.ch c).drainHw e = (s.ch c).drainHw e)

/-! ## Die units and the carry check (10) -/

/-- A Die unit: START loads STATE from SEED and zeroes COUNT; a feed folds its bytes into STATE and counts them, words low byte first;
MARK sets DONE and raises EVT_DIE_DONE; STATE is written; on a page that is not enabled START, MARK and a feed are refused with STATE
(10 R272, R275, R277, R284). -/
def Obligations.DieUnits : Prop :=
  (∀ (s : State) (snd : Sender) (c : Ch) (u : Fin 8), s.reaches snd c → Own snd → Free s c pgDIE →
    (s.ch c).enabled pgDIE = true →
    Sys2Proof.Machine.exec (.dieStart snd c u) s = .next (s.setCh c (((s.ch c).setReg pgDIE (dieU u + 0x08)
      ((s.ch c).reg pgDIE (dieU u + 0x04))).setReg pgDIE (dieU u + 0x10) 0))) ∧
  (∀ (s : State) (snd : Sender) (c : Ch) (u : Fin 8) (v : Word), s.reaches snd c → Own snd → Free s c pgDIE →
    (s.ch c).enabled pgDIE = true →
    Sys2Proof.Machine.exec (.dieFeed8 snd c u v) s = .next (s.setCh c (((s.ch c).setReg pgDIE (dieU u + 0x08)
      (BitVec.ofNat 32 (dieFold u ((s.ch c).dieState u) (bytesLE 1 v.toNat)))).setReg pgDIE (dieU u + 0x10)
        ((s.ch c).reg pgDIE (dieU u + 0x10) + 1))) ∧
    Sys2Proof.Machine.exec (.dieFeed16 snd c u v) s = .next (s.setCh c (((s.ch c).setReg pgDIE (dieU u + 0x08)
      (BitVec.ofNat 32 (dieFold u ((s.ch c).dieState u) (bytesLE 2 v.toNat)))).setReg pgDIE (dieU u + 0x10)
        ((s.ch c).reg pgDIE (dieU u + 0x10) + 2)))) ∧
  (∀ (s : State) (snd : Sender) (c : Ch) (u : Fin 8) (ws : List Word), s.reaches snd c → Own snd → Free s c pgDIE →
    (s.ch c).enabled pgDIE = true →
    ∃ t, Sys2Proof.Machine.exec (.dieFeed32 snd c u ws) s = .next t ∧ RegsOnly (s.ch c) (t.ch c) ∧
      (t.ch c).reg pgDIE (dieU u + 0x10) = (s.ch c).reg pgDIE (dieU u + 0x10) + BitVec.ofNat 32 (4 * ws.length) ∧
      (t.ch c).reg pgDIE (dieU u + 0x08) = ws.foldl (fun st w => BitVec.ofNat 32 (dieFold u st.toNat (bytesLE 4 w.toNat)))
        ((s.ch c).reg pgDIE (dieU u + 0x08)) ∧
      (∀ d : Fin 8, d ≠ u → (t.ch c).reg pgDIE (dieU d + 0x08) = (s.ch c).reg pgDIE (dieU d + 0x08))) ∧
  (∀ (s : State) (snd : Sender) (c : Ch) (u : Fin 8), s.reaches snd c → Own snd → Free s c pgDIE →
    (s.ch c).enabled pgDIE = true →
    ∃ t, Sys2Proof.Machine.exec (.dieMark snd c u) s = .next t ∧ RegsOnly (s.ch c) (t.ch c) ∧
      ((t.ch c).reg pgDIE 0x040).bit u = true ∧ ((t.ch c).reg pgDIE 0x014).bit 0 = true ∧
      (t.ch c).reg pgDIE (dieU u + 0x08) = (s.ch c).reg pgDIE (dieU u + 0x08)) ∧
  (∀ (s : State) (snd : Sender) (c : Ch) (u : Fin 8) (v : Word), s.reaches snd c → Own snd → Free s c pgDIE →
    (s.ch c).rejects pgDIE (dieU u + 0x08) v = false →
    ∃ t, Sys2Proof.Machine.exec (.dieStateWrite snd c u v) s = .next t ∧ RegsOnly (s.ch c) (t.ch c) ∧
      ∀ b : Fin 8, ((t.ch c).reg pgDIE (dieU u + 0x08)).bit b = v.bit b) ∧
  (∀ (s : State) (snd : Sender) (c : Ch) (u : Fin 8) (v : Word), s.reaches snd c → Own snd → Free s c pgDIE →
    (s.ch c).enabled pgDIE = false →
    ∀ p ∈ [(Instr.dieFeed8 snd c u v, 0x34), (.dieFeed16 snd c u v, 0x30), (.dieFeed32 snd c u [v], 0x20), (.dieStart snd c u, 0),
      (.dieMark snd c u, 0)],
    ∃ t, Sys2Proof.Machine.exec p.1 s = .next t ∧ FaultOnly (s.ch c) (t.ch c) pgDIE ∧
      Recorded (s.ch c) (t.ch c) pgDIE cSTATE snd.id (regAddr pgDIE (dieU u + p.2)) ∧
      (t.ch c).reg pgDIE (dieU u + 0x08) = (s.ch c).reg pgDIE (dieU u + 0x08))

/-- Carry probes and re-tags: a probe of an idle checker makes it busy; behind a running one a probe or re-tag waits; its end reports
the stored tag, the CRC-32C of the block's data and whether they match, a mismatch counted and raised; one that ownership refuses
reports DENIED; a re-tag makes the tag agree with the data; an address outside SRAM is rejected with RSVD; the end of a probe where none
runs changes nothing; the failure counter clears by reading (10 R274, R282, R288, R290). -/
def Obligations.CarryCheck : Prop :=
  (∀ (s : State) (snd : Sender) (c : Ch) (v : Word), s.reaches snd c → Own snd → Free s c pgCARRY →
    inSram (v.toNat / 64 * 64) 64 = true → (s.ch c).carryOps = [] →
    Sys2Proof.Machine.exec (.carryProbe snd c v) s = .next (s.setCh c
      { (s.ch c).setReg pgCARRY 0x04C (((s.ch c).reg pgCARRY 0x04C).setField 0 1 1) with
        carryOps := [⟨snd, false, (v.toNat / 64 * 64 - SRAM0) / 64⟩] })) ∧
  (∀ (s : State) (c : Ch) (snd : Sender) (b : Nat), (s.ch c).boot = .run → (s.ch c).carryOps = [⟨snd, false, b⟩] →
    (s.ch c).ecc = Ecc.reset → (s.ch c).settled (carryMaster snd) (SRAM0 + b * 64) 64 false ≠ .refused →
    ∃ t, Sys2Proof.Machine.exec (.probeEnd c) s = .next t ∧ (t.ch c).carryOps = [] ∧ (t.ch c).sram = (s.ch c).sram ∧
      (t.ch c).tagDiff = (s.ch c).tagDiff ∧ (t.ch c).reg pgCARRY 0x050 = (s.ch c).carryTag b ∧
      (t.ch c).reg pgCARRY 0x054 = BitVec.ofNat 32 (crc32c ((s.ch c).sram.read (SRAM0 + b * 64) 64)) ∧
      (if (SMap.get? (s.ch c).tagDiff b).getD 0 = 0 then (t.ch c).reg pgCARRY 0x04C = 2 ∧
          (t.ch c).reg pgCARRY 0x044 = (s.ch c).reg pgCARRY 0x044
        else (t.ch c).reg pgCARRY 0x04C = 0 ∧ ((t.ch c).reg pgCARRY 0x014).bit 0 = true ∧
          ((s.ch c).reg pgCARRY 0x044 ≠ 0xFFFFFFFF → (t.ch c).reg pgCARRY 0x044 = (s.ch c).reg pgCARRY 0x044 + 1))) ∧
  (∀ (s : State) (snd : Sender) (c : Ch) (v : Word), s.reaches snd c → Own snd → Free s c pgCARRY →
    inSram (v.toNat / 64 * 64) 64 = true → (s.ch c).carryOps = [] → (s.ch c).ecc = Ecc.reset →
    (s.ch c).settled (carryMaster snd) (v.toNat / 64 * 64) 64 true ≠ .refused →
    ∃ t, Sys2Proof.Machine.exec (.carryRetag snd c v) s = .next t ∧ (t.ch c).sram = (s.ch c).sram ∧
      (t.ch c).carryTag ((v.toNat / 64 * 64 - SRAM0) / 64) =
        BitVec.ofNat 32 (crc32c ((s.ch c).sram.read (v.toNat / 64 * 64) 64)) ∧ (t.ch c).carryOps = [] ∧
      ∀ b, b ≠ (v.toNat / 64 * 64 - SRAM0) / 64 → (t.ch c).carryTag b = (s.ch c).carryTag b) ∧
  (∀ (s : State) (snd : Sender) (c : Ch) (v : Word), s.reaches snd c → Own snd → Free s c pgCARRY →
    (inSram (v.toNat / 64 * 64) 64 = true → (s.ch c).carryOps ≠ [] →
      Sys2Proof.Machine.exec (.carryProbe snd c v) s = .next (s.setCh c
        { s.ch c with carryOps := (s.ch c).carryOps ++ [⟨snd, false, (v.toNat / 64 * 64 - SRAM0) / 64⟩] }) ∧
      Sys2Proof.Machine.exec (.carryRetag snd c v) s = .next (s.setCh c
        { s.ch c with carryOps := (s.ch c).carryOps ++ [⟨snd, true, (v.toNat / 64 * 64 - SRAM0) / 64⟩] })) ∧
    (inSram (v.toNat / 64 * 64) 64 = false →
      (∃ t, Sys2Proof.Machine.exec (.carryProbe snd c v) s = .next t ∧ FaultOnly (s.ch c) (t.ch c) pgCARRY ∧
        Recorded (s.ch c) (t.ch c) pgCARRY cRSVD snd.id (regAddr pgCARRY 0x048)) ∧
      ∃ t, Sys2Proof.Machine.exec (.carryRetag snd c v) s = .next t ∧ FaultOnly (s.ch c) (t.ch c) pgCARRY ∧
        Recorded (s.ch c) (t.ch c) pgCARRY cRSVD snd.id (regAddr pgCARRY 0x058))) ∧
  (∀ (s : State) (c : Ch) (snd : Sender) (b : Nat), (s.ch c).carryOps = [⟨snd, false, b⟩] →
    (s.ch c).settled (carryMaster snd) (SRAM0 + b * 64) 64 false = .refused →
    ∃ t, Sys2Proof.Machine.exec (.probeEnd c) s = .next t ∧ (t.ch c).carryOps = [] ∧ (t.ch c).reg pgCARRY 0x04C = 4 ∧
      Recorded (s.ch c) (t.ch c) pgREGION 0x10 snd.id (BitVec.ofNat 32 (SRAM0 + b * 64))) ∧
  (∀ (s : State) (c : Ch), (s.ch c).carryOps = [] → Sys2Proof.Machine.exec (.probeEnd c) s = .next s) ∧
  (∀ (s : State) (c : Ch), (s.ch c).boot = .run → Free s c pgCARRY →
    Sys2Proof.Machine.exec (.carryFailcntRead .rook c) s = .next (s.setCh c ((s.ch c).setReg pgCARRY 0x044 0))) ∧
  (∀ (s : State) (snd : Sender) (c : Ch), s.reaches snd c → snd = .pf ∨ (snd = .pf4 ∧ (s.ch c).granted = true) →
    Free s c pgCARRY →
    ∃ t, Sys2Proof.Machine.exec (.carryFailcntRead snd c) s = .next t ∧ t.ch c = (s.ch c).setReg pgCARRY 0x044 0 ∧
      Answered s t (senderFn snd c) (.inl (bytesLE 4 ((s.ch c).reg pgCARRY 0x044).toNat)))

/-! ## Ethernet, classifier, scheduler (11, 12, 13) -/

namespace Sys2Proof.Claims

/-- No CAN controller of the channel watches reads of its objects (14 R377). -/
abbrev Unwatched (k : Channel) : Prop := k.canWatches .u0 = false ∧ k.canWatches .u1 = false

/-- Every block of a range has a carry tag that agrees with its data (10 R274). -/
abbrev TagsAgree (k : Channel) (a len : Nat) : Prop := ∀ b ∈ blocksOf a len, (SMap.get? k.tagDiff b).getD 0 = 0

/-- The channel as the first byte of the frame in reception on port p found it. -/
def atFirst (k : Channel) (p : Port) : Channel := { k with regs := (k.rxOpen p).regs }

/-- A frame without its FCS. -/
abbrev body (frame : List Byte) : List Byte := frame.take (frame.length - 4)

/-- Port p of channel c takes in what comes, and has room for a frame. -/
abbrev Receives (s : State) (c : Ch) (p : Port) (frame : List Byte) : Prop :=
  (s.ch c).live (pgEth p) = true ∧ (s.ch c).linkUp p = true ∧ (s.node c).ethInput p = true ∧
  ((s.ch c).eth p).rxUsed + frame.length ≤ 32768

/-- The senders whose read of a block register of a channel is answered: the Rook, the PF, and PF4 under its grant. -/
abbrev Reader (s : State) (snd : Sender) (c : Ch) : Prop := Own snd ∨ (snd = .pf4 ∧ (s.ch c).granted = true)

/-- The counter of a port or page is one higher. -/
abbrev Counted (k k' : Channel) (page i : Nat) : Prop := k'.reg page (0x100 + 4 * i) = k.reg page (0x100 + 4 * i) + 1

end Sys2Proof.Claims

namespace Sys2Proof.Claims

/-- Receiving. The first byte of a frame fixes the registers that judge it; a port that works, with its link and its supply, takes the
frame in. A good frame addressed to the node and admitted takes a pool buffer, is stored there and joins the classifier's
backlog; one not admitted is not stored; in the modes that filter by address, one not addressed only counts; one with an error only counts its
error, one that the receive buffer has no room for its overflow. In ring mode a frame of the node's own is dropped and counted, and one for others joins the
other port's queue with its carry tags and keeps its room. What comes to a port that does not work changes nothing (01 R29,
10 R274, 11 R292 to R296, R305 to R307, R312, 12 R314, 13 R356). -/
def EthernetReceive : Prop :=
  (∀ (s : State) (c : Ch) (p : Port) (phyErr : Bool) (stamp : DWord), (s.ch c).hears p = true → (s.node c).ethInput p = true →
    Sys2Proof.Machine.exec (.ethRxFrame c p .first phyErr stamp) s = .next (s.setCh c ((s.ch c).setEth p
      { (s.ch c).eth p with rx := some ((s.ch c).rxOpen p) }))) ∧
  (∀ (s : State) (c : Ch) (p : Port) (r : EthRx) (phyErr : Bool) (stamp : DWord),
    (s.ch c).hears p = false ∨ (s.node c).ethInput p = false →
    Sys2Proof.Machine.exec (.ethRxFrame c p r phyErr stamp) s = .next s) ∧
  (∀ (s : State) (c : Ch) (p : Port) (frame : List Byte) (err : Bool) (stamp : DWord) (i : Nat) (l : List Nat),
    Receives s c p frame → (atFirst (s.ch c) p).rxError p frame err = none → (atFirst (s.ch c) p).portMode = 0 →
    (atFirst (s.ch c) p).addressed p (body frame) = true → (atFirst (s.ch c) p).tsFilt p = 0 →
    ((s.ch c).admits ((s.ch c).admitClass p (body frame)) (body frame).length).1 = true →
    (s.ch c).cls.free = i :: l → (s.ch c).ecc = Ecc.reset →
    (s.ch c).settled mETH ((s.ch c).bufAddr i) (body frame).length true ≠ .refused →
    ∃ t, Sys2Proof.Machine.exec (.ethRxFrame c p (.whole frame) err stamp) s = .next t ∧ (t.ch c).cls.free = l ∧
      (t.ch c).sram = (s.ch c).sram.write ((s.ch c).bufAddr i) ((body frame).map some) ∧
      (∃ dei, (t.ch c).cls.backlog = (s.ch c).cls.backlog ++ [⟨(s.ch c).bufAddr i, (body frame).length, p,
        stamp - BitVec.ofNat 64 (((atFirst (s.ch c) p).reg (pgEth p) 0x058).field 0 16), (body frame).take 128, dei⟩]) ∧
      ((t.ch c).eth p).rx = none ∧ Counted (s.ch c) (t.ch c) (pgEth p) 0 ∧
      (t.ch c).reg (pgEth p) 0x104 = (s.ch c).reg (pgEth p) 0x104 + BitVec.ofNat 32 frame.length) ∧
  (∀ (s : State) (c : Ch) (p : Port) (frame : List Byte) (err : Bool) (stamp : DWord),
    Receives s c p frame → (atFirst (s.ch c) p).rxError p frame err = none → (atFirst (s.ch c) p).portMode = 0 →
    (atFirst (s.ch c) p).addressed p (body frame) = true →
    ((s.ch c).admits ((s.ch c).admitClass p (body frame)) (body frame).length).1 = false →
    ∃ t, Sys2Proof.Machine.exec (.ethRxFrame c p (.whole frame) err stamp) s = .next t ∧
      (t.ch c).sram = (s.ch c).sram ∧ (t.ch c).cls.backlog = (s.ch c).cls.backlog ∧ (t.ch c).cls.free = (s.ch c).cls.free ∧
      (t.ch c).cls.dropNow = true ∧
      (t.ch c).reg pgSHAPE (0x500 + 4 * (s.ch c).admitClass p (body frame)) =
        (s.ch c).reg pgSHAPE (0x500 + 4 * (s.ch c).admitClass p (body frame)) + 1 ∧
      Counted (s.ch c) (t.ch c) (pgEth p) 0) ∧
  (∀ (s : State) (c : Ch) (p : Port) (frame : List Byte) (err : Bool) (stamp : DWord),
    Receives s c p frame → (atFirst (s.ch c) p).rxError p frame err = none → (atFirst (s.ch c) p).portMode ≠ 2 →
    (atFirst (s.ch c) p).addressed p (body frame) = false →
    ∃ t, Sys2Proof.Machine.exec (.ethRxFrame c p (.whole frame) err stamp) s = .next t ∧
      (t.ch c).sram = (s.ch c).sram ∧ (t.ch c).cls = (s.ch c).cls ∧ Counted (s.ch c) (t.ch c) (pgEth p) 8 ∧
      Counted (s.ch c) (t.ch c) (pgEth p) 0) ∧
  (∀ (s : State) (c : Ch) (p : Port) (frame : List Byte) (err : Bool) (stamp : DWord) (i : Nat),
    Receives s c p frame → (atFirst (s.ch c) p).rxError p frame err = some i →
    Sys2Proof.Machine.exec (.ethRxFrame c p (.whole frame) err stamp) s = .next (s.setCh c
      (((s.ch c).setEth p { (s.ch c).eth p with rx := none }).setReg (pgEth p) (0x100 + 4 * i)
        ((s.ch c).reg (pgEth p) (0x100 + 4 * i) + 1)))) ∧
  (∀ (s : State) (c : Ch) (p : Port) (frame : List Byte) (err : Bool) (stamp : DWord), (s.ch c).hears p = true →
    (s.node c).ethInput p = true → 32768 < ((s.ch c).eth p).rxUsed + frame.length →
    Sys2Proof.Machine.exec (.ethRxFrame c p (.whole frame) err stamp) s = .next (s.setCh c
      (((s.ch c).setEth p { (s.ch c).eth p with rx := none }).setReg (pgEth p) (0x100 + 4 * 6)
        ((s.ch c).reg (pgEth p) (0x100 + 4 * 6) + 1)))) ∧
  (∀ (s : State) (c : Ch) (p : Port) (frame : List Byte) (err : Bool) (stamp : DWord),
    Receives s c p frame → (atFirst (s.ch c) p).rxError p frame err = none → (atFirst (s.ch c) p).portMode = 2 →
    (srcAddr (body frame) = (atFirst (s.ch c) p).nodeAddr p →
      ∃ t, Sys2Proof.Machine.exec (.ethRxFrame c p (.whole frame) err stamp) s = .next t ∧
        (t.ch c).sram = (s.ch c).sram ∧ (t.ch c).cls = (s.ch c).cls ∧ (t.ch c).queues = (s.ch c).queues ∧
        Counted (s.ch c) (t.ch c) (pgEth p) 9) ∧
    (srcAddr (body frame) ≠ (atFirst (s.ch c) p).nodeAddr p → (atFirst (s.ch c) p).addressed p (body frame) = false →
      (s.ch c).qRoom p.other (((s.ch c).reg (pgEth p) 0x05C).field 0 3) = true →
      ∃ t, Sys2Proof.Machine.exec (.ethRxFrame c p (.whole frame) err stamp) s = .next t ∧
        (t.ch c).sram = (s.ch c).sram ∧ (t.ch c).cls = (s.ch c).cls ∧ Counted (s.ch c) (t.ch c) (pgEth p) 15 ∧
        (t.ch c).queue p.other (((s.ch c).reg (pgEth p) 0x05C).field 0 3) =
          (s.ch c).queue p.other (((s.ch c).reg (pgEth p) 0x05C).field 0 3) ++
            [⟨.pass p (body frame) (frameTags (body frame)), 0, (body frame).length⟩] ∧
        ((t.ch c).eth p).rxUsed = ((s.ch c).eth p).rxUsed + (body frame).length + 4))

/-- Transmitting. The frame the scheduler offers goes on the wire padded, with its FCS, or is not sent where a block of it fails the carry
check, or where the link is down ends DOWN; a forwarded frame whose tags no longer agree is not sent either; when the frame has been sent its
item's outcome is OK, a pool buffer it came from is free and the counters rise. With nothing to offer or nothing on the wire, nothing
changes (01 R29, 10 R280, 11 R291, R295, R297, R312, 12 R314, 13 R344, R347). -/
def EthernetTransmit : Prop :=
  (∀ (s : State) (c : Ch) (p : Port) (cl m : Nat) (q : QFrame) (rest : List QFrame),
    (s.ch c).live (pgEth p) = true → (s.ch c).live pgSHAPE = true → ((s.ch c).eth p).tx = none → (s.ch c).pairs p = false →
    [7, 6, 5, 4, 3, 2, 1, 0].find? (fun x => (s.ch c).eligible p x) = some cl → (s.ch c).queue p cl = q :: rest →
    q.src = .ring m → (s.ch c).ecc = Ecc.reset → (s.ch c).settled mETH q.addr q.len false ≠ .refused → Unwatched (s.ch c) →
    ∃ t, Sys2Proof.Machine.exec (.ethTransmitStart c p) s = .next t ∧ (t.ch c).sram = (s.ch c).sram ∧
      ((s.ch c).linkUp p = true → TagsAgree (s.ch c) q.addr q.len →
        ((t.ch c).eth p).tx = some ⟨cl, q, wireFrame ((s.ch c).sram.read q.addr q.len), false, false⟩ ∧
        (t.ch c).queue p cl = rest) ∧
      ((s.ch c).linkUp p = true → ¬ TagsAgree (s.ch c) q.addr q.len → ((t.ch c).eth p).tx = none ∧
        ((t.ch c).reg pgCARRY 0x014).bit 0 = true ∧ Counted (s.ch c) (t.ch c) (pgEth p) 12) ∧
      ((s.ch c).linkUp p = false → ((t.ch c).eth p).tx = none ∧ Counted (s.ch c) (t.ch c) (pgEth p) 14)) ∧
  (∀ (s : State) (c : Ch) (p rx : Port) (cl : Nat) (q : QFrame) (rest : List QFrame) (bytes : List Byte) (tags : List Word),
    (s.ch c).live (pgEth p) = true → (s.ch c).live pgSHAPE = true → ((s.ch c).eth p).tx = none → (s.ch c).pairs p = false →
    [7, 6, 5, 4, 3, 2, 1, 0].find? (fun x => (s.ch c).eligible p x) = some cl → (s.ch c).queue p cl = q :: rest →
    q.src = .pass rx bytes tags → (s.ch c).linkUp p = true →
    ∃ t, Sys2Proof.Machine.exec (.ethTransmitStart c p) s = .next t ∧ (t.ch c).queue p cl = rest ∧
      (tags = frameTags bytes → ((t.ch c).eth p).tx = some ⟨cl, q, wireFrame bytes, false, false⟩ ∧
        ((t.ch c).eth rx).rxUsed = ((s.ch c).eth rx).rxUsed) ∧
      (tags ≠ frameTags bytes → ((t.ch c).eth p).tx = none ∧ ((t.ch c).reg pgCARRY 0x014).bit 0 = true ∧
        Counted (s.ch c) (t.ch c) (pgEth p) 12 ∧
        ((t.ch c).eth rx).rxUsed = ((s.ch c).eth rx).rxUsed - (q.len + 4))) ∧
  (∀ (s : State) (c : Ch) (p : Port), (s.ch c).live (pgEth p) = false ∨ (s.ch c).live pgSHAPE = false ∨
    ((s.ch c).eth p).tx ≠ none ∨ (∀ x, x < 8 → (s.ch c).eligible p x = false) →
    Sys2Proof.Machine.exec (.ethTransmitStart c p) s = .next s) ∧
  (∀ (s : State) (c : Ch) (p : Port) (stamp : DWord) (x : TxFrame), (s.ch c).boot = .run →
    ((s.ch c).eth p).tx = some x → (s.ch c).prp.pair = none → x.pair = false →
    ∃ t, Sys2Proof.Machine.exec (.ethTransmitEnd c p stamp) s = .next t ∧ ((t.ch c).eth p).tx = none ∧
      Counted (s.ch c) (t.ch c) (pgEth p) 10 ∧
      (t.ch c).reg (pgEth p) (0x100 + 4 * 11) = (s.ch c).reg (pgEth p) (0x100 + 4 * 11) + BitVec.ofNat 32 x.bytes.length ∧
      (∀ m, x.q.src = .ring m → ((t.ch c).txRing p (m % 16)).items = ((s.ch c).txRing p (m % 16)).items.map fun it =>
        if it.idx = m / 16 ∧ it.outcome = none then { it with queued := false, outcome := some stOK } else it) ∧
      (∀ i, x.q.src = .classifier → (s.ch c).bufIdx x.q.addr = some i → (t.ch c).cls.free.contains i = true)) ∧
  (∀ (s : State) (c : Ch) (p : Port) (stamp : DWord), (s.ch c).boot ≠ .run ∨ ((s.ch c).eth p).tx = none →
    Sys2Proof.Machine.exec (.ethTransmitEnd c p stamp) s = .next s)

end Sys2Proof.Claims

/-- Ethernet frames: what a port takes in, and what goes out on its wire (01 R29, 10 R280, 11 R291 to R297, R307, R312, 12 R314,
13 R344, R347, R356). -/
def Obligations.EthernetFrames : Prop := EthernetReceive ∧ EthernetTransmit

/-- Ports beside their frames: a read of a stamp FIFO's first register, by whoever may read it, pops its oldest entry into the three
registers, and an empty FIFO leaves zeros; a link change sets LINK and speed, raises its event where they changed, and a link that goes down cuts
the frame on the wire and counts the frame in reception as a receive error; no link comes up on a port that does not work or has no supply; a write
of MDIO with BUSY starts a frame, one during a frame is refused with STATE; the frame's end clears BUSY and leaves a read's data, 0 from a
bank without supply; a LAN silent for PRP_LANTIMEOUT goes down with its event, one that is not is left as it is (11 R299, R304, R307 to R310, 18 R486). -/
def Obligations.EthernetPorts : Prop :=
  (∀ (s : State) (snd : Sender) (c : Ch) (p : Port) (e : TsEntry) (l : List TsEntry), s.reaches snd c → Reader s snd c →
    Free s c (pgEth p) → ((s.ch c).eth p).rxTs = e :: l →
    ∃ t, Sys2Proof.Machine.exec (.ethRxtsRead snd c p) s = .next t ∧ (t.ch c).eth p = { (s.ch c).eth p with rxTs := l } ∧
      (t.ch c).reg (pgEth p) 0x068 = BitVec.ofNat 32 e.time.toNat ∧
      (t.ch c).reg (pgEth p) 0x06C = BitVec.ofNat 32 (e.time.toNat / 2 ^ 32) ∧
      (t.ch c).reg (pgEth p) 0x070 = BitVec.ofNat 32 (e.seq + 65536 * e.msg + 2 ^ 20 * e.dom + 2 ^ 31) ∧
      (snd ≠ .rook → Answered s t (senderFn snd c) (.inl (bytesLE 4 (BitVec.ofNat 32 e.time.toNat).toNat)))) ∧
  (∀ (s : State) (snd : Sender) (c : Ch) (p : Port) (e : TsEntry) (l : List TsEntry), s.reaches snd c → Reader s snd c →
    Free s c (pgEth p) → ((s.ch c).eth p).txTs = e :: l →
    ∃ t, Sys2Proof.Machine.exec (.ethTxtsRead snd c p) s = .next t ∧ (t.ch c).eth p = { (s.ch c).eth p with txTs := l } ∧
      (t.ch c).reg (pgEth p) 0x078 = BitVec.ofNat 32 e.time.toNat ∧
      (t.ch c).reg (pgEth p) 0x07C = BitVec.ofNat 32 (e.time.toNat / 2 ^ 32) ∧
      (t.ch c).reg (pgEth p) 0x080 = BitVec.ofNat 32 (e.seq + 65536 * e.msg + 2 ^ 20 * e.dom + 2 ^ 31) ∧
      (snd ≠ .rook → Answered s t (senderFn snd c) (.inl (bytesLE 4 (BitVec.ofNat 32 e.time.toNat).toNat)))) ∧
  (∀ (s : State) (snd : Sender) (c : Ch) (p : Port), s.reaches snd c → Reader s snd c → Free s c (pgEth p) →
    (((s.ch c).eth p).rxTs = [] → ∃ t, Sys2Proof.Machine.exec (.ethRxtsRead snd c p) s = .next t ∧
      (t.ch c).eth p = (s.ch c).eth p ∧ (t.ch c).reg (pgEth p) 0x068 = 0 ∧ (t.ch c).reg (pgEth p) 0x06C = 0 ∧
      (t.ch c).reg (pgEth p) 0x070 = 0) ∧
    (((s.ch c).eth p).txTs = [] → ∃ t, Sys2Proof.Machine.exec (.ethTxtsRead snd c p) s = .next t ∧
      (t.ch c).eth p = (s.ch c).eth p ∧ (t.ch c).reg (pgEth p) 0x078 = 0 ∧ (t.ch c).reg (pgEth p) 0x07C = 0 ∧
      (t.ch c).reg (pgEth p) 0x080 = 0)) ∧
  (∀ (s : State) (c : Ch) (p : Port) (up : Bool) (speed : Fin 3), (s.ch c).live (pgEth p) = true →
    up = false ∨ (s.node c).ethInput p = true →
    ∃ t, Sys2Proof.Machine.exec (.linkChange c p up speed) s = .next t ∧
      (t.ch c).reg (pgEth p) 0x044 = BitVec.ofNat 32 (up.toNat +
        2 * (if ((s.ch c).ethCfg p).field 2 2 < 3 then ((s.ch c).ethCfg p).field 2 2 else speed.val)) ∧
      ((s.ch c).linkUp p ≠ up → ((t.ch c).reg (pgEth p) 0x014).bit 0 = true) ∧
      (up = true → (t.ch c).eth p = (s.ch c).eth p) ∧
      (up = false → ((t.ch c).eth p).tx = none ∧ ((t.ch c).eth p).rx = none ∧
        (((s.ch c).eth p).rx ≠ none → Counted (s.ch c) (t.ch c) (pgEth p) 5))) ∧
  (∀ (s : State) (c : Ch) (p : Port) (up : Bool) (speed : Fin 3),
    (s.ch c).live (pgEth p) = false ∨ (up = true ∧ (s.node c).ethInput p = false) →
    Sys2Proof.Machine.exec (.linkChange c p up speed) s = .next s) ∧
  (∀ (s : State) (snd : Sender) (c : Ch) (v : Word), s.reaches snd c → Own snd → Free s c pgETHA →
    ∃ t, Sys2Proof.Machine.exec (.mdioStart snd c v) s = .next t ∧ RegsOnly (s.ch c) (t.ch c) ∧
      ((t.ch c).reg pgETHA 0x090).bit 31 = true ∧
      (((s.ch c).reg pgETHA 0x090).bit 31 = false → ((t.ch c).reg pgETHA 0x090).field 0 16 = v.field 0 16) ∧
      (((s.ch c).reg pgETHA 0x090).bit 31 = true → (t.ch c).reg pgETHA 0x090 = (s.ch c).reg pgETHA 0x090 ∧
        Recorded (s.ch c) (t.ch c) pgETHA cSTATE snd.id (regAddr pgETHA 0x090))) ∧
  (∀ (s : State) (c : Ch) (data : Half), (s.ch c).boot = .run → ((s.ch c).reg pgETHA 0x090).bit 31 = true →
    ∃ t, Sys2Proof.Machine.exec (.mdioDone c data) s = .next t ∧ RegsOnly (s.ch c) (t.ch c) ∧
      ((t.ch c).reg pgETHA 0x090).bit 31 = false ∧
      ((t.ch c).reg pgETHA 0x090).field 0 16 =
        (if ((s.ch c).reg pgETHA 0x090).field 26 2 = 2 ∨
            (((s.ch c).reg pgETHA 0x090).bit 28 = true ∧ ((s.ch c).reg pgETHA 0x090).field 26 2 = 3) then
          (if (s.node c).fieldUp then data.toNat else 0)
         else ((s.ch c).reg pgETHA 0x090).field 0 16)) ∧
  (∀ (s : State) (c : Ch) (data : Half), (s.ch c).boot ≠ .run ∨ ((s.ch c).reg pgETHA 0x090).bit 31 = false →
    Sys2Proof.Machine.exec (.mdioDone c data) s = .next s) ∧
  (∀ (s : State) (c : Ch) (p : Port), (s.ch c).boot = .run → ((s.ch c).reg pgPRP 0x044).bit p.num = true →
    (match p with | .a => (s.ch c).prp.lastA | .b => (s.ch c).prp.lastB) + (s.ch c).lanNs ≤ (s.ch c).nowNs →
    ∃ t, Sys2Proof.Machine.exec (.prpLanTimeout c p) s = .next t ∧ RegsOnly (s.ch c) (t.ch c) ∧
      ((t.ch c).reg pgPRP 0x044).bit p.num = false ∧ ((t.ch c).reg pgPRP 0x014).bit 1 = true) ∧
  (∀ (s : State) (c : Ch) (p : Port), (s.ch c).boot ≠ .run ∨ ((s.ch c).reg pgPRP 0x044).bit p.num = false ∨
    (s.ch c).nowNs < (match p with | .a => (s.ch c).prp.lastA | .b => (s.ch c).prp.lastB) + (s.ch c).lanNs →
    Sys2Proof.Machine.exec (.prpLanTimeout c p) s = .next s)

namespace Sys2Proof.Claims

/-- The classifier. A walk takes the oldest frame of the backlog at the root of the active set, with nothing visited; it visits no more than 24
nodes and ends; one that comes to an EXCEPT node ends in an exception with its code; a walk that ends with drop frees the buffer, with forward
queues the frame or, where the queue is full, frees the buffer; with an exception it writes the entry and advances PROD, or frees the buffer where the
ring is off or full, or its tick's allowance is used up. Without a frame, without a walk, nothing changes (12 R314, R315, R317, R319, R320, R322,
R328, R329, R337, R338). -/
def Walks : Prop :=
  (∀ (s : State) (c : Ch) (fr : RxFrame) (rest : List RxFrame), (s.ch c).live pgCLS = true → (s.ch c).cls.walk = none →
    (s.ch c).cls.backlog = fr :: rest →
    ∃ t, Sys2Proof.Machine.exec (.walkStart c) s = .next t ∧ (t.ch c).cls = { (s.ch c).cls with
        backlog := rest, walk := some ⟨fr, (s.ch c).cls.version, (s.ch c).walkCfg,
          ⟨(s.ch c).walkCfg.root, 0, List.replicate 16 0, 0, (s.ch c).walkCfg.root, false, none⟩, false, none⟩ } ∧
      RegsOnly { s.ch c with cls := (t.ch c).cls } (t.ch c) ∧ Counted (s.ch c) (t.ch c) pgCLS 0) ∧
  (∀ (s : State) (c : Ch), (s.ch c).live pgCLS = false ∨ (s.ch c).cls.walk ≠ none ∨ (s.ch c).cls.backlog = [] →
    Sys2Proof.Machine.exec (.walkStart c) s = .next s) ∧
  (∀ (n : Node) (w : Walk) (f : Nat), (w.pos.visits ≤ 24 → (n.walkGo w f).2.pos.visits ≤ 24) ∧
    (n.walkGo w 25).2.res.isSome = true) ∧
  (∀ (s : State) (c : Ch) (w : Walk) (nd : List Byte), (s.ch c).boot = .run → (s.ch c).cls.walk = some w → w.res = none →
    w.pos.visits < 24 → (s.ch c).ecc = Ecc.reset → Unwatched (s.ch c) →
    (s.ch c).settled mCLS (w.cfg.graph + 16 * w.pos.node) 16 false ≠ .refused →
    (s.ch c).sram.read (w.cfg.graph + 16 * w.pos.node) 16 = nd → (wordAt nd 0).field 0 2 = 2 →
    Sys2Proof.Machine.exec (.walkEnd c) s = Sys2Proof.Machine.exec (.walkEnd c) (s.setCh c { s.ch c with
      cls := { (s.ch c).cls with walk := some { w with
        pos := { w.pos with visits := w.pos.visits + 1, last := w.pos.node },
        res := some (.exc 1 ((wordAt nd 12).field 16 8) 0 0) } } })) ∧
  (∀ (s : State) (c : Ch) (w : Walk) (a : Action) (r i : Nat), (s.ch c).boot = .run → (s.ch c).cls.walk = some w →
    w.res = some (.act a r) → a.polen = false → w.pos.store = none → (s.ch c).bufIdx w.frame.buf = some i →
    (a.dest = 0 → ∃ t, Sys2Proof.Machine.exec (.walkEnd c) s = .next t ∧ (t.ch c).cls.walk = none ∧
      (t.ch c).cls.free = (if (s.ch c).cls.free.contains i then (s.ch c).cls.free else (s.ch c).cls.free ++ [i]) ∧
      Counted (s.ch c) (t.ch c) pgCLS 3) ∧
    (a.dest = 1 → (s.ch c).qRoom a.port a.cls = true → ∃ t, Sys2Proof.Machine.exec (.walkEnd c) s = .next t ∧
      (t.ch c).cls.walk = none ∧ (t.ch c).cls.free = (s.ch c).cls.free ∧ Counted (s.ch c) (t.ch c) pgCLS 4 ∧
      (t.ch c).queue a.port a.cls = (s.ch c).queue a.port a.cls ++ [⟨.classifier, w.frame.buf, w.frame.len⟩]) ∧
    (a.dest = 1 → (s.ch c).qRoom a.port a.cls = false → ∃ t, Sys2Proof.Machine.exec (.walkEnd c) s = .next t ∧
      (t.ch c).cls.walk = none ∧ (t.ch c).cls.free.contains i = true ∧ (t.ch c).queues = (s.ch c).queues)) ∧
  (∀ (s : State) (c : Ch) (w : Walk) (r code st fa : Nat), (s.ch c).boot = .run → (s.ch c).cls.walk = some w →
    w.res = some (.exc r code st fa) → r < 5 → ((s.ch c).reg pgCLS 0x070).bit 0 = true →
    ((s.ch c).excProd + 1) % (s.ch c).excSize ≠ (s.ch c).excCons →
    (s.ch c).cls.excused ≠ ((s.ch c).reg pgCLS 0x054).field 0 10 → (s.ch c).ecc = Ecc.reset →
    (s.ch c).settled mCLS (((s.ch c).reg pgCLS 0x06C).toNat / 32 * 32 + 32 * (s.ch c).excProd) 32 true ≠ .refused →
    ∃ t, Sys2Proof.Machine.exec (.walkEnd c) s = .next t ∧ (t.ch c).cls.walk = none ∧
      (t.ch c).sram = (s.ch c).sram.write (((s.ch c).reg pgCLS 0x06C).toNat / 32 * 32 + 32 * (s.ch c).excProd)
        ((excEntry w r code st fa 0).map some) ∧
      (t.ch c).reg pgCLS 0x074 = BitVec.ofNat 32 (((s.ch c).excProd + 1) % (s.ch c).excSize) ∧
      (t.ch c).cls.excused = (s.ch c).cls.excused + 1 ∧ (t.ch c).cls.free = (s.ch c).cls.free ∧
      ((s.ch c).excProd = (s.ch c).excCons → ((t.ch c).reg pgCLS 0x014).bit 0 = true)) ∧
  (∀ (s : State) (c : Ch) (w : Walk) (r code st fa i : Nat), (s.ch c).boot = .run → (s.ch c).cls.walk = some w →
    w.res = some (.exc r code st fa) → r < 5 → (s.ch c).bufIdx w.frame.buf = some i →
    (((s.ch c).reg pgCLS 0x070).bit 0 = false ∨ ((s.ch c).excProd + 1) % (s.ch c).excSize = (s.ch c).excCons →
      ∃ t, Sys2Proof.Machine.exec (.walkEnd c) s = .next t ∧ (t.ch c).cls.walk = none ∧
        (t.ch c).cls.free.contains i = true ∧ (t.ch c).sram = (s.ch c).sram ∧ Counted (s.ch c) (t.ch c) pgCLS 8) ∧
    (((s.ch c).reg pgCLS 0x070).bit 0 = true → ((s.ch c).excProd + 1) % (s.ch c).excSize ≠ (s.ch c).excCons →
      (s.ch c).cls.excused = ((s.ch c).reg pgCLS 0x054).field 0 10 →
      ∃ t, Sys2Proof.Machine.exec (.walkEnd c) s = .next t ∧ (t.ch c).cls.walk = none ∧
        (t.ch c).cls.free.contains i = true ∧ (t.ch c).sram = (s.ch c).sram ∧ Counted (s.ch c) (t.ch c) pgCLS 7)) ∧
  (∀ (s : State) (c : Ch), (s.ch c).boot ≠ .run ∨ (s.ch c).cls.walk = none →
    Sys2Proof.Machine.exec (.walkEnd c) s = .next s)

/-- The classifier's memory. Firmware gives a buffer back by BUFFREE, and what it does not hold is refused; EXCCONS takes a value up
to PROD and no other; EXCCFG and POOLCFG enable a ring and a pool that fit, refuse with RSVD to enable one that does not, and refuse with STATE a
change of size while enabled; EXCCFG disables the ring, POOLCFG the pool once every buffer is free (12 R330, R331, R339, R340). -/
def ClassifierMemory : Prop :=
  (∀ (s : State) (snd : Sender) (c : Ch) (v : Word), s.reaches snd c → Own snd → Free s c pgCLS →
    (v.field 0 12 < (s.ch c).excSize →
      (v.field 0 12 + (s.ch c).excSize - (s.ch c).excCons) % (s.ch c).excSize ≤
        ((s.ch c).excProd + (s.ch c).excSize - (s.ch c).excCons) % (s.ch c).excSize →
      Sys2Proof.Machine.exec (.clsExcconsWrite snd c v) s =
        .next (s.setCh c ((s.ch c).setReg pgCLS 0x078 (BitVec.ofNat 32 (v.field 0 12))))) ∧
    ((s.ch c).excSize ≤ v.field 0 12 ∨ ((s.ch c).excProd + (s.ch c).excSize - (s.ch c).excCons) % (s.ch c).excSize <
        (v.field 0 12 + (s.ch c).excSize - (s.ch c).excCons) % (s.ch c).excSize →
      ∃ t, Sys2Proof.Machine.exec (.clsExcconsWrite snd c v) s = .next t ∧
        RegsOnly (s.ch c) (t.ch c) ∧ Recorded (s.ch c) (t.ch c) pgCLS cRSVD snd.id (regAddr pgCLS 0x078) ∧
        (t.ch c).excCons = (s.ch c).excCons)) ∧
  (∀ (s : State) (snd : Sender) (c : Ch) (v : Word), s.reaches snd c → Own snd → Free s c pgCLS →
    (∀ i, (s.ch c).bufIdx v.toNat = some i → (s.ch c).cls.fwHeld.contains i = true →
      ∃ t, Sys2Proof.Machine.exec (.clsBuffree snd c v) s = .next t ∧ (t.ch c).cls.free.contains i = true ∧
        (t.ch c).cls.fwHeld = (s.ch c).cls.fwHeld.filter (fun x => x ≠ i) ∧ (t.ch c).regs = (s.ch c).regs) ∧
    ((s.ch c).fwHolds v.toNat = false → ∃ t, Sys2Proof.Machine.exec (.clsBuffree snd c v) s = .next t ∧
      FaultOnly (s.ch c) (t.ch c) pgCLS ∧ Recorded (s.ch c) (t.ch c) pgCLS 0x11 snd.id (regAddr pgCLS 0x088))) ∧
  (∀ (s : State) (snd : Sender) (c : Ch) (v : Word), s.reaches snd c → Own snd → Free s c pgCLS →
    ((s.ch c).reg pgCLS 0x070).bit 0 = false → v.bit 0 = true →
    (let k := ((s.node c).writeFields snd pgCLS 0x070 (v.setBit 0 false)).k
     let fits := inSram ((k.reg pgCLS 0x06C).toNat / 32 * 32) (Sys2Proof.Machine.excSize k) = true ∧
       (k.reg pgCLS 0x06C).toNat / 32 * 32 % Sys2Proof.Machine.excSize k = 0
     (fits → ∃ t, Sys2Proof.Machine.exec (.clsExccfgEn snd c v) s = .next t ∧ RegsOnly (s.ch c) (t.ch c) ∧
       ((t.ch c).reg pgCLS 0x070).bit 0 = true ∧ (t.ch c).excProd = 0 ∧ (t.ch c).excCons = 0) ∧
     (¬ fits → ∃ t, Sys2Proof.Machine.exec (.clsExccfgEn snd c v) s = .next t ∧ RegsOnly (s.ch c) (t.ch c) ∧
       ((t.ch c).reg pgCLS 0x070).bit 0 = false ∧ (t.ch c).excProd = (s.ch c).excProd ∧
       (t.ch c).excCons = (s.ch c).excCons ∧ Recorded k (t.ch c) pgCLS cRSVD snd.id (regAddr pgCLS 0x070)))) ∧
  (∀ (s : State) (snd : Sender) (c : Ch) (v : Word), s.reaches snd c → Own snd → Free s c pgCLS →
    ((s.ch c).reg pgCLS 0x070).bit 0 = true →
    ((v ^^^ (s.ch c).reg pgCLS 0x070) &&& 0xF0 ≠ 0 → ∃ t, Sys2Proof.Machine.exec (.clsExccfgEn snd c v) s = .next t ∧
      FaultOnly (s.ch c) (t.ch c) pgCLS ∧ Recorded (s.ch c) (t.ch c) pgCLS cSTATE snd.id (regAddr pgCLS 0x070)) ∧
    ((v ^^^ (s.ch c).reg pgCLS 0x070) &&& 0xF0 = 0 → Sys2Proof.Machine.exec (.clsExccfgEn snd c v) s =
      .next (s.setCh c ((s.ch c).setReg pgCLS 0x070 (((s.ch c).reg pgCLS 0x070).setField 0 1 (v.field 0 1)))))) ∧
  (∀ (s : State) (snd : Sender) (c : Ch) (v : Word), s.reaches snd c → Own snd → Free s c pgCLS →
    (s.ch c).poolEn = false → v.bit 0 = true →
    (let k := ((s.node c).writeFields snd pgCLS 0x080 (v.setBit 0 false)).k
     (k.poolFits ((k.reg pgCLS 0x080).field 8 4) ((k.reg pgCLS 0x080).field 1 2) = true →
       ∃ t, Sys2Proof.Machine.exec (.clsPoolcfgEn snd c v) s = .next t ∧ (t.ch c).poolEn = true ∧
         (t.ch c).cls.free = List.range (poolCount (t.ch c)) ∧ (t.ch c).cls.fwHeld = [] ∧ (t.ch c).sram = (s.ch c).sram) ∧
     (k.poolFits ((k.reg pgCLS 0x080).field 8 4) ((k.reg pgCLS 0x080).field 1 2) = false →
       ∃ t, Sys2Proof.Machine.exec (.clsPoolcfgEn snd c v) s = .next t ∧ (t.ch c).poolEn = false ∧
         (t.ch c).cls = (s.ch c).cls ∧ Recorded k (t.ch c) pgCLS cRSVD snd.id (regAddr pgCLS 0x080)))) ∧
  (∀ (s : State) (snd : Sender) (c : Ch) (v : Word), s.reaches snd c → Own snd → Free s c pgCLS → (s.ch c).poolEn = true →
    ((v ^^^ (s.ch c).reg pgCLS 0x080) &&& 0xF06 ≠ 0 ∨ (v.bit 0 = false ∧ (s.ch c).allFree = false) →
      ∃ t, Sys2Proof.Machine.exec (.clsPoolcfgEn snd c v) s = .next t ∧ FaultOnly (s.ch c) (t.ch c) pgCLS ∧
        Recorded (s.ch c) (t.ch c) pgCLS cSTATE snd.id (regAddr pgCLS 0x080)) ∧
    ((v ^^^ (s.ch c).reg pgCLS 0x080) &&& 0xF06 = 0 → v.bit 0 = true →
      Sys2Proof.Machine.exec (.clsPoolcfgEn snd c v) s = .next s) ∧
    ((v ^^^ (s.ch c).reg pgCLS 0x080) &&& 0xF06 = 0 → v.bit 0 = false → (s.ch c).allFree = true →
      ∃ t, Sys2Proof.Machine.exec (.clsPoolcfgEn snd c v) s = .next t ∧ (t.ch c).poolEn = false ∧
        (t.ch c).cls.free = [] ∧ (t.ch c).cls.fwHeld = [] ∧ (t.ch c).sram = (s.ch c).sram))

end Sys2Proof.Claims

/-- The classifier: its walks, and its memory as firmware sets it up (12 R314, R315, R317, R319, R320, R322, R328 to R331, R337 to
R340). -/
def Obligations.ClassifierWalks : Prop := Walks ∧ ClassifierMemory

/-- Transmit rings and gates. PROD takes a value that does not pass CONS and no other; the next entry, in order and unpoliced, joins
its class queue, one whose deadline has fired ends TIMEOUT, one out of order or that cannot be read ends BAD_DESC and stops the ring, and a ring
that is not ready fetches nothing; a due deadline takes an entry out of its queue with TIMEOUT, and ends the next one
before its fetch; the oldest entry with an
outcome writes STATUS and DONE and CONS advances; EN from 0 to 1 starts a ring that fits at 0, one that does not fit is refused with RSVD, and a change of
size while EN is 1 with STATE; the STOPPED bit clears by a write of one; the next gate entry takes effect when its time has come, and
not before (13 R346 to R348, R351, R358, R362). -/
def Obligations.TransmitRings : Prop :=
  (∀ (s : State) (snd : Sender) (c : Ch) (p : Port) (k : Fin 8) (v : Word), s.reaches snd c → Own snd → Free s c pgSHAPE →
    (v.field 0 10 < (s.ch c).txSize p k →
      ((s.ch c).txProd p k + (s.ch c).txSize p k - (s.ch c).txCons p k) % (s.ch c).txSize p k ≤
        (v.field 0 10 + (s.ch c).txSize p k - (s.ch c).txCons p k) % (s.ch c).txSize p k →
      ∃ t, Sys2Proof.Machine.exec (.shapeTxprodWrite snd c p k v) s = .next t ∧ (t.ch c).txProd p k = v.field 0 10 ∧
        ((t.ch c).txRing p k).items = ((s.ch c).txRing p k).items ∧
        ((t.ch c).txRing p k).fetch = ((s.ch c).txRing p k).fetch) ∧
    ((s.ch c).txSize p k ≤ v.field 0 10 ∨
      (v.field 0 10 + (s.ch c).txSize p k - (s.ch c).txCons p k) % (s.ch c).txSize p k <
        ((s.ch c).txProd p k + (s.ch c).txSize p k - (s.ch c).txCons p k) % (s.ch c).txSize p k →
      ∃ t, Sys2Proof.Machine.exec (.shapeTxprodWrite snd c p k v) s = .next t ∧ FaultOnly (s.ch c) (t.ch c) pgSHAPE ∧
        Recorded (s.ch c) (t.ch c) pgSHAPE cRSVD snd.id (regAddr pgSHAPE (qReg p k + 0x18)))) ∧
  (∀ (s : State) (c : Ch) (p : Port) (k : Fin 8) (e : List Byte) (w : Nat) (it : TxItem) (ok : Bool),
    (s.ch c).txReady p k = true →
    (s.ch c).qRoom p k = true → (s.ch c).ecc = Ecc.reset → Unwatched (s.ch c) →
    ((s.ch c).txRing p k).posted.head? = some (((s.ch c).txRing p k).fetch, w) →
    (s.ch c).settled mETH ((s.ch c).txBase p k + 16 * ((s.ch c).txRing p k).fetch) 16 false ≠ .refused →
    (s.ch c).sram.read ((s.ch c).txBase p k + 16 * ((s.ch c).txRing p k).fetch) 16 = e →
    (s.ch c).txParse p k e w = (it, ok) →
    ∃ t, Sys2Proof.Machine.exec (.txRingFetch c p k) s = .next t ∧
      (ok = true → (s.ch c).txDue it = false → (byteAt e 6).getLsbD 2 = false →
        ((t.ch c).txRing p k).items = ((s.ch c).txRing p k).items ++ [it] ∧
        ((t.ch c).txRing p k).fetch = (((s.ch c).txRing p k).fetch + 1) % (s.ch c).txSize p k ∧
        (t.ch c).queue p k = (s.ch c).queue p k ++ [⟨.ring (16 * it.idx + k.val), it.addr, it.len⟩] ∧
        (t.ch c).sram = (s.ch c).sram ∧ (t.ch c).regs = (s.ch c).regs) ∧
      (ok = true → (s.ch c).txDue it = true →
        ((t.ch c).txRing p k).items =
          ((s.ch c).txRing p k).items ++ [{ it with queued := false, outcome := some stTIMEOUT }] ∧
        (t.ch c).queues = (s.ch c).queues ∧ (t.ch c).regs = (s.ch c).regs) ∧
      (ok = false → (t.ch c).txStopped p k = true ∧ (t.ch c).queues = (s.ch c).queues ∧
        ((t.ch c).txRing p k).items =
          ((s.ch c).txRing p k).items ++ [{ it with queued := false, outcome := some stBAD_DESC }])) ∧
  (∀ (s : State) (c : Ch) (p : Port) (k : Fin 8), (s.ch c).txReady p k = true → (s.ch c).qRoom p k = true →
    (s.ch c).settled mETH ((s.ch c).txBase p k + 16 * ((s.ch c).txRing p k).fetch) 16 false = .refused →
    ∃ t, Sys2Proof.Machine.exec (.txRingFetch c p k) s = .next t ∧ (t.ch c).txStopped p k = true ∧
      ((t.ch c).txRing p k).items = ((s.ch c).txRing p k).items ++
        [⟨((s.ch c).txRing p k).fetch, 0, 0, false, false, none, false, some stBAD_DESC⟩] ∧
      (t.ch c).queue p k = (s.ch c).queue p k) ∧
  (∀ (s : State) (c : Ch) (p : Port) (k : Fin 8), (s.ch c).txReady p k = false ∨ (s.ch c).qRoom p k = false →
    Sys2Proof.Machine.exec (.txRingFetch c p k) s = .next s) ∧
  (∀ (s : State) (c : Ch) (p : Port) (k : Fin 8) (it : TxItem) (rest : List TxItem) (st : Byte),
    (s.ch c).live pgSHAPE = true → ((s.ch c).txRing p k).items = it :: rest → it.outcome = some st → it.free = false →
    (s.ch c).ecc = Ecc.reset → (s.ch c).txSize p k ≤ 1024 →
    ((s.ch c).settled mETH ((s.ch c).txBase p k + 16 * it.idx + 9) 2 true ≠ .refused →
      ∃ t, Sys2Proof.Machine.exec (.txEntryCompletion c p k) s = .next t ∧ ((t.ch c).txRing p k).items = rest ∧
        (t.ch c).sram = (s.ch c).sram.write ((s.ch c).txBase p k + 16 * it.idx + 9) [some st, some 1] ∧
        (t.ch c).txCons p k = (it.idx + 1) % (s.ch c).txSize p k ∧ (t.ch c).txStopped p k = (s.ch c).txStopped p k) ∧
    ((s.ch c).settled mETH ((s.ch c).txBase p k + 16 * it.idx + 9) 2 true = .refused →
      ∃ t, Sys2Proof.Machine.exec (.txEntryCompletion c p k) s = .next t ∧ ((t.ch c).txRing p k).items = rest ∧
        (t.ch c).sram = (s.ch c).sram ∧ (t.ch c).txCons p k = (it.idx + 1) % (s.ch c).txSize p k ∧
        (t.ch c).txStopped p k = true ∧
        Recorded (s.ch c) (t.ch c) pgSHAPE 0x10 0 (BitVec.ofNat 32 ((s.ch c).txBase p k + 16 * it.idx + 9)))) ∧
  (∀ (s : State) (c : Ch) (p : Port) (k : Fin 8), (s.ch c).live pgSHAPE = false ∨
    (∀ it ∈ ((s.ch c).txRing p k).items.head?, it.outcome = none) →
    Sys2Proof.Machine.exec (.txEntryCompletion c p k) s = .next s) ∧
  (∀ (s : State) (c : Ch) (p : Port) (k : Fin 8) (idx : Nat) (it : TxItem), (s.ch c).boot = .run →
    ((s.ch c).txRing p k).items.find? (fun x => x.idx = idx) = some it →
    (it.queued = true → it.outcome = none → (s.ch c).txDue it = true →
      ∃ t, Sys2Proof.Machine.exec (.txDeadline c p k idx) s = .next t ∧
        (∀ q ∈ (t.ch c).queue p k, q.src ≠ .ring (16 * idx + k.val)) ∧
        ((t.ch c).txRing p k).items = ((s.ch c).txRing p k).items.map fun x =>
          if x.idx = idx ∧ x.outcome = none then { x with queued := false, outcome := some stTIMEOUT } else x) ∧
    (it.queued = false ∨ it.outcome ≠ none ∨ (s.ch c).txDue it = false →
      Sys2Proof.Machine.exec (.txDeadline c p k idx) s = .next s)) ∧
  (∀ (s : State) (c : Ch) (p : Port) (k : Fin 8) (idx w : Nat) (it : TxItem), (s.ch c).boot = .run →
    ((s.ch c).txRing p k).items.find? (fun x => x.idx = idx) = none →
    ((s.ch c).txReady p k = false ∨ ((s.ch c).txRing p k).fetch ≠ idx →
      Sys2Proof.Machine.exec (.txDeadline c p k idx) s = .next s) ∧
    ((s.ch c).txReady p k = true → ((s.ch c).txRing p k).fetch = idx → (s.ch c).ecc = Ecc.reset → Unwatched (s.ch c) →
      ((s.ch c).txRing p k).posted.head? = some (idx, w) →
      (s.ch c).settled mETH ((s.ch c).txBase p k + 16 * idx) 16 false ≠ .refused →
      (s.ch c).txParse p k ((s.ch c).sram.read ((s.ch c).txBase p k + 16 * idx) 16) w = (it, true) →
      (s.ch c).txDue it = true →
      ∃ t, Sys2Proof.Machine.exec (.txDeadline c p k idx) s = .next t ∧ (t.ch c).queues = (s.ch c).queues ∧
        ((t.ch c).txRing p k).items =
          ((s.ch c).txRing p k).items ++ [{ it with queued := false, outcome := some stTIMEOUT }])) ∧
  (∀ (s : State) (c : Ch) (p : Port), (s.ch c).boot = .run → ((s.ch c).gates p).failed = false →
    ((s.ch c).gates p).entry + 1 < (s.ch c).gateCnt p →
    (s.ch c).gateAt p (((s.ch c).gates p).entry + 1) ≤ (s.ch c).wh.elapsed →
    ∃ t, Sys2Proof.Machine.exec (.gateEntry c p) s = .next t ∧ (t.ch c).gates p =
      (if (s.ch c).gateValid p (((s.ch c).gates p).entry + 1) then
        ⟨BitVec.ofNat 8 ((s.ch c).gateBits p (((s.ch c).gates p).entry + 1)), ((s.ch c).gates p).entry + 1, false⟩
       else ⟨BitVec.ofNat 8 ((s.ch c).gateFail p), ((s.ch c).gates p).entry + 1, true⟩)) ∧
  (∀ (s : State) (c : Ch) (p : Port), (s.ch c).boot ≠ .run ∨ ((s.ch c).gates p).failed = true ∨
    (s.ch c).gateCnt p ≤ ((s.ch c).gates p).entry + 1 ∨
    (s.ch c).wh.elapsed < (s.ch c).gateAt p (((s.ch c).gates p).entry + 1) →
    Sys2Proof.Machine.exec (.gateEntry c p) s = .next s) ∧
  (∀ (s : State) (snd : Sender) (c : Ch) (p : Port) (k : Fin 8) (v : Word), s.reaches snd c → Own snd → Free s c pgSHAPE →
    (s.ch c).txEn p k = false →
    (let q := ((s.node c).writeFields snd pgSHAPE (qReg p k + 0x14) ((v.setBit 0 true).setBit 0 false)).k
     let fits := inSram (q.txBase p k) (16 * q.txSize p k) = true ∧ q.txBase p k % (16 * q.txSize p k) = 0
     (fits → ∃ t, Sys2Proof.Machine.exec (.shapeTxcfgEn snd c p k v) s = .next t ∧ (t.ch c).txEn p k = true ∧
       (t.ch c).txProd p k = 0 ∧ (t.ch c).txCons p k = 0 ∧ (t.ch c).txRing p k = TxRing.reset ∧
       (t.ch c).txStopped p k = (s.ch c).txStopped p k) ∧
     (¬ fits → ∃ t, Sys2Proof.Machine.exec (.shapeTxcfgEn snd c p k v) s = .next t ∧ (t.ch c).txEn p k = false ∧
       (t.ch c).txRings = (s.ch c).txRings ∧
       Recorded q (t.ch c) pgSHAPE cRSVD snd.id (regAddr pgSHAPE (qReg p k + 0x14))))) ∧
  (∀ (s : State) (snd : Sender) (c : Ch) (p : Port) (k : Fin 8) (v : Word), s.reaches snd c → Own snd → Free s c pgSHAPE →
    (s.ch c).txEn p k = true →
    (v.field 4 4 = ((s.ch c).reg pgSHAPE (qReg p k + 0x14)).field 4 4 →
      Sys2Proof.Machine.exec (.shapeTxcfgEn snd c p k v) s = .next s) ∧
    (v.field 4 4 ≠ ((s.ch c).reg pgSHAPE (qReg p k + 0x14)).field 4 4 →
      ∃ t, Sys2Proof.Machine.exec (.shapeTxcfgEn snd c p k v) s = .next t ∧ FaultOnly (s.ch c) (t.ch c) pgSHAPE ∧
        Recorded (s.ch c) (t.ch c) pgSHAPE cSTATE snd.id (regAddr pgSHAPE (qReg p k + 0x14)))) ∧
  (∀ (s : State) (snd : Sender) (c : Ch) (p : Port) (k : Fin 8), s.reaches snd c → Own snd → Free s c pgSHAPE →
    ∃ t, Sys2Proof.Machine.exec (.txStoppedClear snd c p k) s = .next t ∧ (t.ch c).txStopped p k = false ∧
      (t.ch c).txCons p k = (s.ch c).txCons p k ∧ RegsOnly (s.ch c) (t.ch c))

/-! ## CAN (14) -/

namespace Sys2Proof.Claims

/-- Where the next entry of the receive queue lies, and the data bytes of a frame that it holds (14 R378). -/
def queueAt (k : Channel) (u : Unit2) : Nat := (k.reg (pgCan u) 0x06C).toNat + k.canPutIdx u * canQEntry k (pgCan u)
def queueData (k : Channel) (u : Unit2) (f : CanFrame) : List Byte :=
  f.data.take (min (canBytes f) (canQEntry k (pgCan u) - 32))

/-- The header of object i as it lies in memory, and the data bytes of a frame that its slots hold (14 R376). -/
def objHeader (k : Channel) (u : Unit2) (i : Nat) : List Byte := k.sram.read (k.canHdrAt u i) 32
def objData (k : Channel) (u : Unit2) (f : CanFrame) : List Byte :=
  f.data.take (min (canBytes f) (canSlotSize k (pgCan u)))

/-- The descriptor of a transmit slot (14 R379). -/
def txDesc (k : Channel) (u : Unit2) (slot : Nat) : List Byte := k.sram.read (k.canDesc u slot) 64

/-- A controller that receives: on the bus with its supply, active, below the passive limits, no detection running, not a time slave. -/
abbrev CanReceives (s : State) (c : Ch) (u : Unit2) (f : CanFrame) : Prop :=
  (s.ch c).canUp u = true ∧ (s.ch c).canMode u ≠ 3 ∧ (s.node c).fieldUp = true ∧ (s.ch c).fmtOn u f.fmt = true ∧
  ((s.ch c).can u).abdRun = false ∧ (s.ch c).ttRole u ≠ 1 ∧ ((s.ch c).can u).rxErr ≤ 127 ∧ ((s.ch c).can u).tec < 128 ∧
  ((s.ch c).can u).state = .active ∧ (s.ch c).ecc = Ecc.reset

/-- Where RXCFG sends a frame: the receive queue, or object i. -/
abbrev ToQueue (k : Channel) (u : Unit2) (f : CanFrame) : Prop :=
  (k.reg (pgCan u) 0x060).field 0 2 = 1 ∨ ((k.reg (pgCan u) 0x060).field 0 2 = 2 ∧ k.canMatch u f = none)
abbrev ToObject (k : Channel) (u : Unit2) (f : CanFrame) (i : Nat) : Prop :=
  ((k.reg (pgCan u) 0x060).field 0 2 = 0 ∨ (k.reg (pgCan u) 0x060).field 0 2 = 2) ∧ k.canMatch u f = some i

/-- A CAN counter is one higher (14 R398). -/
abbrev CanCounted (k k' : Channel) (u : Unit2) (i : Nat) : Prop :=
  k'.reg (pgCan u) (0x200 + 4 * i) = k.reg (pgCan u) (0x200 + 4 * i) + 1

/-- TXSTAT of a slot. -/
abbrev txStat (k : Channel) (u : Unit2) (slot : Nat) : Nat :=
  (k.reg (pgCan u) (0x180 + slot / 4 * 4)).field (8 * (slot % 4)) 8

/-- A slot as a value of a slot register. -/
abbrev oneSlot (slot : Fin 32) : Word := BitVec.ofNat 32 (2 ^ slot.val)

end Sys2Proof.Claims

/-- Receiving. A valid frame that no detection and no time slave takes enters the receive queue behind the last and raises its event, or, full,
stores nothing; or goes to the other slot of the lowest object that matches, with NEW, and LOST where NEW was set, and during the object's
lock leaves the header alone; or is counted as unmatched. A time slave takes its time from a reference message. A frame in error is discarded and
counted by its error, LEC shows it and REC rises; a format that is not enabled sends the controller, with PXE, back to integration. A controller that
takes no part in the bus, or whose RXD has no supply, receives no frame. A master's read of a header's word 0 locks the object, one of
the last word or OBJUNLOCK releases it with NEW and LOST cleared, unless it is refused; RQACK takes a value up to RQPUT and no other (01 R30,
14 R368, R373 to R378, R389, R398, R399, 18 R486). -/
def Obligations.CanReceive : Prop :=
  (∀ (s : State) (c : Ch) (u : Unit2) (f : CanFrame) (stamp : DWord), CanReceives s c u f →
    ToQueue (s.ch c) u f →
    (((s.ch c).canPutIdx u + 1) % canQCount (s.ch c) (pgCan u) = (s.ch c).canAckIdx u →
      ∃ t, Sys2Proof.Machine.exec (.canRxFrame c u (.frame f) stamp) s = .next t ∧ (t.ch c).sram = (s.ch c).sram ∧
        (t.ch c).canPutIdx u = (s.ch c).canPutIdx u ∧
        (t.ch c).reg (pgCan u) 0x210 = (s.ch c).reg (pgCan u) 0x210 + 1) ∧
    (((s.ch c).canPutIdx u + 1) % canQCount (s.ch c) (pgCan u) ≠ (s.ch c).canAckIdx u →
      canQCount (s.ch c) (pgCan u) ≤ 128 →
      (queueData (s.ch c) u f = [] ∨
        (s.ch c).settled (mCan u) (queueAt (s.ch c) u + 32) (queueData (s.ch c) u f).length true ≠ .refused) →
      (s.ch c).settled (mCan u) (queueAt (s.ch c) u) 32 true ≠ .refused →
      ∃ t, Sys2Proof.Machine.exec (.canRxFrame c u (.frame f) stamp) s = .next t ∧
        (t.ch c).sram = ((s.ch c).sram.write (queueAt (s.ch c) u + 32) ((queueData (s.ch c) u f).map some)).write
          (queueAt (s.ch c) u) ((canHeader f false
          (if canQEntry (s.ch c) (pgCan u) - 32 < canBytes f then 8 else 0) stamp).map some) ∧
        (t.ch c).canPutIdx u = ((s.ch c).canPutIdx u + 1) % canQCount (s.ch c) (pgCan u) ∧
        ((t.ch c).reg (pgCan u) 0x014).bit 0 = true)) ∧
  (∀ (s : State) (c : Ch) (u : Unit2) (f : CanFrame) (stamp : DWord) (i : Nat), CanReceives s c u f →
    ToObject (s.ch c) u f i →
    (s.ch c).settled (mCan u) ((s.ch c).canHdrAt u i) 32 false ≠ .refused →
    (objData (s.ch c) u f = [] ∨ (s.ch c).settled (mCan u)
      ((s.ch c).canSlotAt u i (!(byteAt (objHeader (s.ch c) u i) 0).getLsbD 2)) (objData (s.ch c) u f).length true ≠ .refused) →
    (((s.ch c).canObj u i).lock = false → (s.ch c).settled (mCan u) ((s.ch c).canHdrAt u i) 32 true ≠ .refused →
      ∃ t, Sys2Proof.Machine.exec (.canRxFrame c u (.frame f) stamp) s = .next t ∧
        (t.ch c).sram = ((s.ch c).sram.write ((s.ch c).canSlotAt u i (!(byteAt (objHeader (s.ch c) u i) 0).getLsbD 2))
            ((objData (s.ch c) u f).map some)).write ((s.ch c).canHdrAt u i)
          ((setFlags (canHeader f false (if canSlotSize (s.ch c) (pgCan u) < canBytes f then 8 else 0) stamp) true
            ((byteAt (objHeader (s.ch c) u i) 0).getLsbD 0) (!(byteAt (objHeader (s.ch c) u i) 0).getLsbD 2)).map some) ∧
        CanCounted (s.ch c) (t.ch c) u 1 ∧
        (((s.ch c).reg (pgCan u) (0x800 + 4 * i)).bit 30 = true → ((t.ch c).reg (pgCan u) 0x014).bit 0 = true)) ∧
    (((s.ch c).canObj u i).lock = true →
      ∃ t, Sys2Proof.Machine.exec (.canRxFrame c u (.frame f) stamp) s = .next t ∧
        (t.ch c).sram = (s.ch c).sram.write ((s.ch c).canSlotAt u i (!(byteAt (objHeader (s.ch c) u i) 0).getLsbD 2))
          ((objData (s.ch c) u f).map some) ∧
        (t.ch c).canObj u i = { (s.ch c).canObj u i with count := ((s.ch c).canObj u i).count + 1,
                                                         hdr := ((t.ch c).canObj u i).hdr })) ∧
  (∀ (s : State) (c : Ch) (u : Unit2) (f : CanFrame) (stamp : DWord), CanReceives s c u f →
    ((s.ch c).reg (pgCan u) 0x060).field 0 2 = 0 → (s.ch c).canMatch u f = none →
    ∃ t, Sys2Proof.Machine.exec (.canRxFrame c u (.frame f) stamp) s = .next t ∧ (t.ch c).sram = (s.ch c).sram ∧
      CanCounted (s.ch c) (t.ch c) u 5) ∧
  (∀ (s : State) (c : Ch) (u : Unit2) (f : CanFrame) (stamp : DWord), (s.ch c).canUp u = true → (s.ch c).canMode u ≤ 1 →
    (s.node c).fieldUp = true → ((s.ch c).can u).abdRun = false → ((s.ch c).can u).tec < 256 → (s.ch c).ttRole u = 1 →
    (s.ch c).isReference u f = true →
    ∃ t, Sys2Proof.Machine.exec (.canRxFrame c u (.frame f) stamp) s = .next t ∧ ((t.ch c).can u).ttMark = stamp ∧
      ((t.ch c).can u).ttValid = true ∧ ((t.ch c).can u).ttCycle = (byteAt f.data 0).toNat % 64) ∧
  (∀ (s : State) (c : Ch) (u : Unit2) (f : CanFrame) (stamp : DWord), (s.ch c).canUp u = true → (s.ch c).canMode u ≠ 3 →
    (s.node c).fieldUp = true → (s.ch c).fmtOn u f.fmt = false → ((s.ch c).reg (pgCan u) 0x040).bit 2 = true →
    Sys2Proof.Machine.exec (.canRxFrame c u (.frame f) stamp) s =
      .next (s.setCh c ((s.ch c).setCan u { (s.ch c).can u with state := .integrating }))) ∧
  (∀ (s : State) (c : Ch) (u : Unit2) (e : CanRxErr) (xl : Bool) (more : Nat) (stamp : DWord),
    (s.ch c).canUp u = true → (s.ch c).canMode u ≠ 3 → ((s.ch c).can u).abdRun = false → ((s.ch c).can u).tec < 256 →
    ∃ t, Sys2Proof.Machine.exec (.canRxFrame c u (.error e xl more) stamp) s = .next t ∧ (t.ch c).sram = (s.ch c).sram ∧
      ((t.ch c).can u).items = ((s.ch c).can u).items ∧ ((t.ch c).can u).objs = ((s.ch c).can u).objs ∧
      ((t.ch c).can u).lec = (match e with | .bit => 4 | .stuff => 1 | .form => 2 | .crc => 5) ∧
      CanCounted (s.ch c) (t.ch c) u (match e with | .bit => 10 | .stuff => 11 | .form => 13 | .crc => 12) ∧
      ((t.ch c).can u).rxErr = (if (s.ch c).canMode u = 2 then ((s.ch c).can u).rxErr
        else ((s.ch c).can u).rxErr + 1 + 8 * more)) ∧
  (∀ (s : State) (c : Ch) (u : Unit2) (r : CanRx) (stamp : DWord), (s.ch c).canUp u = false ∨ (s.ch c).canMode u = 3 ∨
    ((∃ f, r = .frame f) ∧ (s.node c).fieldUp = false) →
    Sys2Proof.Machine.exec (.canRxFrame c u r stamp) s = .next s) ∧
  (∀ (s : State) (snd : Sender) (c : Ch) (u : Unit2) (i : Nat), (s.ch c).canWatches u = true → (s.ch c).canHas u i = true →
    snd ≠ .pf4 → (s.ch c).ecc = Ecc.reset → (s.ch c).settled snd.id ((s.ch c).canHdrAt u i) 4 false ≠ .refused →
    ∃ t, Sys2Proof.Machine.exec (.objectHeaderRead snd c u i) s = .next t ∧
      (t.ch c).canObj u i = (if ((s.ch c).canObj u i).lock then (s.ch c).canObj u i else ⟨true, 0, []⟩) ∧
      (∀ j, j ≠ i → (t.ch c).canObj u j = (s.ch c).canObj u j) ∧ (t.ch c).sram = (s.ch c).sram) ∧
  (∀ (s : State) (snd : Sender) (c : Ch) (u : Unit2) (i : Nat),
    (s.ch c).canWatches u = false ∨ (s.ch c).canHas u i = false ∨ snd = .pf4 →
    Sys2Proof.Machine.exec (.objectHeaderRead snd c u i) s = .next s ∧
    Sys2Proof.Machine.exec (.objectLastWordRead snd c u i) s = .next s) ∧
  (∀ (s : State) (snd : Sender) (c : Ch) (u : Unit2) (i : Nat), (s.ch c).canWatches u = true → (s.ch c).canHas u i = true →
    snd ≠ .pf4 →
    ((s.ch c).settled snd.id ((s.ch c).canHdrAt u i) 4 false = .refused →
      ∃ t, Sys2Proof.Machine.exec (.objectHeaderRead snd c u i) s = .next t ∧ (t.ch c).can u = (s.ch c).can u ∧
        (t.ch c).sram = (s.ch c).sram ∧ ((t.ch c).reg pgREGION 0x014).bit 0 = true) ∧
    ((s.ch c).settled snd.id ((s.ch c).lastWordAt u i) 4 false = .refused →
      ∃ t, Sys2Proof.Machine.exec (.objectLastWordRead snd c u i) s = .next t ∧ (t.ch c).can u = (s.ch c).can u ∧
        (t.ch c).sram = (s.ch c).sram ∧ ((t.ch c).reg pgREGION 0x014).bit 0 = true)) ∧
  (∀ (s : State) (snd : Sender) (c : Ch) (u : Unit2) (i : Nat), (s.ch c).canWatches u = true →
    (s.ch c).canHas u i = true → (s.ch c).ecc = Ecc.reset → ((s.ch c).canObj u i).lock = true →
    ((s.ch c).canObj u i).count = 0 → (s.ch c).settled (mCan u) ((s.ch c).canHdrAt u i) 32 false ≠ .refused →
    (s.ch c).settled (mCan u) ((s.ch c).canHdrAt u i) 32 true ≠ .refused →
    (snd ≠ .pf4 → (s.ch c).settled snd.id ((s.ch c).lastWordAt u i) 4 false ≠ .refused →
      ∃ t, Sys2Proof.Machine.exec (.objectLastWordRead snd c u i) s = .next t ∧ (t.ch c).canObj u i = canObjBlank ∧
        (t.ch c).sram = (s.ch c).sram.write ((s.ch c).canHdrAt u i)
          ((setFlags (objHeader (s.ch c) u i) false false ((byteAt (objHeader (s.ch c) u i) 0).getLsbD 2)).map some)) ∧
    (∀ v : Word, s.reaches snd c → Own snd → Free s c (pgCan u) → v.field 0 9 = i →
      ∃ t, Sys2Proof.Machine.exec (.objunlock snd c u v) s = .next t ∧ (t.ch c).canObj u i = canObjBlank ∧
        (t.ch c).sram = (s.ch c).sram.write ((s.ch c).canHdrAt u i)
          ((setFlags (objHeader (s.ch c) u i) false false ((byteAt (objHeader (s.ch c) u i) 0).getLsbD 2)).map some))) ∧
  (∀ (s : State) (snd : Sender) (c : Ch) (u : Unit2) (v : Word), s.reaches snd c → Own snd → Free s c (pgCan u) →
    (s.ch c).canWatches u = false ∨ (s.ch c).canHas u (v.field 0 9) = false ∨
      ((s.ch c).canObj u (v.field 0 9)).lock = false →
    Sys2Proof.Machine.exec (.objunlock snd c u v) s = .next s) ∧
  (∀ (s : State) (snd : Sender) (c : Ch) (u : Unit2) (v : Word), s.reaches snd c → Own snd → Free s c (pgCan u) →
    (let size := canQCount (s.ch c) (pgCan u)
     let ahead := fun x => (x + size - (s.ch c).canAckIdx u % size) % size
     (v.field 0 7 < size ∧ ahead (v.field 0 7) ≤ ahead ((s.ch c).canPutIdx u) →
       ∃ t, Sys2Proof.Machine.exec (.canRqack snd c u v) s = .next t ∧ (t.ch c).canAckIdx u = v.field 0 7 ∧
         RegsOnly (s.ch c) (t.ch c)) ∧
     (¬ (v.field 0 7 < size ∧ ahead (v.field 0 7) ≤ ahead ((s.ch c).canPutIdx u)) →
       ∃ t, Sys2Proof.Machine.exec (.canRqack snd c u v) s = .next t ∧ FaultOnly (s.ch c) (t.ch c) (pgCan u) ∧
         Recorded (s.ch c) (t.ch c) (pgCan u) cRSVD snd.id (regAddr (pgCan u) 0x074))))

/-- Transmitting. A request opens an item from a good descriptor; it ends DOWN while the controller is off, BUS_OFF in bus-off, BAD_DESC
where the descriptor is not good or cannot be read, and is refused with STATE where the slot is open; several slots of one write follow one another, the
lowest first. The frame that wins the arbitration goes on the bus, the reference message where it wins. What the controller sees of the end is what the bus
brought, in internal loopback a success, a bit error where a data phase is sampled outside its bits or RXD has no supply. A success ends the item
OK, or TIMEOUT where its deadline has fired, and lowers TEC; a lost arbitration leaves it open; an error that may be retried keeps
it open and raises TEC by 8, and the error that takes TEC to 256 makes the controller bus-off and ends every item; an abort or a
due deadline ends a waiting item, and marks one on the bus. Without an item, an attempt, a fired deadline nothing changes (14 R369, R372, R379 to
R385). -/
def Obligations.CanTransmit : Prop :=
  (∀ (s : State) (snd : Sender) (c : Ch) (u : Unit2) (slot : Fin 32), s.reaches snd c → Own snd → Free s c (pgCan u) →
    (∀ it ∈ ((s.ch c).can u).items, it.slot ≠ slot.val) →
    ((s.ch c).live (pgCan u) = false →
      ∃ t, Sys2Proof.Machine.exec (.canTxreq snd c u (oneSlot slot)) s = .next t ∧
        ((t.ch c).reg (pgCan u) 0x090).bit slot = true ∧ txStat (t.ch c) u slot = 7 ∧
        ((t.ch c).can u).items = ((s.ch c).can u).items) ∧
    ((s.ch c).live (pgCan u) = true → (s.ch c).ecc = Ecc.reset → (s.ch c).canWatches (otherUnit u) = false →
      (s.ch c).settled (mCan u) ((s.ch c).canDesc u slot) 64 false ≠ .refused →
      ((s.ch c).canDescOk u (txDesc (s.ch c) u slot) = true → ((s.ch c).can u).state ≠ .busOff →
        ∃ t, Sys2Proof.Machine.exec (.canTxreq snd c u (oneSlot slot)) s = .next t ∧
          ((t.ch c).can u).items = ((s.ch c).can u).items ++ [{
            slot := slot, words := (List.range 4).map (fun i => wordAt (txDesc (s.ch c) u slot) (4 * i)),
            addr := (wordAt (txDesc (s.ch c) u slot) 0x10).toNat, tick := (wordAt (txDesc (s.ch c) u slot) 0x14).bit 0,
            retry := (wordAt (txDesc (s.ch c) u slot) 0x14).field 16 8, retries := 0, again := false,
            fire := (s.ch c).fireAt ((wordAt (txDesc (s.ch c) u slot) 0x14).field 8 8), fired := false, aborted := false,
            txts := 0 }] ∧
          (t.ch c).regs = (s.ch c).regs ∧ (t.ch c).sram = (s.ch c).sram) ∧
      ((s.ch c).canDescOk u (txDesc (s.ch c) u slot) = true → ((s.ch c).can u).state = .busOff →
        ∃ t, Sys2Proof.Machine.exec (.canTxreq snd c u (oneSlot slot)) s = .next t ∧
          ((t.ch c).reg (pgCan u) 0x090).bit slot = true ∧ txStat (t.ch c) u slot = 0x0B ∧
          ((t.ch c).can u).items = ((s.ch c).can u).items) ∧
      ((s.ch c).canDescOk u (txDesc (s.ch c) u slot) = false →
        ∃ t, Sys2Proof.Machine.exec (.canTxreq snd c u (oneSlot slot)) s = .next t ∧
          ((t.ch c).reg (pgCan u) 0x090).bit slot = true ∧ txStat (t.ch c) u slot = 4 ∧
          ((t.ch c).can u).items = ((s.ch c).can u).items)) ∧
    ((s.ch c).live (pgCan u) = true → (s.ch c).settled (mCan u) ((s.ch c).canDesc u slot) 64 false = .refused →
      ∃ t, Sys2Proof.Machine.exec (.canTxreq snd c u (oneSlot slot)) s = .next t ∧
        ((t.ch c).reg (pgCan u) 0x090).bit slot = true ∧ txStat (t.ch c) u slot = 4 ∧
        ((t.ch c).can u).items = ((s.ch c).can u).items)) ∧
  (∀ (s : State) (snd : Sender) (c : Ch) (u : Unit2) (slot : Fin 32) (it : CanItem), s.reaches snd c → Own snd →
    Free s c (pgCan u) → it ∈ ((s.ch c).can u).items → it.slot = slot.val →
    ∃ t, Sys2Proof.Machine.exec (.canTxreq snd c u (oneSlot slot)) s = .next t ∧ FaultOnly (s.ch c) (t.ch c) (pgCan u) ∧
      Recorded (s.ch c) (t.ch c) (pgCan u) cSTATE snd.id (regAddr (pgCan u) 0x084)) ∧
  (∀ (n : Node) (u : Unit2) (snd : Sender) (v : Word) (b : Fin 32), v.toNat < 2 ^ b.val →
    n.canTxreq u snd (v + oneSlot b) = (n.canTxreq u snd v).canRequest u snd b ∧
    n.canTxabort u (v + oneSlot b) = (n.canTxabort u v).canAbort u b ∧ n.canTxreq u snd 0 = n ∧ n.canTxabort u 0 = n) ∧
  (∀ (s : State) (c : Ch) (u : Unit2) (stamp : DWord) (it : CanItem), (s.ch c).canUp u = true →
    ((s.ch c).canMode u = 0 ∧ (s.node c).fieldUp = true) ∨ (s.ch c).canMode u = 3 →
    ((s.ch c).can u).bus = .quiet → ((s.ch c).can u).newMode = none →
    canBest ((s.ch c).canOpen u) = some it → (s.ch c).refFirst u (some it) = false →
    (s.ch c).ecc = Ecc.reset → (s.ch c).canWatches (otherUnit u) = false →
    (s.ch c).settled (mCan u) ((s.ch c).canDesc u it.slot) 64 false ≠ .refused →
    TagsAgree (s.ch c) ((s.ch c).canDesc u it.slot) 64 →
    (canBytes (it.frame false []) = 0 ∨ (s.ch c).settled (mCan u) it.addr (canBytes (it.frame false [])) false ≠ .refused) →
    TagsAgree (s.ch c) it.addr (canBytes (it.frame false [])) →
    ∃ t, Sys2Proof.Machine.exec (.canAttemptStart c u stamp) s = .next t ∧ ((t.ch c).can u).bus = .slot it.slot ∧
      ((t.ch c).can u).txTs = stamp ∧
      ((t.ch c).can u).txData = (s.ch c).sram.read it.addr (canBytes (it.frame false [])) ∧
      (∀ x ∈ ((t.ch c).can u).items, x.slot = it.slot → x.txts = stamp) ∧ (t.ch c).sram = (s.ch c).sram) ∧
  (∀ (s : State) (c : Ch) (u : Unit2) (stamp : DWord), (s.ch c).canUp u = true →
    ((s.ch c).canMode u = 0 ∧ (s.node c).fieldUp = true) ∨ (s.ch c).canMode u = 3 →
    ((s.ch c).can u).bus = .quiet → ((s.ch c).can u).newMode = none →
    ((s.ch c).refFirst u (canBest ((s.ch c).canOpen u)) = true →
      Sys2Proof.Machine.exec (.canAttemptStart c u stamp) s = .next (s.setCh c ((s.ch c).setCan u { (s.ch c).can u with
        bus := .reference, txTs := stamp, txData := ((s.ch c).refFrame u).data }))) ∧
    (canBest ((s.ch c).canOpen u) = none → (s.ch c).refFirst u none = false →
      Sys2Proof.Machine.exec (.canAttemptStart c u stamp) s = .next s)) ∧
  (∀ (s : State) (c : Ch) (u : Unit2) (stamp : DWord), (s.ch c).canUp u = false ∨ ((s.ch c).can u).bus ≠ .quiet ∨
    ((s.ch c).can u).newMode ≠ none ∨ (s.ch c).canMode u = 1 ∨ (s.ch c).canMode u = 2 ∨
    ((s.ch c).canMode u = 0 ∧ (s.node c).fieldUp = false) →
    Sys2Proof.Machine.exec (.canAttemptStart c u stamp) s = .next s) ∧
  (∀ (n : Node) (u : Unit2) (f : CanFrame) (r : CanEnd) (data : Bool) (delay : Nat),
    (n.k.canMode u = 3 → (n.endSeen u f r data delay).1 = .success) ∧
    (n.k.canMode u ≠ 3 → n.k.dataSampled u f delay = true → n.fieldUp = true → (n.endSeen u f r data delay).1 = r) ∧
    (n.k.canMode u ≠ 3 → r = .success ∨ r = .ackErr → n.k.dataSampled u f delay = false →
      n.endSeen u f r data delay = (.bitErr, true)) ∧
    (n.k.canMode u ≠ 3 → r = .success → n.fieldUp = false → (n.endSeen u f r data delay).1 = .bitErr)) ∧
  (∀ (s : State) (c : Ch) (u : Unit2) (it : CanItem) (r : CanOver), (s.ch c).live (pgCan u) = true →
    ((s.ch c).can u).bus = .slot it.slot → ((s.ch c).can u).items.find? (fun x => x.slot = it.slot) = some it →
    ((s.node c).endSeen u (it.frame (((s.ch c).can u).state = .passive) ((s.ch c).can u).txData) r.how r.data r.delay).1 =
      .success →
    it.slot < 32 → ((s.ch c).reg (pgCan u) 0x040).bit 5 = false → ((s.ch c).can u).tec < 256 →
    ((s.ch c).can u).state ≠ .busOff →
    ∃ t, Sys2Proof.Machine.exec (.canAttemptEnd c u r) s = .next t ∧ ((t.ch c).can u).bus = .quiet ∧
      ((t.ch c).can u).items = ((s.ch c).can u).items.filter (fun x => x.slot ≠ it.slot) ∧
      ((t.ch c).can u).tec = ((s.ch c).can u).tec - 1 ∧ ((t.ch c).reg (pgCan u) 0x090).bit it.slot = true ∧
      txStat (t.ch c) u it.slot = (if it.fired then 1 else 0) ∧
      CanCounted (s.ch c) (t.ch c) u (if it.fired then 8 else 6)) ∧
  (∀ (s : State) (c : Ch) (u : Unit2) (it : CanItem) (r : CanOver) (e : CanEnd), (s.ch c).live (pgCan u) = true →
    ((s.ch c).can u).bus = .slot it.slot → ((s.ch c).can u).items.find? (fun x => x.slot = it.slot) = some it →
    ((s.node c).endSeen u (it.frame (((s.ch c).can u).state = .passive) ((s.ch c).can u).txData) r.how r.data r.delay).1 = e →
    it.fired = false → it.aborted = false →
    (e = .lostArbitration → ∃ t, Sys2Proof.Machine.exec (.canAttemptEnd c u r) s = .next t ∧
      (t.ch c).can u = { (s.ch c).can u with bus := .quiet } ∧ (t.ch c).sram = (s.ch c).sram ∧
      CanCounted (s.ch c) (t.ch c) u 9) ∧
    (e ∈ [CanEnd.bitErr, .stuffErr, .crcErr, .formErr, .ackErr] → (s.ch c).canRetry u it = true →
      ((s.ch c).can u).state = .active →
      (((s.ch c).can u).tec + 8 < 256 →
        ∃ t, Sys2Proof.Machine.exec (.canAttemptEnd c u r) s = .next t ∧ ((t.ch c).can u).bus = .quiet ∧
          ((t.ch c).can u).tec = ((s.ch c).can u).tec + 8 ∧ ((t.ch c).can u).lec = (canErrCode e).1 ∧
          ((t.ch c).can u).items =
            ((s.ch c).can u).items.map (fun x => if x.slot = it.slot then { x with again := true } else x)) ∧
      (256 ≤ ((s.ch c).can u).tec + 8 → (∀ x ∈ ((s.ch c).can u).items, x.slot < 32) →
        ∃ t, Sys2Proof.Machine.exec (.canAttemptEnd c u r) s = .next t ∧ ((t.ch c).can u).state = .busOff ∧
          ((t.ch c).can u).items = [] ∧ ((t.ch c).reg (pgCan u) 0x014).bit 2 = true))) ∧
  (∀ (s : State) (c : Ch) (u : Unit2) (r : CanOver), (s.ch c).live (pgCan u) = false ∨ ((s.ch c).can u).bus = .quiet →
    Sys2Proof.Machine.exec (.canAttemptEnd c u r) s = .next s) ∧
  (∀ (s : State) (snd : Sender) (c : Ch) (u : Unit2) (slot : Fin 32), s.reaches snd c → Own snd → Free s c (pgCan u) →
    match ((s.ch c).can u).items.find? (fun x => x.slot = slot.val) with
    | none => Sys2Proof.Machine.exec (.canTxabort snd c u (oneSlot slot)) s = .next s
    | some _ => ∃ t, Sys2Proof.Machine.exec (.canTxabort snd c u (oneSlot slot)) s = .next t ∧
      if ((s.ch c).can u).bus = .slot slot then ((t.ch c).can u).items =
        ((s.ch c).can u).items.map (fun x => if x.slot = slot.val then { x with aborted := true } else x)
      else ((t.ch c).can u).items = ((s.ch c).can u).items.filter (fun x => x.slot ≠ slot.val) ∧
        txStat (t.ch c) u slot = 8) ∧
  (∀ (s : State) (c : Ch) (u : Unit2) (slot : Fin 32) (it : CanItem), (s.ch c).live (pgCan u) = true →
    ((s.ch c).can u).items.find? (fun x => x.slot = slot.val) = some it → it.fired = false → (s.ch c).due it.fire = true →
    ∃ t, Sys2Proof.Machine.exec (.canDeadline c u slot) s = .next t ∧
      if ((s.ch c).can u).bus = .slot slot then ((t.ch c).can u).items =
        ((s.ch c).can u).items.map (fun x => if x.slot = slot.val then { x with fired := true } else x)
      else ((t.ch c).can u).items = ((s.ch c).can u).items.filter (fun x => x.slot ≠ slot.val) ∧
        txStat (t.ch c) u slot = 1) ∧
  (∀ (s : State) (c : Ch) (u : Unit2) (slot : Fin 32), (s.ch c).live (pgCan u) = false ∨
    (∀ it ∈ ((s.ch c).can u).items.find? (fun x => x.slot = slot.val), it.fired = true ∨ (s.ch c).due it.fire = false) →
    Sys2Proof.Machine.exec (.canDeadline c u slot) s = .next s)

/-- The controllers beside their frames: RECOVER of a controller in bus-off, the end of its recovery, the end of integration, a MODE that
waited for bus idle, rate detection and its dwell, the time master's request for its reference message, a time slave's
time-out; and that none of these acts outside its state (14 R368, R385, R386, R388, R389, R392, R397). -/
def Obligations.CanStates : Prop :=
  (∀ (s : State) (snd : Sender) (c : Ch) (u : Unit2), s.reaches snd c → Own snd → Free s c (pgCan u) →
    Sys2Proof.Machine.exec (.recover snd c u) s =
      (if ((s.ch c).can u).state = .busOff then
        .next (s.setCh c ((s.ch c).setCan u { (s.ch c).can u with recover := true })) else .next s)) ∧
  (∀ (s : State) (c : Ch) (u : Unit2), (s.ch c).live (pgCan u) = true → ((s.ch c).can u).state = .busOff →
    (s.node c).fieldUp = true → (((s.ch c).can u).recover = true ∨ ((s.ch c).reg (pgCan u) 0x040).bit 4 = true) →
    ∃ t, Sys2Proof.Machine.exec (.busOffRecoveryEnd c u) s = .next t ∧ (t.ch c).can u = { (s.ch c).can u with
      state := .integrating, tec := 0, rxErr := 0, recover := false } ∧ ((t.ch c).reg (pgCan u) 0x014).bit 2 = true) ∧
  (∀ (s : State) (c : Ch) (u : Unit2), (s.ch c).live (pgCan u) = false ∨ ((s.ch c).can u).state ≠ .busOff ∨
    (s.node c).fieldUp = false ∨ (((s.ch c).can u).recover = false ∧ ((s.ch c).reg (pgCan u) 0x040).bit 4 = false) →
    Sys2Proof.Machine.exec (.busOffRecoveryEnd c u) s = .next s) ∧
  (∀ (s : State) (c : Ch) (u : Unit2), (s.ch c).live (pgCan u) = true → ((s.ch c).can u).state = .integrating →
    (s.node c).fieldUp = true ∨ (s.ch c).canMode u = 3 →
    Sys2Proof.Machine.exec (.busIntegration c u) s = .next (s.setCh c ((s.ch c).setCan u { (s.ch c).can u with
      state := if 128 ≤ ((s.ch c).can u).tec ∨ 128 ≤ ((s.ch c).can u).rxErr then .passive else .active }))) ∧
  (∀ (s : State) (c : Ch) (u : Unit2), (s.ch c).live (pgCan u) = false ∨ ((s.ch c).can u).state ≠ .integrating ∨
    ((s.node c).fieldUp = false ∧ (s.ch c).canMode u ≠ 3) →
    Sys2Proof.Machine.exec (.busIntegration c u) s = .next s) ∧
  (∀ (s : State) (c : Ch) (u : Unit2) (m : Nat), (s.ch c).boot = .run → ((s.ch c).can u).bus = .quiet →
    ((s.ch c).can u).newMode = some m → m < 4 →
    ∃ t, Sys2Proof.Machine.exec (.canModeChange c u) s = .next t ∧ (t.ch c).canMode u = m ∧
      ((t.ch c).can u).newMode = none ∧ ((t.ch c).can u).items = ((s.ch c).can u).items ∧
      (((t.ch c).can u).ttValid = true ↔ ((s.ch c).can u).ttValid = true ∧ m ≤ 1)) ∧
  (∀ (s : State) (c : Ch) (u : Unit2), (s.ch c).boot ≠ .run ∨ ((s.ch c).can u).bus ≠ .quiet ∨
    ((s.ch c).can u).newMode = none → Sys2Proof.Machine.exec (.canModeChange c u) s = .next s) ∧
  (∀ (s : State) (snd : Sender) (c : Ch) (u : Unit2) (v : Word), s.reaches snd c → Own snd →
    (s.ch c).live (pgCan u) = true → (s.ch c).canMode u = 1 →
    ∃ t, Sys2Proof.Machine.exec (.abdStart snd c u v) s = .next t ∧ ((t.ch c).can u).abdFound = false ∧
      (v.field 8 8 ≠ 0 → ((t.ch c).can u).abdRun = true ∧ ((t.ch c).can u).abdFail = false ∧
        ((t.ch c).can u).state = .integrating ∧ (v.field 8 8).testBit ((t.ch c).can u).abdIdx = true ∧
        ∀ j, j < ((t.ch c).can u).abdIdx → (v.field 8 8).testBit j = false) ∧
      (v.field 8 8 = 0 → (((t.ch c).can u).abdFail = true ↔ v.field 16 8 = 1))) ∧
  (∀ (s : State) (snd : Sender) (c : Ch) (u : Unit2) (v : Word), s.reaches snd c → Own snd → Free s c (pgCan u) →
    (s.ch c).live (pgCan u) = false ∨ (s.ch c).canMode u ≠ 1 →
    ∃ t, Sys2Proof.Machine.exec (.abdStart snd c u v) s = .next t ∧ (t.ch c).can u = (s.ch c).can u ∧
      RegsOnly (s.ch c) (t.ch c) ∧ ((t.ch c).reg (pgCan u) 0x0A0).field 8 16 = v.field 8 16) ∧
  (∀ (s : State) (c : Ch) (u : Unit2), (s.ch c).live (pgCan u) = true → ((s.ch c).can u).abdRun = true →
    match (s.ch c).abdFrom u (((s.ch c).can u).abdIdx + 1) with
    | some i => Sys2Proof.Machine.exec (.abdDwellExpiry c u) s = .next (s.setCh c ((s.ch c).setCan u { (s.ch c).can u with
        abdIdx := i, abdGood := 0, abdOk := false, state := .integrating }))
    | none => ∃ t, Sys2Proof.Machine.exec (.abdDwellExpiry c u) s = .next t ∧
        ((t.ch c).can u).abdRound = ((s.ch c).can u).abdRound + 1 ∧
        if ((s.ch c).reg (pgCan u) 0x0A0).field 16 8 ≠ 0 ∧
            ((s.ch c).reg (pgCan u) 0x0A0).field 16 8 ≤ ((s.ch c).can u).abdRound + 1 then
          ((t.ch c).can u).abdRun = false ∧ ((t.ch c).can u).abdFail = true ∧ ((t.ch c).reg (pgCan u) 0x014).bit 2 = true
        else ((t.ch c).can u).abdRun = true ∧ ((t.ch c).can u).abdIdx =
          ((s.ch c).abdFrom u 0).getD ((s.ch c).can u).abdIdx) ∧
  (∀ (s : State) (c : Ch) (u : Unit2), (s.ch c).live (pgCan u) = false ∨ ((s.ch c).can u).abdRun = false →
    Sys2Proof.Machine.exec (.abdDwellExpiry c u) s = .next s) ∧
  (∀ (s : State) (c : Ch) (u : Unit2), (s.ch c).live (pgCan u) = true → (s.ch c).ttRole u = 2 →
    ((s.ch c).can u).refArm = true →
    Sys2Proof.Machine.exec (.referenceMessageRequest c u) s = .next (s.setCh c ((s.ch c).setCan u
      (if ((s.ch c).can u).refOld then { (s.ch c).can u with refArm := false, refNext := true }
       else { (s.ch c).can u with refArm := false, refPend := true })))) ∧
  (∀ (s : State) (c : Ch) (u : Unit2), (s.ch c).live (pgCan u) = false ∨ (s.ch c).ttRole u ≠ 2 ∨
    ((s.ch c).can u).refArm = false → Sys2Proof.Machine.exec (.referenceMessageRequest c u) s = .next s) ∧
  (∀ (s : State) (c : Ch) (u : Unit2),
    Sys2Proof.Machine.exec (.ttTimeout c u) s = (if (s.ch c).live (pgCan u) = true then
      .next (s.setCh c ((s.ch c).setCan u { (s.ch c).can u with ttValid := false })) else .next s))

/-! ## Token bus (15) -/

namespace Sys2Proof.Claims

/-- A MAC in a mode of frames that waits for no answer and stands in no visit. -/
abbrev Listens (k : Channel) (u : Unit2) : Prop :=
  k.live (pgTpb u) = true ∧ k.tpbMode u ≠ 0 ∧ (k.tpb u).phase = .quiet ∧ (k.tpb u).hold = false

/-- The characters that the receiver decides in the samples, and the frame they are. -/
def heardChars (s : State) (c : Ch) (u : Unit2) (bs : List Bool) : List TpbChar := ((s.node c).tpbFeed u bs).2
def heard (s : State) (c : Ch) (u : Unit2) (f : TpbRx) : TpbFrame := frameOf (heardChars s c u f.samples)

/-- Samples brought a character, and the frame is in order. -/
abbrev Good (s : State) (c : Ch) (u : Unit2) (f : TpbRx) : Prop :=
  heardChars s c u f.samples ≠ [] ∧ (s.ch c).tpbBad u (heard s c u f) = none

/-- Destination, source, FC and data of a DATA frame (15 R407). -/
abbrev tpbDa (f : TpbFrame) : Nat := (byteAt f.chars 1).toNat
abbrev tpbSa (f : TpbFrame) : Nat := (byteAt f.chars 2).toNat
abbrev tpbFc (f : TpbFrame) : Nat := (byteAt f.chars 3).toNat
abbrev tpbBody (f : TpbFrame) : List Byte := slice f.chars 5 (byteAt f.chars 4).toNat

/-- The ring of the item in the exchange has nothing posted behind it. -/
abbrev LastItem (k : Channel) (u : Unit2) (r : Nat) (it : TpbItem) : Prop :=
  k.tpbProd u r = (it.idx + 1) % k.tpbSize u r ∧ k.tpbSize u r ≤ 1024

/-- An item has ended: its place is free and CONS stands behind it. -/
def ItemOver (k' : Channel) (u : Unit2) (r : Nat) (it : TpbItem) (size : Nat) : Prop :=
  (k'.tpb u).item r = none ∧ k'.tpbCons u r = (it.idx + 1) % size

/-- Where the next entry of the receive queue lies, and how many data bytes it holds (15 R415). -/
def tpbEntryAt (k : Channel) (u : Unit2) : Nat := (k.reg (pgTpb u) 0x0A0).toNat + k.tpbRqPut u * k.tpbRqEntry u
def tpbRoom (k : Channel) (u : Unit2) : Nat := k.tpbRqEntry u - 16

/-- The receive queue is enabled, has a free entry and lies where the MAC may write. -/
abbrev QueueOpen (k : Channel) (u : Unit2) (len : Nat) : Prop :=
  (k.reg (pgTpb u) 0x0A4).bit 0 = true ∧ (k.tpbRqPut u + 1) % k.tpbRqSize u ≠ k.tpbRqAck u ∧ k.tpbRqSize u ≤ 1024 ∧
  k.ecc = Ecc.reset ∧ k.settled (mTpb u) (tpbEntryAt k u) (16 + min (tpbRoom k u) len) true ≠ .refused

/-- A counter of a token-bus MAC is one higher. -/
abbrev TpbCounted (k k' : Channel) (u : Unit2) (i : Nat) : Prop :=
  k'.reg (pgTpb u) (0x200 + 4 * i) = k.reg (pgTpb u) (0x200 + 4 * i) + 1

/-- Every sample of a bit time reads the same. -/
abbrev bitOf (b : Bool) : List Bool := List.replicate 16 b

end Sys2Proof.Claims

/-- The receiver and received frames. Behind an idle line a start bit, the bits of the format and the deciding samples of the stop bit are a
character with those bits, its parity and its stop bit; a start bit whose deciding samples read 1 is none. A valid frame for the station,
or for all, that is no answer joins the receive queue with its header, stamp and data, and a request for the station waits for its answer; one for others changes
no queue; a token frame for a station of the ring begins a visit, for another none; a frame that breaks a rule counts, raises the error event and
changes no ring; a short acknowledgement or a DATA frame of the station asked ends the exchange OK. In MODE 0 characters join the run, which the
delimiter, a full entry or the gap closes as an entry of its own. A request is answered from its buffer, or acknowledged where it has
none, by a station that has had the token since ENABLE. A break is counted once per episode; RQACK takes a value up to RQPUT and no other.
A MAC that does not work, or not in the mode, receives nothing (15 R402 to R404, R407 to R409, R411, R414 to R417, R419, R425). -/
def Obligations.TokenBusReceive : Prop :=
  (∀ (s : TpbSamp) (fmt idle : Nat) (bits : List Bool) (stop : Bool), s.pos = 0 → s.prev = true → s.deaf = false →
    bits.length + 1 = stopBit fmt →
    (TpbSamp.run fmt idle s (bitOf false ++ bits.flatMap bitOf ++ List.replicate 9 stop)).2 = [charOf bits stop s.gap fmt] ∧
    (TpbSamp.run fmt idle s (bitOf false ++ bits.flatMap bitOf ++ List.replicate 9 stop)).1.pos = 0 ∧
    (TpbSamp.run fmt idle s (false :: List.replicate 8 true)).2 = [] ∧
    (TpbSamp.run fmt idle s (false :: List.replicate 8 true)).1.pos = 0) ∧
  (∀ (s : State) (c : Ch) (u : Unit2) (f : TpbRx), Listens (s.ch c) u → Good s c u f →
    byteAt (heard s c u f).chars 0 = 0x9C → tpbFc (heard s c u f) / 2 % 2 = 0 →
    ((s.ch c).tpbMode u = 2 ∨ tpbDa (heard s c u f) = (s.ch c).tpbAddr u ∨ tpbDa (heard s c u f) = 127 →
      QueueOpen (s.ch c) u (tpbBody (heard s c u f)).length →
      ∃ t, Sys2Proof.Machine.exec (.tpbFrameRx c u f) s = .next t ∧
        (t.ch c).sram = (s.ch c).sram.write (tpbEntryAt (s.ch c) u) ((
          bytesLE 4 (tpbDa (heard s c u f) + 256 * tpbSa (heard s c u f) + 65536 * tpbFc (heard s c u f) + 2 ^ 24 *
            (if tpbDa (heard s c u f) = 127 then 2 else if tpbFc (heard s c u f) % 2 = 1 then 1 else 0)) ++
          bytesLE 4 ((tpbBody (heard s c u f)).length +
            65536 * (if tpbRoom (s.ch c) u < (tpbBody (heard s c u f)).length then 1 else 0)) ++
          bytesLE 8 f.stamp.toNat ++ (tpbBody (heard s c u f)).take (tpbRoom (s.ch c) u)).map some) ∧
        (t.ch c).tpbRqPut u = ((s.ch c).tpbRqPut u + 1) % (s.ch c).tpbRqSize u ∧
        ((t.ch c).reg (pgTpb u) 0x014).bit 0 = true ∧ TpbCounted (s.ch c) (t.ch c) u 0 ∧
        ((t.ch c).tpb u).answer = (if tpbFc (heard s c u f) % 2 = 1 ∧ tpbDa (heard s c u f) = (s.ch c).tpbAddr u ∧
            ((s.ch c).tpbMode u = 1 ∨ (s.ch c).tpbMode u = 3) then
          (let b := 0x0C0 + 8 * (tpbFc (heard s c u f) / 4 % 8)
           some ⟨tpbSa (heard s c u f), tpbFc (heard s c u f), ((s.ch c).reg (pgTpb u) b).toNat,
            ((s.ch c).reg (pgTpb u) (b + 4)).field 0 8, ((s.ch c).reg (pgTpb u) (b + 4)).bit 8⟩)
          else ((s.ch c).tpb u).answer)) ∧
    ((s.ch c).tpbMode u ≠ 2 → tpbDa (heard s c u f) ≠ (s.ch c).tpbAddr u → tpbDa (heard s c u f) ≠ 127 →
      ∃ t, Sys2Proof.Machine.exec (.tpbFrameRx c u f) s = .next t ∧ (t.ch c).sram = (s.ch c).sram ∧
        (t.ch c).tpbRqPut u = (s.ch c).tpbRqPut u ∧ TpbCounted (s.ch c) (t.ch c) u 0 ∧
        ((t.ch c).tpb u).answer = ((s.ch c).tpb u).answer)) ∧
  (∀ (s : State) (c : Ch) (u : Unit2) (f : TpbRx), Listens (s.ch c) u → Good s c u f →
    byteAt (heard s c u f).chars 0 = 0xE1 →
    ((s.ch c).tpbMode u = 1 → tpbDa (heard s c u f) = (s.ch c).tpbAddr u →
      ∃ t, Sys2Proof.Machine.exec (.tpbFrameRx c u f) s = .next t ∧ ((t.ch c).tpb u).hold = true ∧
        ((t.ch c).tpb u).fresh = true ∧ ((t.ch c).tpb u).visits = ((s.ch c).tpb u).visits + 1 ∧
        TpbCounted (s.ch c) (t.ch c) u 11) ∧
    ((s.ch c).tpbMode u ≠ 1 ∨ tpbDa (heard s c u f) ≠ (s.ch c).tpbAddr u →
      ∃ t, Sys2Proof.Machine.exec (.tpbFrameRx c u f) s = .next t ∧ ((t.ch c).tpb u).hold = false ∧
        ((t.ch c).tpb u).visits = ((s.ch c).tpb u).visits ∧ (t.ch c).sram = (s.ch c).sram ∧
        TpbCounted (s.ch c) (t.ch c) u 0)) ∧
  (∀ (s : State) (c : Ch) (u : Unit2) (f : TpbRx) (i : Nat), Listens (s.ch c) u → heardChars s c u f.samples ≠ [] →
    (s.ch c).tpbBad u (heard s c u f) = some i →
    ∃ t, Sys2Proof.Machine.exec (.tpbFrameRx c u f) s = .next t ∧ (t.ch c).sram = (s.ch c).sram ∧
      TpbCounted (s.ch c) (t.ch c) u i ∧ ((t.ch c).tpb u).samp.deaf = true ∧
      ((t.ch c).reg (pgTpb u) 0x014).bit 1 = true ∧ (t.ch c).tpbRqPut u = (s.ch c).tpbRqPut u) ∧
  (∀ (s : State) (c : Ch) (u : Unit2) (f : TpbRx) (it : TpbItem), (s.ch c).live (pgTpb u) = true → (s.ch c).tpbMode u ≠ 0 →
    ((s.ch c).tpb u).phase = .slotWait → ((s.ch c).tpb u).curItem = some it → Good s c u f →
    LastItem (s.ch c) u ((s.ch c).tpb u).cur it →
    (byteAt (heard s c u f).chars 0 = 0x3E ∨ (byteAt (heard s c u f).chars 0 = 0x9C ∧
      tpbFc (heard s c u f) % 4 = 2 ∧ tpbSa (heard s c u f) = it.da ∧ (s.ch c).tpbMode u ≠ 2 ∧ it.rsp = 0)) →
    ∃ t, Sys2Proof.Machine.exec (.tpbFrameRx c u f) s = .next t ∧ ((t.ch c).tpb u).phase = .quiet ∧
      ItemOver (t.ch c) u ((s.ch c).tpb u).cur it ((s.ch c).tpbSize u ((s.ch c).tpb u).cur) ∧
      TpbCounted (s.ch c) (t.ch c) u (if it.fired then 9 else 6)) ∧
  (∀ (s : State) (c : Ch) (u : Unit2) (f : TpbRx), (s.ch c).live (pgTpb u) = false ∨ (s.ch c).tpbMode u = 0 →
    Sys2Proof.Machine.exec (.tpbFrameRx c u f) s = .next s) ∧
  (∀ (s : State) (c : Ch) (u : Unit2) (before bits stop : List Bool) (stamp : DWord),
    (s.ch c).live (pgTpb u) = false ∨ (s.ch c).tpbMode u ≠ 0 →
    Sys2Proof.Machine.exec (.tpbRawCharacter c u before bits stop stamp) s = .next s) ∧
  (∀ (s : State) (c : Ch) (u : Unit2) (before bits stop : List Bool) (stamp : DWord) (cs : List TpbChar),
    (s.ch c).live (pgTpb u) = true → (s.ch c).tpbMode u = 0 → heardChars s c u (before ++ bits ++ stop) = cs →
    (((s.ch c).reg (pgTpb u) 0x068).bit 8 = false → ((s.ch c).tpb u).raw.length + cs.length < tpbRoom (s.ch c) u →
      ∃ t, Sys2Proof.Machine.exec (.tpbRawCharacter c u before bits stop stamp) s = .next t ∧
        ((t.ch c).tpb u).raw = ((s.ch c).tpb u).raw ++ cs.map TpbChar.byte ∧ (t.ch c).sram = (s.ch c).sram ∧
        ((t.ch c).tpb u).rawErr = (((s.ch c).tpb u).rawErr || cs.any fun x => x.par || x.frm)) ∧
    (∀ x, cs = [x] → QueueOpen (s.ch c) u (((s.ch c).tpb u).raw.length + 1) →
      (((s.ch c).reg (pgTpb u) 0x068).bit 8 = true ∧ x.byte.toNat = ((s.ch c).reg (pgTpb u) 0x068).field 0 8) ∨
        tpbRoom (s.ch c) u ≤ ((s.ch c).tpb u).raw.length + 1 →
      ∃ t, Sys2Proof.Machine.exec (.tpbRawCharacter c u before bits stop stamp) s = .next t ∧ ((t.ch c).tpb u).raw = [] ∧
        (t.ch c).tpbRqPut u = ((s.ch c).tpbRqPut u + 1) % (s.ch c).tpbRqSize u)) ∧
  (∀ (s : State) (c : Ch) (u : Unit2), (s.ch c).live (pgTpb u) = true → ((s.ch c).tpb u).raw ≠ [] →
    QueueOpen (s.ch c) u ((s.ch c).tpb u).raw.length →
    ∃ t, Sys2Proof.Machine.exec (.tpbRawRunClose c u) s = .next t ∧ ((t.ch c).tpb u).raw = [] ∧
      (t.ch c).tpbRqPut u = ((s.ch c).tpbRqPut u + 1) % (s.ch c).tpbRqSize u ∧
      (t.ch c).sram = (s.ch c).sram.write (tpbEntryAt (s.ch c) u) ((bytesLE 4 (3 * 2 ^ 24) ++
        bytesLE 4 (((s.ch c).tpb u).raw.length + 65536 * (if tpbRoom (s.ch c) u < ((s.ch c).tpb u).raw.length then 1 else 0) +
          2 ^ 17 * ((s.ch c).tpb u).rawErr.toNat) ++
        bytesLE 8 ((s.ch c).tpb u).rawTs.toNat ++ ((s.ch c).tpb u).raw.take (tpbRoom (s.ch c) u)).map some)) ∧
  (∀ (s : State) (c : Ch) (u : Unit2), (s.ch c).live (pgTpb u) = false ∨ ((s.ch c).tpb u).raw = [] →
    Sys2Proof.Machine.exec (.tpbRawRunClose c u) s = .next s) ∧
  (∀ (s : State) (c : Ch) (u : Unit2) (q : TpbReq), (s.ch c).live (pgTpb u) = true →
    ((s.ch c).tpbMode u = 1 ∨ (s.ch c).tpbMode u = 3) → ((s.ch c).tpb u).answer = some q →
    ((s.ch c).tpbMode u = 1 → ((s.ch c).tpb u).joined = false →
      Sys2Proof.Machine.exec (.tpbAnswer c u) s = .next (s.setCh c ((s.ch c).setTpb u
        { (s.ch c).tpb u with answer := none }))) ∧
    ((s.ch c).tpbMode u = 3 ∨ ((s.ch c).tpb u).joined = true →
      (q.valid = false → Sys2Proof.Machine.exec (.tpbAnswer c u) s = .next (s.setCh c ((s.ch c).setTpb u
        { (s.ch c).tpb u with answer := none, wire := [0x3E], out := .answer }))) ∧
      (q.valid = true → (s.ch c).ecc = Ecc.reset → Unwatched (s.ch c) →
        q.len = 0 ∨ (s.ch c).settled (mTpb u) q.base q.len false ≠ .refused →
        Sys2Proof.Machine.exec (.tpbAnswer c u) s = .next (s.setCh c ((s.ch c).setTpb u
          { (s.ch c).tpb u with answer := none, out := .answer,
                                wire := (s.ch c).dataFrame u q.dest (q.fc / 4 * 4 + 2) ((s.ch c).sram.read q.base q.len) }))) ∧
      (q.valid = true → q.len ≠ 0 → (s.ch c).settled (mTpb u) q.base q.len false = .refused →
        ∃ t, Sys2Proof.Machine.exec (.tpbAnswer c u) s = .next t ∧
          (t.ch c).tpb u = { (s.ch c).tpb u with answer := none }))) ∧
  (∀ (s : State) (c : Ch) (u : Unit2), (s.ch c).live (pgTpb u) = false ∨ (s.ch c).tpbMode u = 0 ∨ (s.ch c).tpbMode u = 2 ∨
    ((s.ch c).tpb u).answer = none → Sys2Proof.Machine.exec (.tpbAnswer c u) s = .next s) ∧
  (∀ (s : State) (c : Ch) (u : Unit2), (s.ch c).live (pgTpb u) = true → ((s.ch c).tpb u).inBreak = false →
    ∃ t, Sys2Proof.Machine.exec (.tpbBreak c u) s = .next t ∧ ((t.ch c).tpb u).inBreak = true ∧
      ((t.ch c).reg (pgTpb u) 0x014).bit 1 = true ∧
      ((t.ch c).reg (pgTpb u) 0x23C).field 16 16 = (((s.ch c).reg (pgTpb u) 0x23C).field 16 16 + 1) % 65536 ∧
      ((s.ch c).tpbMode u = 0 → ((t.ch c).tpb u).raw = []) ∧
      ((s.ch c).tpbMode u ≠ 0 → (t.ch c).tpb u = (match ((s.ch c).tpb u).phase with
        | .backoff => { (s.ch c).tpb u with inBreak := true, hold := false, redo := false, phase := .quiet }
        | .quiet => if ((s.ch c).tpb u).hold && ((s.ch c).tpb u).fresh then
            { (s.ch c).tpb u with inBreak := true, phase := .backoff } else { (s.ch c).tpb u with inBreak := true }
        | .sending | .slotWait | .passing _ _ _ => { (s.ch c).tpb u with inBreak := true }))) ∧
  (∀ (s : State) (c : Ch) (u : Unit2), (s.ch c).live (pgTpb u) = false ∨ ((s.ch c).tpb u).inBreak = true →
    Sys2Proof.Machine.exec (.tpbBreak c u) s = .next s) ∧
  (∀ (s : State) (snd : Sender) (c : Ch) (u : Unit2) (v : Word), s.reaches snd c → Own snd → Free s c (pgTpb u) →
    (let size := (s.ch c).tpbRqSize u
     let ahead := fun x => (x + size - (s.ch c).tpbRqAck u % size) % size
     (v.field 0 10 < size ∧ ahead (v.field 0 10) ≤ ahead ((s.ch c).tpbRqPut u) →
       ∃ t, Sys2Proof.Machine.exec (.tpbRqack snd c u v) s = .next t ∧ (t.ch c).tpbRqAck u = v.field 0 10 ∧
         RegsOnly (s.ch c) (t.ch c)) ∧
     (¬ (v.field 0 10 < size ∧ ahead (v.field 0 10) ≤ ahead ((s.ch c).tpbRqPut u)) →
       ∃ t, Sys2Proof.Machine.exec (.tpbRqack snd c u v) s = .next t ∧ FaultOnly (s.ch c) (t.ch c) (pgTpb u) ∧
         Recorded (s.ch c) (t.ch c) (pgTpb u) cRSVD snd.id (regAddr (pgTpb u) 0x0AC))))

namespace Sys2Proof.Claims

/-- A descriptor of ring r stands at CONS, and is in order: the item it is (15 R410). -/
abbrev NextItem (k : Channel) (u : Unit2) (r : Nat) (it : TpbItem) : Prop :=
  k.live (pgTpb u) = true ∧ k.tpbEn u r = true ∧ (k.tpb u).item r = none ∧ k.ecc = Ecc.reset ∧ Unwatched k ∧
  k.settled (mTpb u) (k.tpbBase u r + 32 * k.tpbCons u r) 32 false ≠ .refused ∧
  k.tpbParse u (k.tpbCons u r) (match (k.tpb u).posted r with | (_, w) :: _ => w | [] => k.wh.count.toNat)
    (k.sram.read (k.tpbBase u r + 32 * k.tpbCons u r) 32) = (it, true)

/-- A MAC that may begin to send: it works, nothing of it is on the wire, no answer waits, no exchange runs. -/
abbrev MaySend (k : Channel) (u : Unit2) : Prop :=
  k.live (pgTpb u) = true ∧ (k.tpb u).phase = .quiet ∧ (k.tpb u).answer = none ∧ (k.tpb u).out = .quiet

/-- What was sent has read back right, or need not. -/
abbrev EchoRight (s : State) (c : Ch) (u : Unit2) (echo : Option Nat) : Prop :=
  ((s.ch c).tpbCfg u).bit 17 = false ∨ ((s.node c).fieldUp = true ∧ echo = none)

/-- The character at which it did not. -/
abbrev EchoWrong (s : State) (c : Ch) (u : Unit2) (echo : Option Nat) (i : Nat) : Prop :=
  ((s.ch c).tpbCfg u).bit 17 = true ∧ if (s.node c).fieldUp then echo = some i else i = 0

end Sys2Proof.Claims

/-- Token-bus items and the token. PROD takes a value that does not pass CONS and no other, and the descriptor at CONS becomes the ring's item; the item of
the turn goes out as a frame with its check, a retry first, none without the token or while the bus is not idle where it must be; one whose data cannot
be read ends. A frame that asks for no answer ends its item OK, or TIMEOUT where its deadline has fired; one that asks starts the slot timer, which leads
to a retry or to NAK; a collision leaves the item for a retry, and the ring's station backs off; a token not taken up is sent a second time,
and then its address is not live any more; a due deadline ends an item, or marks one in an exchange; a visit that has run its course passes the token to NS, and alone begins
anew; a silent bus lets the station claim it; a back-off ends; the STOPPED bit clears by a write of one, and the ring goes on. What has nothing to
do changes nothing (15 R400, R410 to R413, R417 to R419, R422, R423, R425). -/
def Obligations.TokenBusTransmit : Prop :=
  (∀ (s : State) (snd : Sender) (c : Ch) (u : Unit2) (r : Fin 2) (v : Word), s.reaches snd c → Own snd → Free s c (pgTpb u) →
    (let size := (s.ch c).tpbSize u r
     let ahead := fun x => (x + size - (s.ch c).tpbCons u r) % size
     (v.field 0 10 < size ∧ ahead ((s.ch c).tpbProd u r) ≤ ahead (v.field 0 10) →
       ∃ t, Sys2Proof.Machine.exec (.tpbTxprodWrite snd c u r v) s = .next t ∧ (t.ch c).tpbProd u r = v.field 0 10 ∧
         (∀ w it, ((s.ch c).tpb u).posted r = [((s.ch c).tpbCons u r, w)] → NextItem (s.ch c) u r it →
           (s.ch c).tpbStopped u r = false → (s.ch c).tpbCons u r ≠ v.field 0 10 →
           ((t.ch c).tpb u).item r = some it)) ∧
     (¬ (v.field 0 10 < size ∧ ahead ((s.ch c).tpbProd u r) ≤ ahead (v.field 0 10)) →
       ∃ t, Sys2Proof.Machine.exec (.tpbTxprodWrite snd c u r v) s = .next t ∧ FaultOnly (s.ch c) (t.ch c) (pgTpb u) ∧
         Recorded (s.ch c) (t.ch c) (pgTpb u) cRSVD snd.id (regAddr (pgTpb u) (tpbReg0 r + 8))))) ∧
  (∀ (s : State) (c : Ch) (u : Unit2) (it : TpbItem), MaySend (s.ch c) u → (s.ch c).tpbMode u = 1 →
    ((s.ch c).tpb u).hold = true → ((s.ch c).tpb u).served = false → ((s.ch c).tpb u).redo = false →
    ((s.ch c).tpb u).fresh = false ∨ (s.node c).tpbIdle u = true →
    ((s.ch c).tpb u).ring0 = some it → it.again = false →
    ((s.ch c).ecc = Ecc.reset → Unwatched (s.ch c) → it.len = 0 ∨ (s.ch c).settled (mTpb u) it.addr it.len false ≠ .refused →
      ∃ t, Sys2Proof.Machine.exec (.tpbAttemptStart c u) s = .next t ∧ ((t.ch c).tpb u).phase = .sending ∧
        ((t.ch c).tpb u).cur = 0 ∧ ((t.ch c).tpb u).served = true ∧ (t.ch c).sram = (s.ch c).sram ∧
        ((t.ch c).tpb u).ring0 = some { it with started := true, ts := (s.ch c).now } ∧ ((t.ch c).tpb u).out = .frame ∧
        ((t.ch c).tpb u).wire = (s.ch c).dataFrame u it.da it.fc ((s.ch c).sram.read it.addr it.len)) ∧
    (it.len ≠ 0 → (s.ch c).settled (mTpb u) it.addr it.len false = .refused → LastItem (s.ch c) u 0 it →
      ∃ t, Sys2Proof.Machine.exec (.tpbAttemptStart c u) s = .next t ∧ ItemOver (t.ch c) u 0 it ((s.ch c).tpbSize u 0) ∧
        ((t.ch c).tpb u).phase = .quiet)) ∧
  (∀ (s : State) (c : Ch) (u : Unit2) (r : Nat) (it : TpbItem), MaySend (s.ch c) u → (s.ch c).tpbMode u ≠ 3 →
    ((s.ch c).tpbMode u = 1 → ((s.ch c).tpb u).hold = true) → ((s.ch c).tpb u).redo = true → ((s.ch c).tpb u).cur = r →
    ((s.ch c).tpb u).item r = some it → it.again = true → (s.node c).tpbIdle u = true → (s.ch c).ecc = Ecc.reset →
    Unwatched (s.ch c) → it.len = 0 ∨ (s.ch c).settled (mTpb u) it.addr it.len false ≠ .refused →
    ∃ t, Sys2Proof.Machine.exec (.tpbAttemptStart c u) s = .next t ∧ ((t.ch c).tpb u).phase = .sending ∧
      ((t.ch c).tpb u).item r =
        some { it with started := true, again := false, ts := (s.ch c).now, retries := it.retries + 1 } ∧
      TpbCounted (s.ch c) (t.ch c) u 7) ∧
  (∀ (s : State) (c : Ch) (u : Unit2), (s.ch c).live (pgTpb u) = false ∨ ((s.ch c).tpb u).phase ≠ .quiet ∨
    ((s.ch c).tpb u).answer ≠ none ∨ ((s.ch c).tpb u).out ≠ .quiet ∨ (s.ch c).tpbMode u = 3 ∨
    ((s.ch c).tpbMode u = 1 ∧ ((s.ch c).tpb u).hold = false) ∨
    ((((s.ch c).tpb u).fresh = true ∨ ((s.ch c).tpb u).retryRing ≠ none) ∧ (s.node c).tpbIdle u = false) ∨
    (((s.ch c).tpb u).ring0 = none ∧ ((s.ch c).tpb u).ring1 = none) →
    Sys2Proof.Machine.exec (.tpbAttemptStart c u) s = .next s) ∧
  (∀ (s : State) (c : Ch) (u : Unit2) (it : TpbItem) (echo : Option Nat), (s.ch c).live (pgTpb u) = true →
    ((s.ch c).tpb u).out = .frame → ((s.ch c).tpb u).phase = .sending → ((s.ch c).tpb u).curItem = some it →
    EchoRight s c u echo →
    (it.fc % 2 = 1 → it.da ≠ 127 → (s.ch c).tpbMode u ≠ 0 →
      Sys2Proof.Machine.exec (.tpbAttemptEnd c u echo) s = .next (s.setCh c ((s.ch c).setTpb u
        { (s.ch c).tpb u with phase := .slotWait, out := .quiet }))) ∧
    (it.fc % 2 = 0 ∨ it.da = 127 ∨ (s.ch c).tpbMode u = 0 → LastItem (s.ch c) u ((s.ch c).tpb u).cur it →
      ∃ t, Sys2Proof.Machine.exec (.tpbAttemptEnd c u echo) s = .next t ∧ ((t.ch c).tpb u).phase = .quiet ∧
        ItemOver (t.ch c) u ((s.ch c).tpb u).cur it ((s.ch c).tpbSize u ((s.ch c).tpb u).cur) ∧
        (it.fired = false → TpbCounted (s.ch c) (t.ch c) u 6))) ∧
  (∀ (s : State) (c : Ch) (u : Unit2) (echo : Option Nat) (i : Nat), (s.ch c).live (pgTpb u) = true →
    EchoWrong s c u echo i →
    (∀ it, ((s.ch c).tpb u).out = .frame → ((s.ch c).tpb u).phase = .sending → ((s.ch c).tpb u).curItem = some it →
      it.fired = false → it.retries < (s.ch c).tpbMaxRetry u →
      ∃ t, Sys2Proof.Machine.exec (.tpbAttemptEnd c u echo) s = .next t ∧
        ((t.ch c).tpb u).phase = (if (s.ch c).tpbMode u = 1 then .backoff else .quiet) ∧ ((t.ch c).tpb u).out = .quiet ∧
        ((t.ch c).tpb u).wire = ((s.ch c).tpb u).wire.take (i + 1) ∧ TpbCounted (s.ch c) (t.ch c) u 10 ∧
        ((t.ch c).tpb u).item ((s.ch c).tpb u).cur = some { it with again := true }) ∧
    (((s.ch c).tpb u).out = .answer →
      ∃ t, Sys2Proof.Machine.exec (.tpbAttemptEnd c u echo) s = .next t ∧
        ((t.ch c).tpb u).phase = (if (s.ch c).tpbMode u = 1 then .backoff else .quiet) ∧ ((t.ch c).tpb u).out = .quiet ∧
        ((t.ch c).tpb u).wire = ((s.ch c).tpb u).wire.take (i + 1) ∧ TpbCounted (s.ch c) (t.ch c) u 10)) ∧
  (∀ (s : State) (c : Ch) (u : Unit2) (echo : Option Nat), (s.ch c).live (pgTpb u) = true → EchoRight s c u echo →
    ((s.ch c).tpb u).out = .answer ∨ (((s.ch c).tpb u).out = .frame ∧ ∃ tgt n p, ((s.ch c).tpb u).phase = .passing tgt n p) →
    Sys2Proof.Machine.exec (.tpbAttemptEnd c u echo) s = .next (s.setCh c ((s.ch c).setTpb u
      { (s.ch c).tpb u with out := .quiet }))) ∧
  (∀ (s : State) (c : Ch) (u : Unit2) (echo : Option Nat), (s.ch c).live (pgTpb u) = false ∨ ((s.ch c).tpb u).out = .quiet →
    Sys2Proof.Machine.exec (.tpbAttemptEnd c u echo) s = .next s) ∧
  (∀ (s : State) (c : Ch) (u : Unit2) (it : TpbItem), (s.ch c).live (pgTpb u) = true → ((s.ch c).tpb u).out = .quiet →
    ((s.ch c).tpb u).phase = .slotWait → ((s.ch c).tpb u).curItem = some it →
    LastItem (s.ch c) u ((s.ch c).tpb u).cur it →
    ∃ t, Sys2Proof.Machine.exec (.tpbSlotTimerExpiry c u) s = .next t ∧ ((t.ch c).tpb u).phase = .quiet ∧
      TpbCounted (s.ch c) (t.ch c) u 8 ∧
      if it.fired = false ∧ it.retries < (s.ch c).tpbMaxRetry u then
        ((t.ch c).tpb u).item ((s.ch c).tpb u).cur = some { it with again := true } ∧ ((t.ch c).tpb u).redo = true
      else ItemOver (t.ch c) u ((s.ch c).tpb u).cur it ((s.ch c).tpbSize u ((s.ch c).tpb u).cur)) ∧
  (∀ (s : State) (c : Ch) (u : Unit2) (tgt : Nat), (s.ch c).live (pgTpb u) = true → ((s.ch c).tpb u).out = .quiet →
    (((s.ch c).tpb u).phase = .passing tgt 0 false →
      Sys2Proof.Machine.exec (.tpbSlotTimerExpiry c u) s = .next (s.setCh c ((s.ch c).setTpb u
        { (s.ch c).tpb u with phase := .passing tgt 1 false, fresh := false, out := .frame,
                              wire := (s.ch c).tokenFrame u tgt }))) ∧
    (((s.ch c).tpb u).phase = .passing tgt 1 false → tgt < 126 →
      ∃ t, Sys2Proof.Machine.exec (.tpbSlotTimerExpiry c u) s = .next t ∧ (t.ch c).tpbLive u tgt = false ∧
        TpbCounted (s.ch c) (t.ch c) u 13 ∧ ((t.ch c).reg (pgTpb u) 0x014).bit 1 = true)) ∧
  (∀ (s : State) (c : Ch) (u : Unit2), (s.ch c).live (pgTpb u) = false ∨ ((s.ch c).tpb u).out ≠ .quiet ∨
    ((s.ch c).tpb u).phase = .quiet ∨ ((s.ch c).tpb u).phase = .sending ∨ ((s.ch c).tpb u).phase = .backoff →
    Sys2Proof.Machine.exec (.tpbSlotTimerExpiry c u) s = .next s) ∧
  (∀ (s : State) (c : Ch) (u : Unit2) (r : Fin 2) (it : TpbItem), (s.ch c).live (pgTpb u) = true →
    ((s.ch c).tpb u).item r = some it → it.fired = false → (s.ch c).due it.fire = true →
    ((((s.ch c).tpb u).cur = r.val ∧ (((s.ch c).tpb u).phase = .sending ∨ ((s.ch c).tpb u).phase = .slotWait)) →
      Sys2Proof.Machine.exec (.tpbDeadline c u r) s = .next (s.setCh c ((s.ch c).setTpb u
        (((s.ch c).tpb u).setItem r (some { it with fired := true }))))) ∧
    (¬ (((s.ch c).tpb u).cur = r.val ∧ (((s.ch c).tpb u).phase = .sending ∨ ((s.ch c).tpb u).phase = .slotWait)) →
      LastItem (s.ch c) u r it →
      ∃ t, Sys2Proof.Machine.exec (.tpbDeadline c u r) s = .next t ∧ ItemOver (t.ch c) u r it ((s.ch c).tpbSize u r))) ∧
  (∀ (s : State) (c : Ch) (u : Unit2) (r : Fin 2), (s.ch c).live (pgTpb u) = false ∨
    (∀ it ∈ ((s.ch c).tpb u).item r, it.fired = true ∨ (s.ch c).due it.fire = false) →
    Sys2Proof.Machine.exec (.tpbDeadline c u r) s = .next s) ∧
  (∀ (s : State) (c : Ch) (u : Unit2), (s.ch c).visitOver u = true → ((s.ch c).tpb u).fresh = false ∨ (s.node c).tpbIdle u = true →
    ((s.ch c).reg (pgTpb u) 0x050).field 8 8 = 0 →
    ((s.ch c).tpbNs u ≠ (s.ch c).tpbAddr u →
      Sys2Proof.Machine.exec (.tokenPass c u) s = .next (s.setCh c ((s.ch c).setTpb u { (s.ch c).tpb u with
        phase := .passing ((s.ch c).tpbNs u) 0 false, fresh := false, out := .frame,
        wire := (s.ch c).tokenFrame u ((s.ch c).tpbNs u) }))) ∧
    ((s.ch c).tpbNs u = (s.ch c).tpbAddr u →
      ∃ t, Sys2Proof.Machine.exec (.tokenPass c u) s = .next t ∧ ((t.ch c).tpb u).hold = true ∧
        ((t.ch c).tpb u).fresh = true ∧ ((t.ch c).tpb u).served = false ∧
        ((t.ch c).tpb u).visits = ((s.ch c).tpb u).visits + 1 ∧ (t.ch c).regs = (s.ch c).regs)) ∧
  (∀ (s : State) (c : Ch) (u : Unit2), (s.ch c).visitOver u = false ∨
    (((s.ch c).tpb u).fresh = true ∧ (s.node c).tpbIdle u = false) →
    Sys2Proof.Machine.exec (.tokenPass c u) s = .next s) ∧
  (∀ (s : State) (c : Ch) (u : Unit2), Listens (s.ch c) u → (s.ch c).tpbMode u = 1 → (s.node c).tpbIdle u = true →
    ∃ t, Sys2Proof.Machine.exec (.tpbTokenClaim c u) s = .next t ∧ ((t.ch c).tpb u).hold = true ∧
      ((t.ch c).tpb u).fresh = true ∧ ((t.ch c).tpb u).joined = true ∧
      ((t.ch c).tpb u).visits = ((s.ch c).tpb u).visits + 1 ∧ TpbCounted (s.ch c) (t.ch c) u 12) ∧
  (∀ (s : State) (c : Ch) (u : Unit2), (s.ch c).live (pgTpb u) = false ∨ (s.ch c).tpbMode u ≠ 1 ∨
    (s.node c).tpbIdle u = false ∨ ((s.ch c).tpb u).hold = true ∨ ((s.ch c).tpb u).phase ≠ .quiet →
    Sys2Proof.Machine.exec (.tpbTokenClaim c u) s = .next s) ∧
  (∀ (s : State) (c : Ch) (u : Unit2) (silent : Bool), (s.ch c).live (pgTpb u) = true → ((s.ch c).tpb u).phase = .backoff →
    silent = false ∨ (s.node c).tpbIdle u = true →
    Sys2Proof.Machine.exec (.tpbBackoffEnd c u silent) s = .next (s.setCh c ((s.ch c).setTpb u
      { (s.ch c).tpb u with phase := .quiet, hold := ((s.ch c).tpb u).hold && silent,
                            redo := ((s.ch c).tpb u).redo && silent }))) ∧
  (∀ (s : State) (c : Ch) (u : Unit2) (silent : Bool), (s.ch c).live (pgTpb u) = false ∨ ((s.ch c).tpb u).phase ≠ .backoff ∨
    (silent = true ∧ (s.node c).tpbIdle u = false) → Sys2Proof.Machine.exec (.tpbBackoffEnd c u silent) s = .next s) ∧
  (∀ (s : State) (snd : Sender) (c : Ch) (u : Unit2) (r : Fin 2), s.reaches snd c → Own snd → Free s c (pgTpb u) →
    ((s.ch c).tpbCons u r = (s.ch c).tpbProd u r ∨ (s.ch c).live (pgTpb u) = false ∨ (s.ch c).tpbEn u r = false ∨
      ((s.ch c).tpb u).item r ≠ none →
      ∃ t, Sys2Proof.Machine.exec (.tpbStoppedClear snd c u r) s = .next t ∧ (t.ch c).tpbStopped u r = false ∧
        (t.ch c).tpbCons u r = (s.ch c).tpbCons u r ∧ RegsOnly (s.ch c) (t.ch c)) ∧
    (∀ it, NextItem (s.ch c) u r it → (s.ch c).tpbCons u r ≠ (s.ch c).tpbProd u r →
      ∃ t, Sys2Proof.Machine.exec (.tpbStoppedClear snd c u r) s = .next t ∧ (t.ch c).tpbStopped u r = false ∧
        ((t.ch c).tpb u).item r = some it ∧ (t.ch c).tpbCons u r = (s.ch c).tpbCons u r))

/-! ## Slotted bus (16) -/

namespace Sys2Proof.Claims

/-- Buffer number j of a register of the TXREADY kind. -/
def bufOf (i : Fin 4) (j : Fin 32) : Nat := 32 * i.val + j.val

/-- The completion bit of a buffer (16 R449). -/
def bufDone (k : Channel) (b : Nat) : Bool := (k.reg pgSLB (0x0A0 + b / 32 * 4)).bit (b % 32)

/-- An item of a buffer has ended. -/
def BufOver (k' : Channel) (b : Nat) : Prop := (k'.slbBuf b).ready = false ∧ bufDone k' b = true

/-- A counter of the slotted bus is one higher. -/
abbrev SlbCounted (k k' : Channel) (i : Nat) : Prop := k'.reg pgSLB (0x200 + 4 * i) = k.reg pgSLB (0x200 + 4 * i) + 1

/-- A frame on the line: TSS of n low bits, FSS, every byte behind its BSS, FES (16 R432). -/
def lineBits (n : Nat) (bs : List Byte) : List Bool :=
  List.replicate n false ++ [true] ++
    bs.flatMap (fun b => [true, false] ++ (List.range 8).map fun i => b.getLsbD (7 - i)) ++ [false, true]

/-- A line idle for some samples, then a frame, 8 samples a bit. -/
def lineSamples (idle n : Nat) (bs : List Byte) : List Bool :=
  List.replicate idle true ++ (lineBits n bs).flatMap (List.replicate 8)

/-- A working node brings a frame in on an enabled medium. -/
abbrev Brings (s : State) (c : Ch) (m : Port) (f : SlbRx) (x : SlbIn) : Prop :=
  (s.ch c).live pgSLB = true ∧ (s.ch c).slMed m = true ∧ (s.ch c).slbIn ((s.node c).rxd f.samples) f.at0 f.stamp = some x

/-- The frame is judged as a frame of another node: nothing of the node's own is on the medium, and it is no reason to give a
coldstart up. -/
abbrev Judged (k : Channel) (m : Port) (x : SlbIn) : Prop :=
  (k.slb.state.timed = true → (k.slb.med m).tx = []) ∧
  (k.slb.state = .coldstart → slbRules13 m x = none → (slbFields x.bytes).sync = true → (slbFields x.bytes).cold = true →
    k.syncSlot ≤ (slbFields x.bytes).id)

/-- The sync slot of a sync node. -/
def ownSlot (k : Channel) : Bool := k.slSync && k.slb.medA.slot = k.syncSlot

/-- OFFSET and RATE before their limits (16 R441). -/
def offsetOf (k : Channel) : Int := midpoint ((k.slbValues k.slb.measOdd).map Prod.snd)
def rateOf (k : Channel) : Int :=
  k.slb.rate + midpoint ((k.slbValues k.slb.measOdd).filterMap fun p =>
    ((k.slbValues k.slb.measEven).find? fun q => q.1 = p.1).map fun q => p.2 - q.2)

/-- Both cycles of the pair had sync measurements, and no clamp (16 R442, R445). -/
def pairGood (k : Channel) : Bool := !k.slb.measEven.isEmpty && !k.slb.measOdd.isEmpty && !k.slb.clamped

/-- The state a node falls to that listens: a SLEEP that waits acts at once (16 R446). -/
def listens (k : Channel) : SlbSt := if k.slb.sleepReq then .sleep else .listen

/-- What a receive buffer holds behind the slot whose frame it took (16 R451): its word, its stamp, its payload. -/
def Stored (k k' : Channel) (b : Nat) (va vb ia ib : Bool) (s : SlbSeen) (mis : Bool) : Prop :=
  let seq := ((k.slbBuf b).seq + 1) % 256
  k'.sram.read (k.bufAt b) 4 = bytesLE 4 (2 * va.toNat + 4 * vb.toNat + 8 * s.null.toNat + 16 * ia.toNat + 32 * ib.toNat +
    64 * mis.toNat + 256 * seq + 65536 * s.cycle + 2 ^ 24 * s.payload.length) ∧
  k'.sram.read (k.bufAt b + 8) 8 = bytesLE 8 s.stamp.toNat ∧
  k'.sram.read (k.bufAt b + 0x10) s.payload.length = s.payload ∧
  (∀ a, a < k.bufAt b ∨ k.bufAt b + 0x10 + s.payload.length ≤ a → k'.sram.get a = k.sram.get a) ∧
  (k'.slbBuf b).seq = seq ∧ bufDone k' b = true

/-- The node may write a buffer's word, stamp and payload. -/
abbrev Storable (k : Channel) (b len : Nat) : Prop :=
  k.ecc = Ecc.reset ∧ b < 128 ∧ k.settled mSLB (k.bufAt b) 4 true ≠ .refused ∧ k.settled mSLB (k.bufAt b + 8) 8 true ≠ .refused ∧
  (len ≠ 0 → k.settled mSLB (k.bufAt b + 0x10) len true ≠ .refused) ∧ len ≤ 255

end Sys2Proof.Claims

/-- The slotted bus under command. RUN from CONFIG listens where the configuration is in order and is refused with 0x10 where it is
not, and wakes a sleeping node; SLEEP puts a node without a schedule to sleep and waits for the next cycle in one with a
schedule; WAKEUP sends its pattern from LISTEN on the media it names; each is refused with STATE elsewhere; STOP configures, and ends the open
items; a pattern ends on its own medium, and one received while asleep is flagged; TXREADY opens the good buffers it names and ends the bad;
TXABORT and a due deadline end those whose slot is not taken; a read of SLB_EMPTY answers and clears it. What has nothing to do
changes nothing (16 R431, R446, R447, R449, R450, R457, R458, R465, R466). -/
def Obligations.SlottedBusControl : Prop :=
  (∀ (s : State) (snd : Sender) (c : Ch) (v : Word), s.reaches snd c → Own snd → Free s c pgSLB → v.field 1 3 = 0 →
    ((s.ch c).live pgSLB = true → (s.ch c).slb.state = .config → (s.ch c).slbCfgOk = true →
      ∃ t, Sys2Proof.Machine.exec (.run snd c v) s = .next t ∧ (t.ch c).slb.state = listens (s.ch c) ∧
        (t.ch c).slb.sched = false ∧ ((t.ch c).reg pgSLB 0x014).bit 2 = true) ∧
    ((s.ch c).live pgSLB = true → (s.ch c).slb.state = .config → (s.ch c).slbCfgOk = false →
      ∃ t, Sys2Proof.Machine.exec (.run snd c v) s = .next t ∧ FaultOnly (s.ch c) (t.ch c) pgSLB ∧
        Recorded (s.ch c) (t.ch c) pgSLB 0x10 snd.id (regAddr pgSLB 0x064)) ∧
    ((s.ch c).live pgSLB = true → (s.ch c).slb.state = .sleep →
      ∃ t, Sys2Proof.Machine.exec (.run snd c v) s = .next t ∧ (t.ch c).slb.state = listens (s.ch c) ∧
        (t.ch c).slb.sched = (s.ch c).slb.freeRun ∧ (t.ch c).slb.cycle = (s.ch c).slb.cycle) ∧
    ((s.ch c).live pgSLB = false ∨ ((s.ch c).slb.state ≠ .config ∧ (s.ch c).slb.state ≠ .sleep) →
      ∃ t, Sys2Proof.Machine.exec (.run snd c v) s = .next t ∧ FaultOnly (s.ch c) (t.ch c) pgSLB ∧
        Recorded (s.ch c) (t.ch c) pgSLB cSTATE snd.id (regAddr pgSLB 0x064))) ∧
  (∀ (s : State) (snd : Sender) (c : Ch) (v : Word), s.reaches snd c → Own snd → Free s c pgSLB →
    v.field 2 2 = 0 → v.bit 0 = false →
    ((s.ch c).live pgSLB = true → (s.ch c).slb.state = .config ∨ (s.ch c).slb.state = .listen →
      ∃ t, Sys2Proof.Machine.exec (.sleep snd c v) s = .next t ∧ (t.ch c).slb.state = .sleep ∧
        (t.ch c).slb.freeRun = (s.ch c).slb.sched ∧ ∀ b, b < 128 → ((t.ch c).slbBuf b).ready = false) ∧
    ((s.ch c).live pgSLB = true → (s.ch c).slb.state.timed = true → Sys2Proof.Machine.exec (.sleep snd c v) s =
      .next (s.setCh c { s.ch c with slb := { (s.ch c).slb with sleepReq := true } })) ∧
    ((s.ch c).live pgSLB = false ∨ (s.ch c).slb.state = .sleep →
      ∃ t, Sys2Proof.Machine.exec (.sleep snd c v) s = .next t ∧ FaultOnly (s.ch c) (t.ch c) pgSLB ∧
        Recorded (s.ch c) (t.ch c) pgSLB cSTATE snd.id (regAddr pgSLB 0x064))) ∧
  (∀ (s : State) (snd : Sender) (c : Ch) (v : Word), s.reaches snd c → Own snd → Free s c pgSLB →
    v.field 0 2 = 0 → v.bit 3 = false →
    ((s.ch c).live pgSLB = true → (s.ch c).slb.state = .listen → Sys2Proof.Machine.exec (.wakeup snd c v) s =
      .next (s.setCh c { s.ch c with slb := { (s.ch c).slb with
        medA := { (s.ch c).slb.medA with wake := ((s.ch c).reg pgSLB 0x060).bit 8 },
        medB := { (s.ch c).slb.medB with wake := ((s.ch c).reg pgSLB 0x060).bit 9 } } })) ∧
    ((s.ch c).live pgSLB = false ∨ (s.ch c).slb.state ≠ .listen →
      ∃ t, Sys2Proof.Machine.exec (.wakeup snd c v) s = .next t ∧ FaultOnly (s.ch c) (t.ch c) pgSLB ∧
        Recorded (s.ch c) (t.ch c) pgSLB cSTATE snd.id (regAddr pgSLB 0x064))) ∧
  (∀ (s : State) (snd : Sender) (c : Ch) (v : Word), s.reaches snd c → Own snd → Free s c pgSLB → v.field 0 3 = 0 →
    ((s.ch c).slb.state = .config → Sys2Proof.Machine.exec (.stop snd c v) s = .next s) ∧
    ((s.ch c).slb.state ≠ .config →
      ∃ t, Sys2Proof.Machine.exec (.stop snd c v) s = .next t ∧ (t.ch c).slb.state = .config ∧
        (t.ch c).slb.sched = false ∧ (t.ch c).slb.offset = (s.ch c).slb.offset ∧
        ∀ b, b < 128 → ((t.ch c).slbBuf b).ready = false)) ∧
  (∀ (s : State) (w : SlbPlace),
    ((s.ch w.chan).running = true → Sys2Proof.Machine.exec (.wakeupPatternEnd w) s =
      .next (s.setCh w.chan { s.ch w.chan with slb := (s.ch w.chan).slb.onMed w.medium fun y => { y with wake := false } })) ∧
    ((s.ch w.chan).running = false → Sys2Proof.Machine.exec (.wakeupPatternEnd w) s = .next s)) ∧
  (∀ (s : State) (c : Ch) (m : Port),
    let asleep := (s.node c).fieldUp = true ∧ (s.ch c).live pgSLB = true ∧ (s.ch c).slb.state = .sleep ∧
      ((s.ch c).reg pgSLB 0x040).bit 20 = true
    (asleep → ∃ t, Sys2Proof.Machine.exec (.wakeupPatternDetect c m) s = .next t ∧ RegsOnly (s.ch c) (t.ch c) ∧
      ((t.ch c).reg pgSLB 0x06C).bit m.num = true ∧ ((t.ch c).reg pgSLB 0x014).bit 2 = true ∧
      SlbCounted (s.ch c) (t.ch c) 27) ∧
    (¬ asleep → Sys2Proof.Machine.exec (.wakeupPatternDetect c m) s = .next s)) ∧
  (∀ (s : State) (snd : Sender) (c : Ch) (i : Fin 4) (v : Word), s.reaches snd c → Own snd → Free s c pgSLB →
    ∃ t, Sys2Proof.Machine.exec (.slbTxready snd c i v) s = .next t ∧
      (∀ j : Fin 32, v.bit j = true → ((s.ch c).slbBuf (bufOf i j)).ready = false →
        if (s.ch c).live pgSLB = true ∧ (s.ch c).bufBad (bufOf i j) = false then
          (t.ch c).slbBuf (bufOf i j) = { (s.ch c).slbBuf (bufOf i j) with
            ready := true, taken := false, sentA := false, sentB := false,
            fire := (s.ch c).fireAt (((s.ch c).bufCfg (bufOf i j) 1).field 8 8) }
        else BufOver (t.ch c) (bufOf i j)) ∧
      (∀ j : Fin 32, v.bit j = false ∨ ((s.ch c).slbBuf (bufOf i j)).ready = true →
        (t.ch c).slbBuf (bufOf i j) = (s.ch c).slbBuf (bufOf i j)) ∧
      (∀ b, b / 32 ≠ i.val → (t.ch c).slbBuf b = (s.ch c).slbBuf b)) ∧
  (∀ (s : State) (snd : Sender) (c : Ch) (i : Fin 4) (v : Word), s.reaches snd c → Own snd → Free s c pgSLB →
    (let ends := fun j => v.bit j && ((s.ch c).slbBuf (32 * i.val + j)).ready && !((s.ch c).slbBuf (32 * i.val + j)).taken
     ∃ t, Sys2Proof.Machine.exec (.slbTxabort snd c i v) s = .next t ∧
      (∀ j : Fin 32, ends j = true → BufOver (t.ch c) (bufOf i j)) ∧
      (∀ j : Fin 32, ends j = false → (t.ch c).slbBuf (bufOf i j) = (s.ch c).slbBuf (bufOf i j)) ∧
      (∀ b, b / 32 ≠ i.val → (t.ch c).slbBuf b = (s.ch c).slbBuf b) ∧
      t.freeCtr = s.freeCtr + 2 * ((List.range 32).filter ends).length)) ∧
  (∀ (s : State) (c : Ch) (b : Fin 128),
    let falls := (s.ch c).live pgSLB = true ∧ (s.ch c).due ((s.ch c).slbBuf b).fire = true ∧
      ((s.ch c).slbBuf b).ready = true ∧ ((s.ch c).slbBuf b).taken = false
    (falls → ∃ t, Sys2Proof.Machine.exec (.slbDeadline c b) s = .next t ∧ BufOver (t.ch c) b ∧
      SlbCounted (s.ch c) (t.ch c) 18 ∧ ∀ b' : Nat, b' ≠ b.val → (t.ch c).slbBuf b' = (s.ch c).slbBuf b') ∧
    (¬ falls → Sys2Proof.Machine.exec (.slbDeadline c b) s = .next s)) ∧
  (∀ (s : State) (snd : Sender) (c : Ch) (j : Fin 512), s.reaches snd c → Reader s snd c → Free s c pgSLB →
    ∃ t, Sys2Proof.Machine.exec (.slbEmptyRead snd c j) s = .next t ∧
      t.ch c = (s.ch c).setReg pgSLB (0x800 + 4 * j.val) 0 ∧ (∀ d, d ≠ c → t.ch d = s.ch d) ∧
      (snd ≠ .rook → Answered s t (senderFn snd c) (.inl (bytesLE 4 ((s.ch c).view pgSLB (0x800 + 4 * j.val)).toNat))))

namespace Sys2Proof.Claims

/-- Receiving. The samples of a frame with a TSS of 2 to TSSLEN + 1 bits bring its bytes, its time and its end. A frame that breaks no rule is
seen in its slot, counted, and measured where it is a sync frame within the window of a static slot; one that breaks a rule is
counted under it; a node without a schedule only counts. A node that listens follows a valid sync frame, and one whose schedule runs free
keeps it where the frame fits it, with DRIFT; a coldstart gives way to a node of a lower slot; a frame of the node's own reads
back right, or counts, or loses the coldstart. What comes to a medium that does not work changes nothing (16 R432, R433, R435, R436, R439, R443, R444). -/
def SlottedBusReceive : Prop :=
  (∀ (tssLen n idle : Nat) (bs : List Byte), 2 ≤ n → n ≤ tssLen + 1 → bs ≠ [] →
    (SlbLine.run tssLen (lineSamples idle n bs)).ph = .done ∧ (SlbLine.run tssLen (lineSamples idle n bs)).bytes = bs ∧
    (SlbLine.run tssLen (lineSamples idle n bs)).first = idle + 1 ∧
    (SlbLine.run tssLen (lineSamples idle n bs)).fin = idle + 8 * (n + 10 * bs.length + 3) + 1) ∧
  (∀ (s : State) (c : Ch) (m : Port) (f : SlbRx) (x : SlbIn), Brings s c m f x → Judged (s.ch c) m x →
    slbRules13 m x = none → (s.ch c).slb.sched = true → (s.ch c).slbRules46 m x = true →
    (s.ch c).slb.state ≠ .config → (s.ch c).slb.state ≠ .listen →
    ∃ t, Sys2Proof.Machine.exec (.slbFrameRx c m f) s = .next t ∧
      (t.ch c).slb.med m = { (s.ch c).slb.med m with had := true, seen := ⟨true, ((s.ch c).slb.med m).seen.invalid,
        (slbFields x.bytes).null, x.fes, (slbFields x.bytes).cycle, (slbFields x.bytes).pay, x.stamp⟩ } ∧
      (t.ch c).slb.med m.other = (s.ch c).slb.med m.other ∧ SlbCounted (s.ch c) (t.ch c) m.num ∧
      ((slbFields x.bytes).null = true → SlbCounted (s.ch c) (t.ch c) 13) ∧
      (if (slbFields x.bytes).sync = true ∧ (s.ch c).slb.dynamic = false ∧ (s.ch c).slb.state.timed = true then
        (t.ch c).slb.other = true ∧
        (if ((s.ch c).slbDev x (slbFields x.bytes).id).natAbs ≤ (s.ch c).syncWin then
          let old := if (s.ch c).slb.cycle % 2 = 0 then (s.ch c).slb.measEven else (s.ch c).slb.measOdd
          (if (s.ch c).slb.cycle % 2 = 0 then (t.ch c).slb.measEven else (t.ch c).slb.measOdd) =
            measAdd old (slbFields x.bytes).id m ((s.ch c).slbDev x (slbFields x.bytes).id)
        else (t.ch c).slb.measEven = (s.ch c).slb.measEven ∧ (t.ch c).slb.measOdd = (s.ch c).slb.measOdd ∧
          SlbCounted (s.ch c) (t.ch c) 15)
      else (t.ch c).slb.measEven = (s.ch c).slb.measEven ∧ (t.ch c).slb.measOdd = (s.ch c).slb.measOdd ∧
        (t.ch c).slb.other = (s.ch c).slb.other)) ∧
  (∀ (s : State) (c : Ch) (m : Port) (f : SlbRx) (x : SlbIn) (i : Nat), Brings s c m f x → Judged (s.ch c) m x →
    (s.ch c).slb.state ≠ .config →
    slbRules13 m x = some i ∨ (i = 8 ∧ slbRules13 m x = none ∧ (s.ch c).slb.sched = true ∧
      (s.ch c).slbRules46 m x = false ∧ ((s.ch c).slb.state = .listen → (slbFields x.bytes).sync = false)) →
    ∃ t, Sys2Proof.Machine.exec (.slbFrameRx c m f) s = .next t ∧
      (t.ch c).slb.med m = { (s.ch c).slb.med m with
        seen := { ((s.ch c).slb.med m).seen with invalid := true, fes := x.fes } } ∧
      SlbCounted (s.ch c) (t.ch c) (i + m.num) ∧ (t.ch c).slb.state = (s.ch c).slb.state ∧
      (t.ch c).slb.measEven = (s.ch c).slb.measEven ∧ (t.ch c).slb.measOdd = (s.ch c).slb.measOdd) ∧
  (∀ (s : State) (c : Ch) (m : Port) (f : SlbRx) (x : SlbIn), Brings s c m f x → (s.ch c).slb.sched = false →
    slbRules13 m x = none →
    (s.ch c).slb.state = .sleep ∨ ((s.ch c).slb.state = .listen ∧ (slbFields x.bytes).sync = false) →
    ∃ t, Sys2Proof.Machine.exec (.slbFrameRx c m f) s = .next t ∧ SlbCounted (s.ch c) (t.ch c) m.num ∧
      (t.ch c).slb = { (s.ch c).slb with cold := (s.ch c).slb.cold && (s.ch c).slb.state ≠ .listen }) ∧
  (∀ (s : State) (c : Ch) (m : Port) (f : SlbRx) (x : SlbIn), Brings s c m f x → slbRules13 m x = none →
    (slbFields x.bytes).sync = true → (s.ch c).slb.state = .listen →
    ∃ t, Sys2Proof.Machine.exec (.slbFrameRx c m f) s = .next t ∧ (t.ch c).slb.state = .integrate ∧
      (t.ch c).slb.sched = true ∧ (t.ch c).slb.freeRun = false ∧ (t.ch c).slb.rate = 0 ∧ (t.ch c).slb.first = true ∧
      (t.ch c).slb.measEven = [] ∧ (t.ch c).slb.measOdd = [] ∧
      (if (s.ch c).slb.freeRun = true ∧ ((s.ch c).slbDev x (slbFields x.bytes).id).natAbs ≤ (s.ch c).syncWin ∧
          (slbFields x.bytes).cycle = (s.ch c).slb.cycle then
        (t.ch c).slb.cycle = (s.ch c).slb.cycle ∧ (t.ch c).slb.medA.slot = (s.ch c).slb.medA.slot ∧
        (t.ch c).slb.medB.slot = (s.ch c).slb.medB.slot ∧ (t.ch c).slb.dynamic = (s.ch c).slb.dynamic
      else (t.ch c).slb.cycle = (slbFields x.bytes).cycle ∧ (t.ch c).slb.medA.slot = (slbFields x.bytes).id ∧
        (t.ch c).slb.medB.slot = (slbFields x.bytes).id ∧ (t.ch c).slb.dynamic = false ∧
        ((t.ch c).slb.med m).seen.valid = decide ((slbFields x.bytes).plen = (s.ch c).stPlen)) ∧
      (if (s.ch c).slb.freeRun = true then
        (t.ch c).reg pgSLB 0x070 = BitVec.ofNat 32
          (toBits 24 (clampTo (2 ^ 23 - 1) ((s.ch c).slbDev x (slbFields x.bytes).id)) + 2 ^ 31)
      else (t.ch c).reg pgSLB 0x070 = (s.ch c).reg pgSLB 0x070)) ∧
  (∀ (s : State) (c : Ch) (m : Port) (f : SlbRx) (x : SlbIn), Brings s c m f x → slbRules13 m x = none →
    (s.ch c).slb.state = .coldstart → ((s.ch c).slb.med m).tx = [] → (slbFields x.bytes).sync = true →
    (slbFields x.bytes).cold = true → (slbFields x.bytes).id < (s.ch c).syncSlot →
    ∃ t, Sys2Proof.Machine.exec (.slbFrameRx c m f) s = .next t ∧ (t.ch c).slb.state = .integrate ∧
      (t.ch c).slb.cycle = (slbFields x.bytes).cycle ∧ (t.ch c).slb.medA.slot = (slbFields x.bytes).id ∧
      ((t.ch c).reg pgSLB 0x06C).bit 2 = true ∧ SlbCounted (s.ch c) (t.ch c) 23 ∧ SlbCounted (s.ch c) (t.ch c) m.num) ∧
  (∀ (s : State) (c : Ch) (m : Port) (f : SlbRx) (x : SlbIn), Brings s c m f x → (s.ch c).slb.state.timed = true →
    ((s.ch c).slb.med m).tx ≠ [] →
    (x.coded = true ∧ x.bytes = ((s.ch c).slb.med m).tx → Sys2Proof.Machine.exec (.slbFrameRx c m f) s =
      .next (s.setCh c { s.ch c with slb := (s.ch c).slb.onMed m fun y => { y with back := true } })) ∧
    (¬ (x.coded = true ∧ x.bytes = ((s.ch c).slb.med m).tx) → (s.ch c).slb.state = .coldstart →
      ∃ t, Sys2Proof.Machine.exec (.slbFrameRx c m f) s = .next t ∧ (t.ch c).slb.state = listens (s.ch c) ∧
        ((t.ch c).reg pgSLB 0x06C).bit 2 = true ∧ SlbCounted (s.ch c) (t.ch c) 23) ∧
    (¬ (x.coded = true ∧ x.bytes = ((s.ch c).slb.med m).tx) → (s.ch c).slb.state ≠ .coldstart →
      ∃ t, Sys2Proof.Machine.exec (.slbFrameRx c m f) s = .next t ∧ ((t.ch c).slb.med m).seen.invalid = true ∧
        ((t.ch c).slb.med m).back = ((s.ch c).slb.med m).back ∧
        SlbCounted (s.ch c) (t.ch c) ((slbRules13 m x).getD 8 + m.num))) ∧
  (∀ (s : State) (c : Ch) (m : Port) (f : SlbRx), (s.ch c).live pgSLB = false ∨ (s.ch c).slMed m = false ∨
    (s.ch c).slb.state = .config ∨ (s.ch c).slbIn ((s.node c).rxd f.samples) f.at0 f.stamp = none →
    Sys2Proof.Machine.exec (.slbFrameRx c m f) s = .next s)

/-- Slots. At the action point each enabled medium with a buffer sends it, and a sync node its sync frame in its own slot, with no data
where no buffer was ready. A static slot and a minislot end, a frame's minislots counted from its end of FES, and the counters move on;
a static slot without data of anyone counts in SLB_EMPTY; a receive buffer takes the valid frame, one whose media differ flagged; the item of a
frame sent on all its media ends OK; the next slot's ready buffer is taken and read, and a dynamic one sent where it fits and counted late where it
does not (16 R435, R437, R438, R448, R449, R451, R452). -/
def SlottedBusSlots : Prop :=
  (∀ (s : State) (c : Ch), (s.ch c).live pgSLB = true → (s.ch c).slb.dynamic = false →
    (s.ch c).slb.state = .active ∨ ((s.ch c).slb.state = .coldstart ∧ ownSlot (s.ch c) = true) →
    ∃ t, Sys2Proof.Machine.exec (.slbActionPoint c) s = .next t ∧ ∀ m : Port,
      let y := (s.ch c).slb.med m
      let own := ownSlot (s.ch c)
      if (s.ch c).slMed m = true ∧ y.tx = [] ∧ y.pend ≠ none then
        (t.ch c).slb.med m = { y with tx := slbFrame m own (own && (s.ch c).slCold) false y.slot (s.ch c).slb.cycle y.pay,
                                      data := true, back := false, time := (s.ch c).now } ∧
        SlbCounted (s.ch c) (t.ch c) (10 + m.num)
      else if (s.ch c).slMed m = true ∧ y.tx = [] ∧ own = true then
        (t.ch c).slb.med m = { y with tx := slbFrame m true (s.ch c).slCold true y.slot (s.ch c).slb.cycle
                                        (List.replicate (s.ch c).stPlen 0),
                                      data := false, back := false, time := (s.ch c).now } ∧
        SlbCounted (s.ch c) (t.ch c) (10 + m.num)
      else (t.ch c).slb.med m = y ∧
        (t.ch c).reg pgSLB (0x228 + 4 * m.num) = (s.ch c).reg pgSLB (0x228 + 4 * m.num)) ∧
  (∀ (s : State) (c : Ch), (s.ch c).live pgSLB = false ∨ (s.ch c).slb.dynamic = true ∨
    ((s.ch c).slb.state ≠ .active ∧ ((s.ch c).slb.state ≠ .coldstart ∨ ownSlot (s.ch c) = false)) →
    Sys2Proof.Machine.exec (.slbActionPoint c) s = .next s) ∧
  (∀ (s : State) (c : Ch), (s.ch c).live pgSLB = true → (s.ch c).slb.sched = true → (s.ch c).slb.dynamic = false →
    (s.ch c).slb.medA.slot ≠ 0 → (s.ch c).slb.medA.slot ≤ 1023 →
    ∃ t, Sys2Proof.Machine.exec (.slbStaticSlotEnd c) s = .next t ∧
      (t.ch c).slb.medA.slot = (s.ch c).slb.medA.slot + 1 ∧ (t.ch c).slb.medB.slot = (s.ch c).slb.medA.slot + 1 ∧
      (t.ch c).slb.dynamic = decide ((s.ch c).stSlots ≤ (s.ch c).slb.medA.slot) ∧
      (t.ch c).slb.medA.seen = SlbSeen.reset ∧ (t.ch c).slb.medB.seen = SlbSeen.reset ∧
      (let slot := (s.ch c).slb.medA.slot
       let off := 0x800 + 4 * (slot / 2)
       let got := fun m => (s.ch c).slMed m && ((((s.ch c).slb.med m).seen.valid && !((s.ch c).slb.med m).seen.null) ||
         (((s.ch c).slb.med m).data && ((s.ch c).slb.med m).back))
       if (s.ch c).slb.state.timed = true ∧ got .a = false ∧ got .b = false then
         ((t.ch c).reg pgSLB off).field (16 * (slot % 2)) 16 =
           min 65535 (((s.ch c).reg pgSLB off).field (16 * (slot % 2)) 16 + 1) ∧ SlbCounted (s.ch c) (t.ch c) 12
       else (t.ch c).reg pgSLB off = (s.ch c).reg pgSLB off)) ∧
  (∀ (s : State) (c : Ch), (s.ch c).live pgSLB = false ∨ (s.ch c).slb.sched = false ∨ (s.ch c).slb.dynamic = true ∨
    (s.ch c).slb.medA.slot = 0 → Sys2Proof.Machine.exec (.slbStaticSlotEnd c) s = .next s) ∧
  (∀ (s : State) (c : Ch) (b : Nat), (s.ch c).live pgSLB = true → (s.ch c).slb.sched = true →
    (s.ch c).slb.dynamic = false → (s.ch c).slb.medA.slot ≠ 0 → (∀ b, ((s.ch c).slbBuf b).ready = false) →
    (s.ch c).slbMatch false (s.ch c).slb.medA.slot (s.ch c).slb.cycle .a = some b →
    (s.ch c).slbMatch false (s.ch c).slb.medB.slot (s.ch c).slb.cycle .b = some b →
    (let va := (s.ch c).slMed .a && (s.ch c).slb.medA.seen.valid
     let vb := (s.ch c).slMed .b && (s.ch c).slb.medB.seen.valid
     let g := if va then (s.ch c).slb.medA.seen else (s.ch c).slb.medB.seen
     va = true ∨ vb = true → Storable (s.ch c) b g.payload.length →
     ∃ t, Sys2Proof.Machine.exec (.slbStaticSlotEnd c) s = .next t ∧
       Stored (s.ch c) (t.ch c) b va vb ((s.ch c).slMed .a && (s.ch c).slb.medA.seen.invalid)
         ((s.ch c).slMed .b && (s.ch c).slb.medB.seen.invalid) g
         (va && vb && (s.ch c).slb.medA.seen.payload ≠ (s.ch c).slb.medB.seen.payload))) ∧
  (∀ (s : State) (c : Ch) (m : Port) (b : Nat), (s.ch c).live pgSLB = true → (s.ch c).slb.sched = true →
    (s.ch c).slb.dynamic = true → ((s.ch c).slb.med m).mini < (s.ch c).mSlots → (∀ b, ((s.ch c).slbBuf b).ready = false) →
    (s.ch c).slbMatch false ((s.ch c).slb.med m).slot (s.ch c).slb.cycle m = some b → (s.ch c).slMed m = true →
    ((s.ch c).slb.med m).seen.valid = true → Storable (s.ch c) b ((s.ch c).slb.med m).seen.payload.length →
    ∃ t, Sys2Proof.Machine.exec (.slbMinislotEnd c m) s = .next t ∧
      Stored (s.ch c) (t.ch c) b (m = .a) (m = .b) (m = .a && ((s.ch c).slb.med m).seen.invalid)
        (m = .b && ((s.ch c).slb.med m).seen.invalid) ((s.ch c).slb.med m).seen false) ∧
  (∀ (s : State) (c : Ch) (m : Port) (b : Nat), (s.ch c).live pgSLB = true → (s.ch c).slb.sched = true →
    (s.ch c).slb.dynamic = false → (s.ch c).slb.medA.slot ≠ 0 → ((s.ch c).slbBuf b).ready = true → b < 128 →
    ((s.ch c).slb.med m).pend = some b → ((s.ch c).slb.med m).tx ≠ [] →
    (((s.ch c).slb.med m.other).pend = some b ∧ ((s.ch c).slb.med m.other).tx ≠ []) ∨
      (((s.ch c).slb.med m.other).pend = none ∧ (s.ch c).bufOn b m.other = false) →
    ∃ t, Sys2Proof.Machine.exec (.slbStaticSlotEnd c) s = .next t ∧ BufOver (t.ch c) b ∧ SlbCounted (s.ch c) (t.ch c) 17) ∧
  (∀ (s : State) (c : Ch) (m : Port) (b : Nat), (s.ch c).live pgSLB = true → (s.ch c).slb.sched = true →
    (s.ch c).slb.dynamic = false → (s.ch c).slb.medA.slot ≠ 0 → (s.ch c).slb.medA.slot < (s.ch c).stSlots →
    (s.ch c).slb.state = .active → ((s.ch c).slSync = false ∨ (s.ch c).syncSlot ≠ (s.ch c).slb.medA.slot + 1) →
    (∀ m, ((s.ch c).slb.med m).tx = [] ∧ ((s.ch c).slb.med m).seen.valid = false) →
    (s.ch c).slbMatch true ((s.ch c).slb.medA.slot + 1) (s.ch c).slb.cycle m = some b → (s.ch c).bufDue b m = true →
    (∀ b', ((s.ch c).slbBuf b').ready = true → b' = b) → (s.ch c).ecc = Ecc.reset → Unwatched (s.ch c) →
    (s.ch c).stPlen = 0 ∨ (s.ch c).settled mSLB ((s.ch c).bufAt b + 0x10) (s.ch c).stPlen false ≠ .refused →
    ∃ t, Sys2Proof.Machine.exec (.slbStaticSlotEnd c) s = .next t ∧ ((t.ch c).slb.med m).pend = some b ∧
      ((t.ch c).slb.med m).pay = (s.ch c).sram.read ((s.ch c).bufAt b + 0x10) (s.ch c).stPlen ∧
      ((t.ch c).slbBuf b).taken = true) ∧
  (∀ (s : State) (c : Ch) (m : Port), (s.ch c).live pgSLB = true → (s.ch c).slb.sched = true →
    (s.ch c).slb.dynamic = true → ((s.ch c).slb.med m).mini < (s.ch c).mSlots →
    (let y := (s.ch c).slb.med m
     let used := if y.tx ≠ [] then (s.ch c).miniSpan y.mini ((s.ch c).ownFes y)
       else if y.seen.valid ∨ y.seen.invalid then (s.ch c).miniSpan y.mini y.seen.fes else 1
     ∃ t, Sys2Proof.Machine.exec (.slbMinislotEnd c m) s = .next t ∧ ((t.ch c).slb.med m).slot = min 2047 (y.slot + 1) ∧
       ((t.ch c).slb.med m).mini = y.mini + used ∧ ((t.ch c).slb.med m).seen = SlbSeen.reset ∧
       ((t.ch c).slb.med m.other).slot = ((s.ch c).slb.med m.other).slot)) ∧
  (∀ (s : State) (c : Ch) (m : Port), (s.ch c).live pgSLB = false ∨ (s.ch c).slb.sched = false ∨
    (s.ch c).slb.dynamic = false ∨ (s.ch c).mSlots ≤ ((s.ch c).slb.med m).mini →
    Sys2Proof.Machine.exec (.slbMinislotEnd c m) s = .next s) ∧
  (∀ (s : State) (c : Ch) (m : Port) (b : Nat), (s.ch c).live pgSLB = true → (s.ch c).slb.sched = true →
    (s.ch c).slb.dynamic = true → ((s.ch c).slb.med m).mini + 1 < (s.ch c).mSlots → (s.ch c).slb.state = .active →
    ((s.ch c).slb.med m).tx = [] → ((s.ch c).slb.med m).seen.valid = false → ((s.ch c).slb.med m).seen.invalid = false →
    ((s.ch c).slb.med m).slot + 1 < 2047 →
    (s.ch c).slbMatch true (((s.ch c).slb.med m).slot + 1) (s.ch c).slb.cycle m = some b → (s.ch c).bufDue b m = true →
    (let plen := ((s.ch c).bufCfg b 1).field 0 8
     let action := (s.ch c).mtAt ((s.ch c).miniAt (((s.ch c).slb.med m).mini + 1) + (s.ch c).dapo)
     let fits := action + ((s.ch c).dynBits plen * (s.ch c).slTb : Nat) < (s.ch c).mtAt ((s.ch c).miniAt (s.ch c).mSlots)
     (fits → (s.ch c).ecc = Ecc.reset → Unwatched (s.ch c) →
       plen = 0 ∨ (s.ch c).settled mSLB ((s.ch c).bufAt b + 0x10) plen false ≠ .refused →
       ∃ t, Sys2Proof.Machine.exec (.slbMinislotEnd c m) s = .next t ∧ ((t.ch c).slb.med m).pend = some b ∧
         ((t.ch c).slb.med m).tx = slbFrame m false false false (((s.ch c).slb.med m).slot + 1) (s.ch c).slb.cycle
           ((s.ch c).sram.read ((s.ch c).bufAt b + 0x10) plen) ∧
         SlbCounted (s.ch c) (t.ch c) (10 + m.num)) ∧
     (¬ fits → ∃ t, Sys2Proof.Machine.exec (.slbMinislotEnd c m) s = .next t ∧ ((t.ch c).slb.med m).tx = [] ∧
       ((t.ch c).slbBuf b) = ((s.ch c).slbBuf b) ∧ SlbCounted (s.ch c) (t.ch c) 28)))

/-- Cycles. The corrections are the fault-tolerant midpoints within their limits, and a clamp takes an ACTIVE node to PASSIVE; RATE is in
force from the next even cycle. A cycle pair's end shows LIVE; the fourth cycle of a coldstart ends in ACTIVE, the second good pair of an integrating node
too, one without a measurement in LISTEN; a node that hears no other is ALONE; a bad pair makes a node PASSIVE, two good ones
ACTIVE again, PASSMAX others LISTEN. A cycle starts with its slot 1, and a SLEEP that waits then acts; the LISTEN timer starts the coldstart wait, whose end in silence begins
the schedule with the startup frame; a cycle point raises its event. What has nothing to do changes nothing (16 R430, R439 to R446, R453 to R455). -/
def SlottedBusCycles : Prop :=
  (∀ (s : State) (c : Ch), (s.ch c).live pgSLB = true → (s.ch c).slb.state.timed = true → (s.ch c).slb.cycle % 2 = 1 →
    ∃ t, Sys2Proof.Machine.exec (.slbOffsetRateCorrection c) s = .next t ∧
      (let o := clampTo ((s.ch c).sl 0x058 0 16) (offsetOf (s.ch c))
       let r := clampTo ((s.ch c).sl 0x058 16 16) (rateOf (s.ch c))
       (t.ch c).slb.offset = o ∧ (t.ch c).slb.rateNext = r ∧ (t.ch c).slb.rate = (s.ch c).slb.rate ∧
       (o ≠ offsetOf (s.ch c) → ((t.ch c).reg pgSLB 0x06C).bit 3 = true ∧ SlbCounted (s.ch c) (t.ch c) 21) ∧
       (r ≠ rateOf (s.ch c) → ((t.ch c).reg pgSLB 0x06C).bit 4 = true ∧ SlbCounted (s.ch c) (t.ch c) 22) ∧
       (t.ch c).slb.state = (if (s.ch c).slb.state = .active ∧ (o ≠ offsetOf (s.ch c) ∨ r ≠ rateOf (s.ch c)) then .passive
         else (s.ch c).slb.state) ∧
       (o = offsetOf (s.ch c) → r = rateOf (s.ch c) → (t.ch c).reg pgSLB 0x06C = (s.ch c).reg pgSLB 0x06C))) ∧
  (∀ (s : State) (c : Ch), (s.ch c).live pgSLB = false ∨ (s.ch c).slb.state.timed = false ∨ (s.ch c).slb.cycle % 2 = 0 →
    Sys2Proof.Machine.exec (.slbOffsetRateCorrection c) s = .next s) ∧
  (∀ (s : State) (c : Ch), (s.ch c).live pgSLB = true → (s.ch c).slb.sched = true → (s.ch c).slb.cycle % 2 = 1 →
    ∃ t, Sys2Proof.Machine.exec (.slbCyclePairEnd c) s = .next t ∧
      (t.ch c).slb.medA.live = (s.ch c).slb.medA.had ∧ (t.ch c).slb.medB.live = (s.ch c).slb.medB.had ∧
      (t.ch c).slb.medA.had = false ∧ (t.ch c).slb.medB.had = false ∧
      ((s.ch c).slb.state.timed = true → (t.ch c).slb.measEven = [] ∧ (t.ch c).slb.measOdd = [] ∧
        (t.ch c).slb.cntEven = min 15 (s.ch c).slb.measEven.length ∧
        (t.ch c).slb.cntOdd = min 15 (s.ch c).slb.measOdd.length) ∧
      ((s.ch c).slb.state = .coldstart →
        if (s.ch c).slb.cycle = 3 then (t.ch c).slb.state = .active ∧ (t.ch c).slb.alone = !(s.ch c).slb.other ∧
          SlbCounted (s.ch c) (t.ch c) 24
        else (t.ch c).slb.state = .coldstart) ∧
      ((s.ch c).slb.state = .integrate →
        if (s.ch c).slb.first then (t.ch c).slb.state = .integrate
        else if (s.ch c).slb.measEven = [] ∧ (s.ch c).slb.measOdd = [] then (t.ch c).slb.state = listens (s.ch c)
        else if pairGood (s.ch c) = false then (t.ch c).slb.state = .integrate ∧ (t.ch c).slb.pairs = 0
        else if (s.ch c).slb.pairs = 1 then (t.ch c).slb.state = .active ∧ SlbCounted (s.ch c) (t.ch c) 25
        else (t.ch c).slb.state = .integrate ∧ (t.ch c).slb.pairs = (s.ch c).slb.pairs + 1) ∧
      ((s.ch c).slb.state = .active →
        if (s.ch c).slSync then (t.ch c).slb.state = .active ∧ (t.ch c).slb.alone = !(s.ch c).slb.other
        else if pairGood (s.ch c) then (t.ch c).slb.state = .active
        else (t.ch c).slb.state = .passive ∧ SlbCounted (s.ch c) (t.ch c) 29) ∧
      ((s.ch c).slb.state = .passive →
        if (s.ch c).slb.first then (t.ch c).slb.state = .passive
        else if pairGood (s.ch c) = true ∧ (s.ch c).slb.pairs = 1 then (t.ch c).slb.state = .active
        else if (s.ch c).sl 0x05C 0 8 ≠ 0 ∧ (s.ch c).sl 0x05C 0 8 ≤ (s.ch c).slb.passed + 1 then
          (t.ch c).slb.state = listens (s.ch c) ∧ SlbCounted (s.ch c) (t.ch c) 26
        else (t.ch c).slb.state = .passive ∧ (t.ch c).slb.passed = (s.ch c).slb.passed + 1 ∧
          (t.ch c).slb.pairs = (if pairGood (s.ch c) then (s.ch c).slb.pairs + 1 else 0)) ∧
      ((s.ch c).slb.state.timed = false → (t.ch c).slb.state = (s.ch c).slb.state)) ∧
  (∀ (s : State) (c : Ch), (s.ch c).live pgSLB = false ∨ (s.ch c).slb.sched = false ∨ (s.ch c).slb.cycle % 2 = 0 →
    Sys2Proof.Machine.exec (.slbCyclePairEnd c) s = .next s) ∧
  (∀ (s : State) (c : Ch), (s.ch c).live pgSLB = true → (s.ch c).slb.sched = true →
    ∃ t, Sys2Proof.Machine.exec (.slbCycleStart c) s = .next t ∧ (t.ch c).slb.cycle = ((s.ch c).slb.cycle + 1) % 64 ∧
      (t.ch c).slb.medA.slot = 1 ∧ (t.ch c).slb.medB.slot = 1 ∧ (t.ch c).slb.dynamic = false ∧
      (if (s.ch c).slb.sleepReq then (t.ch c).slb.state = .sleep ∧ (t.ch c).slb.freeRun = true ∧ (t.ch c).slb.rate = 0
      else (t.ch c).slb.state = (s.ch c).slb.state ∧
        (t.ch c).slb.rate = (if (s.ch c).slb.cycle % 2 = 1 then (s.ch c).slb.rateNext else (s.ch c).slb.rate))) ∧
  (∀ (s : State) (c : Ch), (s.ch c).live pgSLB = false ∨ (s.ch c).slb.sched = false →
    Sys2Proof.Machine.exec (.slbCycleStart c) s = .next s) ∧
  (∀ (s : State) (c : Ch),
    ((s.ch c).live pgSLB = true → (s.ch c).slb.state = .listen → (s.ch c).slCold = true →
      Sys2Proof.Machine.exec (.slbListenTimerExpiry c) s =
        .next (s.setCh c { s.ch c with slb := { (s.ch c).slb with cold := true } })) ∧
    ((s.ch c).live pgSLB = false ∨ (s.ch c).slb.state ≠ .listen ∨ (s.ch c).slCold = false →
      Sys2Proof.Machine.exec (.slbListenTimerExpiry c) s = .next s)) ∧
  (∀ (s : State) (c : Ch) (silent : Bool), (s.ch c).live pgSLB = true → (s.ch c).slb.state = .listen →
    (s.ch c).slb.cold = true →
    (silent = false ∨ (s.node c).fieldUp = false → Sys2Proof.Machine.exec (.slbColdstartWaitEnd c silent) s =
      .next (s.setCh c { s.ch c with slb := { (s.ch c).slb with cold := false } })) ∧
    (silent = true → (s.node c).fieldUp = true →
      ∃ t, Sys2Proof.Machine.exec (.slbColdstartWaitEnd c silent) s = .next t ∧ (t.ch c).slb.state = .coldstart ∧
        (t.ch c).slb.cycle = 0 ∧ (t.ch c).slb.sched = true ∧ (t.ch c).slb.rate = 0 ∧ (t.ch c).slb.cold = false ∧
        ∀ m : Port, ((t.ch c).slb.med m).slot = (s.ch c).syncSlot ∧
          ((s.ch c).slSync = true → (s.ch c).slMed m = true → ((t.ch c).slb.med m).tx =
            slbFrame m true (s.ch c).slCold true (s.ch c).syncSlot 0 (List.replicate (s.ch c).stPlen 0) ∧
            SlbCounted (s.ch c) (t.ch c) (10 + m.num)))) ∧
  (∀ (s : State) (c : Ch) (silent : Bool), (s.ch c).live pgSLB = false ∨ (s.ch c).slb.state ≠ .listen ∨
    (s.ch c).slb.cold = false → Sys2Proof.Machine.exec (.slbColdstartWaitEnd c silent) s = .next s) ∧
  (∀ (s : State) (c : Ch) (i : Fin 8),
    let w := (s.ch c).reg pgSLB (0x100 + 4 * i.val)
    let fires := (s.ch c).live pgSLB = true ∧ (s.ch c).slb.sched = true ∧ w.bit 31 = true ∧
      cycleFilter (s.ch c).slb.cycle (w.field 16 6) (w.field 22 3) = true
    (fires → ∃ t, Sys2Proof.Machine.exec (.cyclePoint c i) s = .next t ∧ RegsOnly (s.ch c) (t.ch c) ∧
      ((t.ch c).reg pgSLB 0x0B0).bit i = true ∧ ((t.ch c).reg pgSLB 0x014).bit 0 = true) ∧
    (¬ fires → Sys2Proof.Machine.exec (.cyclePoint c i) s = .next s))

end Sys2Proof.Claims

/-- The slotted bus in its schedule: what its receivers bring, what its slots do, and how cycles pass (16 R430, R432 to R446, R448,
R449, R451 to R455). -/
def Obligations.SlottedBusSchedule : Prop := SlottedBusReceive ∧ SlottedBusSlots ∧ SlottedBusCycles

/-! ## The channels apart (01) -/

namespace Sys2Proof.Claims

/-- The channel a command names, for the commands that name one as their channel. -/
def chanOf : Instr → Option Ch
  | .blockResetEnd c .. | .evtRookpendClear _ c .. | .evtHostpendClear _ c .. | .vfevPendClear c .. | .mgmtRead c ..
  | .pf4ChannelWrite c .. | .chctlGrantWrite _ c .. | .ethRxFrame c .. | .canRxFrame c .. | .whistle c
  | .whistleEn _ c .. | .whistleStep _ c .. | .realign _ c .. | .armall _ c .. | .arm _ c .. | .ledgerMark _ c ..
  | .timeAdjWrite _ c .. | .timeNowHiWrite _ c .. | .timeNowLoWrite _ c .. | .timeNowLoRead _ c
  | .whistleCountLoRead _ c | .whistleTimeLoRead _ c | .timeCtrlWrite _ c .. | .servoReferenceEvent c ..
  | .referenceInstantMissed c | .pwrOn c | .channelRailGood c | .pwrOnRailTimeout c | .pllLock c | .pwrOff c
  | .chReset c | .channelResetDrainEnd c | .channelResetScrubEnd c | .chctlRstreq _ c .. | .loadBegin c | .loadEnd c
  | .bootKept c | .bootVerifyEnd c | .otpMinver c | .otpKey c | .otpRevoke c | .otpLock c
  | .refclkLoss c | .refclkReturn c | .channelPowerFault c | .memoryWindowAccess c .. | .numvfsWrite c ..
  | .vfEnableClear c | .dmaRingprodWrite _ c .. | .dmaDescriptorFetch c .. | .dmaReadCompletion c ..
  | .dmaCompletionTimeout c .. | .dmaDeadline c .. | .dmaItemCompletion c .. | .dmaRingEnable _ c ..
  | .dmaRingDisable _ c .. | .dmaStoppedClear _ c .. | .dmaDropsRead _ c .. | .memownBankWrite _ c ..
  | .handoverEnd c .. | .eccWriteback c .. | .memownCecntRead _ c | .mbInWrite _ c .. | .send _ c | .mbInack _ c ..
  | .mbOutWrite _ c .. | .mbOutsend _ c .. | .free _ c | .commonWrite _ c .. | .tokenClaim _ c ..
  | .tokenRelease _ c .. | .mbTokforce _ c .. | .dbRing _ c .. | .mbHdbRing _ c .. | .doorbellClear _ c ..
  | .doorbellMaskWrite _ c .. | .bundleIssue c | .eventEntry c | .impreciseFaultEntry c | .waitEnd c
  | .fabricLoadReturn c | .storeBufferAccept c | .halt _ c | .resume _ c | .debugStep _ c | .rdataAccess _ c ..
  | .spillbaseWrite _ c .. | .pawnEngineStep c .. | .pawnGo _ c .. | .pawnStop _ c .. | .pawnTxfPush _ c ..
  | .pawnRxfPop _ c .. | .pawnIrqset _ c .. | .pawnIrqClear _ c .. | .pawnDrainWord c .. | .pawnFillWord c ..
  | .pawnDrainResume _ c .. | .dieStart _ c .. | .dieFeed8 _ c .. | .dieFeed16 _ c .. | .dieFeed32 _ c ..
  | .dieStateWrite _ c .. | .dieMark _ c .. | .carryProbe _ c .. | .probeEnd c | .carryRetag _ c ..
  | .carryFailcntRead _ c | .ethTransmitStart c .. | .ethTransmitEnd c .. | .ethRxtsRead _ c .. | .ethTxtsRead _ c ..
  | .linkChange c .. | .mdioStart _ c .. | .mdioDone c .. | .prpLanTimeout c .. | .walkStart c | .walkEnd c
  | .clsExcconsWrite _ c .. | .clsBuffree _ c .. | .clsExccfgEn _ c .. | .clsPoolcfgEn _ c ..
  | .shapeTxprodWrite _ c .. | .txRingFetch c .. | .txEntryCompletion c .. | .txDeadline c .. | .gateEntry c ..
  | .shapeTxcfgEn _ c .. | .txStoppedClear _ c .. | .canTxreq _ c .. | .canTxabort _ c .. | .canAttemptStart c ..
  | .canAttemptEnd c .. | .canDeadline c .. | .recover _ c .. | .busOffRecoveryEnd c .. | .objectHeaderRead _ c ..
  | .objectLastWordRead _ c .. | .objunlock _ c .. | .canRqack _ c .. | .abdStart _ c .. | .abdDwellExpiry c ..
  | .referenceMessageRequest c .. | .ttTimeout c .. | .canModeChange c .. | .tpbFrameRx c .. | .tpbRawCharacter c ..
  | .tpbRawRunClose c .. | .tpbTxprodWrite _ c .. | .tpbAttemptStart c .. | .tpbAttemptEnd c ..
  | .tpbSlotTimerExpiry c .. | .tpbDeadline c .. | .tpbAnswer c .. | .tokenPass c .. | .tpbTokenClaim c ..
  | .tpbBackoffEnd c .. | .tpbBreak c .. | .tpbRqack _ c .. | .tpbStoppedClear _ c .. | .run _ c .. | .sleep _ c ..
  | .wakeup _ c .. | .stop _ c .. | .wakeupPatternEnd ⟨c, _⟩ | .wakeupPatternDetect c .. | .slbFrameRx c ..
  | .slbActionPoint c | .slbMinislotEnd c .. | .slbStaticSlotEnd c | .slbOffsetRateCorrection c | .slbCyclePairEnd c
  | .slbCycleStart c | .slbListenTimerExpiry c | .slbColdstartWaitEnd c .. | .cyclePoint c .. | .slbTxready _ c ..
  | .slbTxabort _ c .. | .slbDeadline c .. | .slbEmptyRead _ c .. | .ppsInEdge c .. | .ppsOutRise c | .ppsOutFall c
  | .timePpsinLoRead _ c | .ttmarkLoRead _ c .. | .busIntegration c .. => some c
  | .unmappedPageAccess _ (.chan c _) _ | .pgFaultClear _ (.chan c _) | .blkreset _ (.chan c _) _
  | .enableWrite _ (.chan c _) _ => some c
  | _ => none

/-- The commands at which read requests of any channel may go out, where one waits for fewer than 64 (01 R35, 05 R136). -/
def letsOut : Instr → Bool
  | .dmaDescriptorFetch .. | .dmaReadCompletion .. | .dmaCompletionTimeout .. | .dmaItemCompletion .. => true
  | _ => false

/-- Two channels agree as by `Keeps`, but for how much of their DMA items has been asked for. -/
def KeepsAsked (k k' : Channel) : Prop :=
  k.Keeps { k' with dma := k.dma } ∧ ∀ f r, ∃ l, k'.ring f r = { k.ring f r with items := l } ∧ Told l = Told (k.ring f r).items

end Sys2Proof.Claims

/-- The channels are apart. A command that names a channel, whatever it is and whatever the state, leaves every other channel as it was: its
power, boot, memories, Rook, Pawns, engines, ports and time, and every register but those of CHCTL and EVT, which a device event forwarded
to that channel writes. The commands that free a place among the 64 read requests of the link may let another channel's go out, and
leave the rest of it. DEV_RESET names a channel in its argument but resets the device, and is none of these (01 R25, R26, R35, 03 R84). -/
def Obligations.OtherChannelsAreUntouched : Prop :=
  ∀ (i : Instr) (c d : Ch) (s t : State), chanOf i = some c → d ≠ c → Sys2Proof.Machine.exec i s = .next t →
    if letsOut i then KeepsAsked (s.ch d) (t.ch d) else (s.ch d).Keeps (t.ch d)
end

