-- ==== Sys2Proof/Laws/Store.lean ====
section
/-!
SUPPORT. The laws of sparse maps and of byte memory: what a read gives after a write, and that every operation keeps the
canonical form.
-/

namespace Sys2Proof.Machine

section Maps
variable {α : Type}

theorem SMap.get?_ins_self (m : SMap α) (x : Nat) (y : α) : SMap.get? (SMap.ins m x y) x = some y := by
  induction m with
  | nil => simp [SMap.ins, SMap.get?]
  | cons e m ih =>
    obtain ⟨a, v⟩ := e
    simp only [SMap.ins]
    split
    · simp [SMap.get?, *]
    · split <;> simp [SMap.get?, *]

theorem SMap.get?_ins_ne (m : SMap α) {x z : Nat} (y : α) (h : z ≠ x) :
    SMap.get? (SMap.ins m x y) z = SMap.get? m z := by
  induction m with
  | nil => simp [SMap.ins, SMap.get?, h]
  | cons e m ih =>
    obtain ⟨a, v⟩ := e
    simp only [SMap.ins]
    split
    · subst_vars; simp [SMap.get?, h]
    · split <;> simp [SMap.get?, *]

theorem SMap.get?_del_self (m : SMap α) (x : Nat) : SMap.get? (SMap.del m x) x = none := by
  induction m with
  | nil => rfl
  | cons e m ih =>
    obtain ⟨a, v⟩ := e
    simp only [SMap.del]
    split
    · exact ih
    · simp [SMap.get?, *]

theorem SMap.get?_del_ne (m : SMap α) {x z : Nat} (h : z ≠ x) : SMap.get? (SMap.del m x) z = SMap.get? m z := by
  induction m with
  | nil => rfl
  | cons e m ih =>
    obtain ⟨a, v⟩ := e
    simp only [SMap.del]
    split
    · subst_vars; simp [SMap.get?, h, ih]
    · simp [SMap.get?, ih]

variable [DecidableEq α]

/-- What a key holds, `b` where it is not listed, after it is set. -/
theorem SMap.getD_put_self (b : α) (m : SMap α) (x : Nat) (y : α) :
    (SMap.get? (SMap.put b m x y) x).getD b = y := by
  unfold SMap.put
  split
  · simp [SMap.get?_del_self, *]
  · simp [SMap.get?_ins_self]

/-- Setting one key leaves every other. -/
theorem SMap.get?_put_ne (b : α) (m : SMap α) {x z : Nat} (y : α) (h : z ≠ x) :
    SMap.get? (SMap.put b m x y) z = SMap.get? m z := by
  unfold SMap.put
  split
  · exact SMap.get?_del_ne m h
  · exact SMap.get?_ins_ne m y h

theorem SMap.wfFrom_mono (b : Nat → α) {lo lo' : Nat} (h : lo' ≤ lo) :
    ∀ m : SMap α, SMap.wfFrom b lo m = true → SMap.wfFrom b lo' m = true
  | [], _ => rfl
  | (a, v) :: m, hm => by
    simp only [SMap.wfFrom, Bool.and_eq_true, decide_eq_true_eq] at hm ⊢
    exact ⟨⟨Nat.le_trans h hm.1.1, hm.1.2⟩, hm.2⟩

theorem SMap.wfFrom_del (b : Nat → α) (x : Nat) :
    ∀ (lo : Nat) (m : SMap α), SMap.wfFrom b lo m = true → SMap.wfFrom b lo (SMap.del m x) = true
  | _, [], _ => rfl
  | lo, (a, v) :: m, hm => by
    simp only [SMap.wfFrom, Bool.and_eq_true, decide_eq_true_eq] at hm
    simp only [SMap.del]
    split
    · exact SMap.wfFrom_mono b (by omega) _ (SMap.wfFrom_del b x (a + 1) m hm.2)
    · simp only [SMap.wfFrom, Bool.and_eq_true, decide_eq_true_eq]
      exact ⟨hm.1, SMap.wfFrom_del b x (a + 1) m hm.2⟩

theorem SMap.wfFrom_ins (b : Nat → α) (x : Nat) (y : α) (hy : y ≠ b x) :
    ∀ (lo : Nat) (m : SMap α), lo ≤ x → SMap.wfFrom b lo m = true → SMap.wfFrom b lo (SMap.ins m x y) = true
  | lo, [], h, _ => by simp [SMap.ins, SMap.wfFrom, h, hy]
  | lo, (a, v) :: m, h, hm => by
    simp only [SMap.wfFrom, Bool.and_eq_true, decide_eq_true_eq] at hm
    simp only [SMap.ins]
    split
    · subst_vars; simp [SMap.wfFrom, hy, hm]
    · split
      · simp only [SMap.wfFrom, Bool.and_eq_true, decide_eq_true_eq]
        exact ⟨⟨h, hy⟩, ⟨by omega, hm.1.2⟩, hm.2⟩
      · simp only [SMap.wfFrom, Bool.and_eq_true, decide_eq_true_eq]
        exact ⟨hm.1, SMap.wfFrom_ins b x y hy (a + 1) m (by omega) hm.2⟩

/-- Setting a key keeps the canonical form. -/
theorem SMap.wf_put (b : Nat → α) (m : SMap α) (x : Nat) (y : α) (h : SMap.wf b m = true) :
    SMap.wf b (SMap.put (b x) m x y) = true := by
  unfold SMap.put
  split
  · exact SMap.wfFrom_del b x 0 m h
  · exact SMap.wfFrom_ins b x y ‹_› 0 m (Nat.zero_le _) h

end Maps

/-! ## Byte memory -/

/-- A byte reads as last written. -/
theorem Mem.get_put_self (m : Mem) (a : Nat) (b : Byte) : (m.put a b).get a = b := SMap.getD_put_self 0 m a b

/-- A byte written leaves every other. -/
theorem Mem.get_put_ne (m : Mem) {a x : Nat} (b : Byte) (h : x ≠ a) : (m.put a b).get x = m.get x :=
  congrArg (Option.getD · 0) (SMap.get?_put_ne 0 m b h)

/-- Writing a byte keeps the canonical form. -/
theorem Mem.wf_put (m : Mem) (a : Nat) (b : Byte) (h : Memory.wf m = true) : Memory.wf (m.put a b) = true :=
  SMap.wf_put Mem.blank m a b h

/-- Writing bytes keeps the canonical form. -/
theorem Mem.wf_write : ∀ (bs : List (Option Byte)) (m : Mem) (a : Nat), Memory.wf m = true → Memory.wf (m.write a bs) = true
  | [], _, _, h => h
  | none :: bs, m, a, h => Mem.wf_write bs m (a + 1) h
  | some b :: bs, m, a, h => Mem.wf_write bs (m.put a b) (a + 1) (Mem.wf_put m a b h)

/-- A write changes no byte outside the bytes it covers. -/
theorem Mem.get_write_ne : ∀ (bs : List (Option Byte)) (m : Mem) (a x : Nat), (x < a ∨ a + bs.length ≤ x) →
    (m.write a bs).get x = m.get x
  | [], _, _, _, _ => rfl
  | none :: bs, m, a, x, h => Mem.get_write_ne bs m (a + 1) x (by simp at h; omega)
  | some b :: bs, m, a, x, h => by
    have h' : x ≠ a := by simp at h; omega
    rw [Mem.write, Mem.get_write_ne bs (m.put a b) (a + 1) x (by simp at h; omega), Mem.get_put_ne m b h']

/-- What a covered byte reads as after a write. -/
theorem Mem.get_write : ∀ (bs : List (Option Byte)) (m : Mem) (a i : Nat) (h : i < bs.length),
    (m.write a bs).get (a + i) = (bs[i]).getD (m.get (a + i))
  | none :: bs, m, a, 0, _ => by simp [Mem.write, Mem.get_write_ne]
  | none :: bs, m, a, i + 1, h => by
    have := Mem.get_write bs m (a + 1) i (by simpa using h)
    simpa [Mem.write, Nat.add_assoc, Nat.add_comm 1 i] using this
  | some b :: bs, m, a, 0, _ => by simp [Mem.write, Mem.get_write_ne, Mem.get_put_self]
  | some b :: bs, m, a, i + 1, h => by
    have := Mem.get_write bs (m.put a b) (a + 1) i (by simpa using h)
    have e : a + 1 + i = a + (i + 1) := by omega
    rw [e, Mem.get_put_ne m b (by omega)] at this
    simpa [Mem.write] using this

/-- The length of what is read. -/
theorem Mem.length_read (m : Mem) : ∀ (n a : Nat), (m.read a n).length = n
  | 0, _ => rfl
  | n + 1, a => by simp [Mem.read, Mem.length_read m n (a + 1)]

end Sys2Proof.Machine
end

