-- ==== Sys2Proof/Laws/State.lean ====
section
/-!
SUPPORT. What each update of the state and of a channel leaves: one lemma per field per update.
-/

namespace Sys2Proof.Machine

/-! ## Channels of a state -/

@[simp] theorem State.setCh_ch_self (s : State) (c : Ch) (k : Channel) : (s.setCh c k).ch c = k := by cases c <;> rfl

@[simp] theorem State.setCh_ch_ne (s : State) {c d : Ch} (k : Channel) (h : d ≠ c) : (s.setCh c k).ch d = s.ch d := by
  cases c <;> cases d <;> first | rfl | exact absurd rfl h

@[simp] theorem State.setCh_dev (s : State) (c : Ch) (k : Channel) : (s.setCh c k).dev = s.dev := by cases c <;> rfl

@[simp] theorem State.setCh_freeCtr (s : State) (c : Ch) (k : Channel) : (s.setCh c k).freeCtr = s.freeCtr := by
  cases c <;> rfl

@[simp] theorem State.setCh_pending (s : State) (c : Ch) (k : Channel) : (s.setCh c k).pending = s.pending := by
  cases c <;> rfl

@[simp] theorem State.setCh_setCh (s : State) (c : Ch) (k k' : Channel) : (s.setCh c k).setCh c k' = s.setCh c k' := by
  cases c <;> rfl

@[simp] theorem State.setCh_ch (s : State) (c : Ch) : s.setCh c (s.ch c) = s := by cases c <;> rfl

@[simp] theorem State.setHost_ch (s : State) (h : HostPort) (c : Ch) : (s.setHost h).ch c = s.ch c := by cases c <;> rfl

@[simp] theorem State.setHost_host (s : State) (h : HostPort) : (s.setHost h).dev.host = h := rfl

@[simp] theorem State.setHost_self (s : State) : s.setHost s.dev.host = s := rfl

@[simp] theorem State.setHost_pending (s : State) (h : HostPort) : (s.setHost h).pending = s.pending := rfl

@[simp] theorem State.setHost_freeCtr (s : State) (h : HostPort) : (s.setHost h).freeCtr = s.freeCtr := rfl

@[simp] theorem State.setHost_otp (s : State) (h : HostPort) : (s.setHost h).dev.otp = s.dev.otp := rfl

@[simp] theorem State.setHost_dregs (s : State) (h : HostPort) : (s.setHost h).dev.dregs = s.dev.dregs := rfl

@[simp] theorem State.setHost_setHost (s : State) (h h' : HostPort) : (s.setHost h).setHost h' = s.setHost h' := rfl

@[simp] theorem State.setDreg_ch (s : State) (p o : Nat) (v : Word) (c : Ch) : (s.setDreg p o v).ch c = s.ch c := by
  cases c <;> rfl

@[simp] theorem State.setDreg_host (s : State) (p o : Nat) (v : Word) : (s.setDreg p o v).dev.host = s.dev.host := rfl

@[simp] theorem State.setDreg_otp (s : State) (p o : Nat) (v : Word) : (s.setDreg p o v).dev.otp = s.dev.otp := rfl

@[simp] theorem State.setDreg_pending (s : State) (p o : Nat) (v : Word) : (s.setDreg p o v).pending = s.pending := rfl

@[simp] theorem State.onDev_ch (s : State) (g : Device → Device) (c : Ch) : (s.onDev g).ch c = s.ch c := by
  cases c <;> rfl

@[simp] theorem State.onDev_dev (s : State) (g : Device → Device) : (s.onDev g).dev = g s.dev := rfl

@[simp] theorem State.onDev_pending (s : State) (g : Device → Device) : (s.onDev g).pending = s.pending := rfl

@[simp] theorem State.onDev_freeCtr (s : State) (g : Device → Device) : (s.onDev g).freeCtr = s.freeCtr := rfl

@[simp] theorem State.onCh_ch_self (s : State) (c : Ch) (g : Channel → Channel) : (s.onCh c g).ch c = g (s.ch c) :=
  State.setCh_ch_self s c _

@[simp] theorem State.onCh_dev (s : State) (c : Ch) (g : Channel → Channel) : (s.onCh c g).dev = s.dev :=
  State.setCh_dev s c _

@[simp] theorem State.onCh_pending (s : State) (c : Ch) (g : Channel → Channel) : (s.onCh c g).pending = s.pending :=
  State.setCh_pending s c _

/-! ## The view of a channel -/

@[simp] theorem State.node_c (s : State) (c : Ch) : (s.node c).c = c := rfl
@[simp] theorem State.node_k (s : State) (c : Ch) : (s.node c).k = s.ch c := rfl
@[simp] theorem State.node_host (s : State) (c : Ch) : (s.node c).host = s.dev.host := rfl
@[simp] theorem State.node_evs (s : State) (c : Ch) : (s.node c).evs = [] := rfl
@[simp] theorem State.node_ctr (s : State) (c : Ch) : (s.node c).ctr = s.freeCtr := rfl
@[simp] theorem State.node_lock (s : State) (c : Ch) :
    (s.node c).lock = (s.dev.otp.dbglock || s.dev.otp.err) := rfl
@[simp] theorem State.node_down (s : State) (c : Ch) : (s.node c).down = s.dev.banksDown := rfl

@[simp] theorem Node.onK_k (n : Node) (g : Channel → Channel) : (n.onK g).k = g n.k := rfl
@[simp] theorem Node.onK_c (n : Node) (g : Channel → Channel) : (n.onK g).c = n.c := rfl
@[simp] theorem Node.onK_host (n : Node) (g : Channel → Channel) : (n.onK g).host = n.host := rfl
@[simp] theorem Node.onK_evs (n : Node) (g : Channel → Channel) : (n.onK g).evs = n.evs := rfl
@[simp] theorem Node.onK_ctr (n : Node) (g : Channel → Channel) : (n.onK g).ctr = n.ctr := rfl
@[simp] theorem Node.onK_lock (n : Node) (g : Channel → Channel) : (n.onK g).lock = n.lock := rfl
@[simp] theorem Node.onK_down (n : Node) (g : Channel → Channel) : (n.onK g).down = n.down := rfl
@[simp] theorem Node.setReg_k (n : Node) (p o : Nat) (v : Word) : (n.setReg p o v).k = n.k.setReg p o v := rfl
@[simp] theorem Node.setReg_c (n : Node) (p o : Nat) (v : Word) : (n.setReg p o v).c = n.c := rfl
@[simp] theorem Node.setReg_host (n : Node) (p o : Nat) (v : Word) : (n.setReg p o v).host = n.host := rfl
@[simp] theorem Node.setReg_evs (n : Node) (p o : Nat) (v : Word) : (n.setReg p o v).evs = n.evs := rfl
@[simp] theorem Node.setReg_ctr (n : Node) (p o : Nat) (v : Word) : (n.setReg p o v).ctr = n.ctr := rfl
@[simp] theorem Node.setReg_lock (n : Node) (p o : Nat) (v : Word) : (n.setReg p o v).lock = n.lock := rfl
@[simp] theorem Node.setReg_down (n : Node) (p o : Nat) (v : Word) : (n.setReg p o v).down = n.down := rfl
@[simp] theorem Node.msi_k (n : Node) (f : HostFn) (v : Nat) : (n.msi f v).k = n.k := rfl
@[simp] theorem Node.msi_c (n : Node) (f : HostFn) (v : Nat) : (n.msi f v).c = n.c := rfl
@[simp] theorem Node.msi_evs (n : Node) (f : HostFn) (v : Nat) : (n.msi f v).evs = n.evs := rfl
@[simp] theorem Node.msi_ctr (n : Node) (f : HostFn) (v : Nat) : (n.msi f v).ctr = n.ctr := rfl
@[simp] theorem Node.msi_lock (n : Node) (f : HostFn) (v : Nat) : (n.msi f v).lock = n.lock := rfl
@[simp] theorem Node.msi_down (n : Node) (f : HostFn) (v : Nat) : (n.msi f v).down = n.down := rfl
@[simp] theorem Node.devEvent_c (n : Node) (e : Nat) : (n.devEvent e).c = n.c := rfl
@[simp] theorem Node.devEvent_ctr (n : Node) (e : Nat) : (n.devEvent e).ctr = n.ctr := rfl
@[simp] theorem Node.devEvent_lock (n : Node) (e : Nat) : (n.devEvent e).lock = n.lock := rfl
@[simp] theorem Node.devEvent_down (n : Node) (e : Nat) : (n.devEvent e).down = n.down := rfl
@[simp] theorem Node.devEvent_k (n : Node) (e : Nat) : (n.devEvent e).k = n.k := rfl
@[simp] theorem Node.devEvent_host (n : Node) (e : Nat) : (n.devEvent e).host = n.host := rfl
@[simp] theorem Node.devEvent_evs (n : Node) (e : Nat) : (n.devEvent e).evs = n.evs ++ [e] := rfl

/-! ## Registers of a channel -/

/-- A register reads as last set. -/
@[simp] theorem Channel.reg_setReg (k : Channel) (p o : Nat) (v : Word) : (k.setReg p o v).reg p o = v :=
  SMap.getD_put_self (chanBlank (regKey p o)) k.regs (regKey p o) v

/-- Setting a register leaves every other. -/
theorem Channel.reg_setReg_ne (k : Channel) {p o p' o' : Nat} (v : Word) (h : regKey p' o' ≠ regKey p o) :
    (k.setReg p o v).reg p' o' = k.reg p' o' :=
  congrArg (Option.getD · (chanBlank (regKey p' o'))) (SMap.get?_put_ne _ k.regs v h)

/-- Registers of different pages, or of different offsets in a page, have different keys. -/
theorem regKey_ne {p o p' o' : Nat} (ho : o < 0x1000) (ho' : o' < 0x1000) (h : p ≠ p' ∨ o ≠ o') :
    regKey p o ≠ regKey p' o' := by
  unfold regKey; omega

/-- Setting a register keeps the register file in canonical form. -/
theorem Channel.wf_setReg (k : Channel) (p o : Nat) (v : Word) (h : SMap.wf chanBlank k.regs = true) :
    SMap.wf chanBlank (k.setReg p o v).regs = true :=
  SMap.wf_put chanBlank k.regs (regKey p o) v h

@[simp] theorem Channel.setReg_pwr (k : Channel) (p o : Nat) (v : Word) : (k.setReg p o v).pwr = k.pwr := rfl
@[simp] theorem Channel.setReg_boot (k : Channel) (p o : Nat) (v : Word) : (k.setReg p o v).boot = k.boot := rfl
@[simp] theorem Channel.setReg_seq (k : Channel) (p o : Nat) (v : Word) : (k.setReg p o v).seq = k.seq := rfl
@[simp] theorem Channel.setReg_refclk (k : Channel) (p o : Nat) (v : Word) : (k.setReg p o v).refclk = k.refclk := rfl
@[simp] theorem Channel.setReg_suspended (k : Channel) (p o : Nat) (v : Word) : (k.setReg p o v).suspended = k.suspended := rfl
@[simp] theorem Channel.setReg_resume (k : Channel) (p o : Nat) (v : Word) : (k.setReg p o v).resume = k.resume := rfl
@[simp] theorem Channel.setReg_cause (k : Channel) (p o : Nat) (v : Word) : (k.setReg p o v).cause = k.cause := rfl
@[simp] theorem Channel.setReg_kept (k : Channel) (p o : Nat) (v : Word) : (k.setReg p o v).kept = k.kept := rfl
@[simp] theorem Channel.setReg_devkey (k : Channel) (p o : Nat) (v : Word) : (k.setReg p o v).devkey = k.devkey := rfl
@[simp] theorem Channel.setReg_code (k : Channel) (p o : Nat) (v : Word) : (k.setReg p o v).code = k.code := rfl
@[simp] theorem Channel.setReg_keepReq (k : Channel) (p o : Nat) (v : Word) : (k.setReg p o v).keepReq = k.keepReq := rfl
@[simp] theorem Channel.setReg_loadN (k : Channel) (p o : Nat) (v : Word) : (k.setReg p o v).loadN = k.loadN := rfl
@[simp] theorem Channel.setReg_shadow (k : Channel) (p o : Nat) (v : Word) : (k.setReg p o v).shadow = k.shadow := rfl
@[simp] theorem Channel.setReg_snap (k : Channel) (p o : Nat) (v : Word) : (k.setReg p o v).snap = k.snap := rfl
@[simp] theorem Channel.setReg_sram (k : Channel) (p o : Nat) (v : Word) : (k.setReg p o v).sram = k.sram := rfl
@[simp] theorem Channel.setReg_iram (k : Channel) (p o : Nat) (v : Word) : (k.setReg p o v).iram = k.iram := rfl
@[simp] theorem Channel.setReg_dtcm (k : Channel) (p o : Nat) (v : Word) : (k.setReg p o v).dtcm = k.dtcm := rfl
@[simp] theorem Channel.setReg_iramStale (k : Channel) (p o : Nat) (v : Word) : (k.setReg p o v).iramStale = k.iramStale := rfl
@[simp] theorem Channel.setReg_tagDiff (k : Channel) (p o : Nat) (v : Word) : (k.setReg p o v).tagDiff = k.tagDiff := rfl
@[simp] theorem Channel.setReg_ecc (k : Channel) (p o : Nat) (v : Word) : (k.setReg p o v).ecc = k.ecc := rfl
@[simp] theorem Channel.setReg_handovers (k : Channel) (p o : Nat) (v : Word) : (k.setReg p o v).handovers = k.handovers := rfl
@[simp] theorem Channel.setReg_carryOps (k : Channel) (p o : Nat) (v : Word) : (k.setReg p o v).carryOps = k.carryOps := rfl
@[simp] theorem Channel.setReg_inLast (k : Channel) (p o : Nat) (v : Word) : (k.setReg p o v).inLast = k.inLast := rfl
@[simp] theorem Channel.setReg_dbMask (k : Channel) (p o : Nat) (v : Word) : (k.setReg p o v).dbMask = k.dbMask := rfl
@[simp] theorem Channel.setReg_tb (k : Channel) (p o : Nat) (v : Word) : (k.setReg p o v).tb = k.tb := rfl
@[simp] theorem Channel.setReg_wh (k : Channel) (p o : Nat) (v : Word) : (k.setReg p o v).wh = k.wh := rfl
@[simp] theorem Channel.setReg_led (k : Channel) (p o : Nat) (v : Word) : (k.setReg p o v).led = k.led := rfl
@[simp] theorem Channel.setReg_rook (k : Channel) (p o : Nat) (v : Word) : (k.setReg p o v).rook = k.rook := rfl
@[simp] theorem Channel.setReg_pawn (k : Channel) (p o : Nat) (v : Word) : (k.setReg p o v).pawn = k.pawn := rfl
@[simp] theorem Channel.setReg_ethA (k : Channel) (p o : Nat) (v : Word) : (k.setReg p o v).ethA = k.ethA := rfl
@[simp] theorem Channel.setReg_ethB (k : Channel) (p o : Nat) (v : Word) : (k.setReg p o v).ethB = k.ethB := rfl
@[simp] theorem Channel.setReg_prp (k : Channel) (p o : Nat) (v : Word) : (k.setReg p o v).prp = k.prp := rfl
@[simp] theorem Channel.setReg_cls (k : Channel) (p o : Nat) (v : Word) : (k.setReg p o v).cls = k.cls := rfl
@[simp] theorem Channel.setReg_queues (k : Channel) (p o : Nat) (v : Word) : (k.setReg p o v).queues = k.queues := rfl
@[simp] theorem Channel.setReg_txRings (k : Channel) (p o : Nat) (v : Word) : (k.setReg p o v).txRings = k.txRings := rfl
@[simp] theorem Channel.setReg_gatesA (k : Channel) (p o : Nat) (v : Word) : (k.setReg p o v).gatesA = k.gatesA := rfl
@[simp] theorem Channel.setReg_gatesB (k : Channel) (p o : Nat) (v : Word) : (k.setReg p o v).gatesB = k.gatesB := rfl
@[simp] theorem Channel.setReg_buckets (k : Channel) (p o : Nat) (v : Word) : (k.setReg p o v).buckets = k.buckets := rfl
@[simp] theorem Channel.setReg_dma (k : Channel) (p o : Nat) (v : Word) : (k.setReg p o v).dma = k.dma := rfl
@[simp] theorem Channel.setReg_can0 (k : Channel) (p o : Nat) (v : Word) : (k.setReg p o v).can0 = k.can0 := rfl
@[simp] theorem Channel.setReg_can1 (k : Channel) (p o : Nat) (v : Word) : (k.setReg p o v).can1 = k.can1 := rfl
@[simp] theorem Channel.setReg_tpb0 (k : Channel) (p o : Nat) (v : Word) : (k.setReg p o v).tpb0 = k.tpb0 := rfl
@[simp] theorem Channel.setReg_tpb1 (k : Channel) (p o : Nat) (v : Word) : (k.setReg p o v).tpb1 = k.tpb1 := rfl
@[simp] theorem Channel.setReg_slb (k : Channel) (p o : Nat) (v : Word) : (k.setReg p o v).slb = k.slb := rfl

@[simp] theorem Channel.setShad_pwr (k : Channel) (p o : Nat) (v : Word) : (k.setShad p o v).pwr = k.pwr := rfl
@[simp] theorem Channel.setShad_boot (k : Channel) (p o : Nat) (v : Word) : (k.setShad p o v).boot = k.boot := rfl
@[simp] theorem Channel.setShad_seq (k : Channel) (p o : Nat) (v : Word) : (k.setShad p o v).seq = k.seq := rfl
@[simp] theorem Channel.setShad_refclk (k : Channel) (p o : Nat) (v : Word) : (k.setShad p o v).refclk = k.refclk := rfl
@[simp] theorem Channel.setShad_suspended (k : Channel) (p o : Nat) (v : Word) : (k.setShad p o v).suspended = k.suspended := rfl
@[simp] theorem Channel.setShad_resume (k : Channel) (p o : Nat) (v : Word) : (k.setShad p o v).resume = k.resume := rfl
@[simp] theorem Channel.setShad_cause (k : Channel) (p o : Nat) (v : Word) : (k.setShad p o v).cause = k.cause := rfl
@[simp] theorem Channel.setShad_kept (k : Channel) (p o : Nat) (v : Word) : (k.setShad p o v).kept = k.kept := rfl
@[simp] theorem Channel.setShad_devkey (k : Channel) (p o : Nat) (v : Word) : (k.setShad p o v).devkey = k.devkey := rfl
@[simp] theorem Channel.setShad_code (k : Channel) (p o : Nat) (v : Word) : (k.setShad p o v).code = k.code := rfl
@[simp] theorem Channel.setShad_keepReq (k : Channel) (p o : Nat) (v : Word) : (k.setShad p o v).keepReq = k.keepReq := rfl
@[simp] theorem Channel.setShad_loadN (k : Channel) (p o : Nat) (v : Word) : (k.setShad p o v).loadN = k.loadN := rfl
@[simp] theorem Channel.setShad_regs (k : Channel) (p o : Nat) (v : Word) : (k.setShad p o v).regs = k.regs := rfl
@[simp] theorem Channel.setShad_snap (k : Channel) (p o : Nat) (v : Word) : (k.setShad p o v).snap = k.snap := rfl
@[simp] theorem Channel.setShad_sram (k : Channel) (p o : Nat) (v : Word) : (k.setShad p o v).sram = k.sram := rfl
@[simp] theorem Channel.setShad_iram (k : Channel) (p o : Nat) (v : Word) : (k.setShad p o v).iram = k.iram := rfl
@[simp] theorem Channel.setShad_dtcm (k : Channel) (p o : Nat) (v : Word) : (k.setShad p o v).dtcm = k.dtcm := rfl
@[simp] theorem Channel.setShad_iramStale (k : Channel) (p o : Nat) (v : Word) : (k.setShad p o v).iramStale = k.iramStale := rfl
@[simp] theorem Channel.setShad_tagDiff (k : Channel) (p o : Nat) (v : Word) : (k.setShad p o v).tagDiff = k.tagDiff := rfl
@[simp] theorem Channel.setShad_ecc (k : Channel) (p o : Nat) (v : Word) : (k.setShad p o v).ecc = k.ecc := rfl
@[simp] theorem Channel.setShad_handovers (k : Channel) (p o : Nat) (v : Word) : (k.setShad p o v).handovers = k.handovers := rfl
@[simp] theorem Channel.setShad_carryOps (k : Channel) (p o : Nat) (v : Word) : (k.setShad p o v).carryOps = k.carryOps := rfl
@[simp] theorem Channel.setShad_inLast (k : Channel) (p o : Nat) (v : Word) : (k.setShad p o v).inLast = k.inLast := rfl
@[simp] theorem Channel.setShad_dbMask (k : Channel) (p o : Nat) (v : Word) : (k.setShad p o v).dbMask = k.dbMask := rfl
@[simp] theorem Channel.setShad_tb (k : Channel) (p o : Nat) (v : Word) : (k.setShad p o v).tb = k.tb := rfl
@[simp] theorem Channel.setShad_wh (k : Channel) (p o : Nat) (v : Word) : (k.setShad p o v).wh = k.wh := rfl
@[simp] theorem Channel.setShad_led (k : Channel) (p o : Nat) (v : Word) : (k.setShad p o v).led = k.led := rfl
@[simp] theorem Channel.setShad_rook (k : Channel) (p o : Nat) (v : Word) : (k.setShad p o v).rook = k.rook := rfl
@[simp] theorem Channel.setShad_pawn (k : Channel) (p o : Nat) (v : Word) : (k.setShad p o v).pawn = k.pawn := rfl
@[simp] theorem Channel.setShad_ethA (k : Channel) (p o : Nat) (v : Word) : (k.setShad p o v).ethA = k.ethA := rfl
@[simp] theorem Channel.setShad_ethB (k : Channel) (p o : Nat) (v : Word) : (k.setShad p o v).ethB = k.ethB := rfl
@[simp] theorem Channel.setShad_prp (k : Channel) (p o : Nat) (v : Word) : (k.setShad p o v).prp = k.prp := rfl
@[simp] theorem Channel.setShad_cls (k : Channel) (p o : Nat) (v : Word) : (k.setShad p o v).cls = k.cls := rfl
@[simp] theorem Channel.setShad_queues (k : Channel) (p o : Nat) (v : Word) : (k.setShad p o v).queues = k.queues := rfl
@[simp] theorem Channel.setShad_txRings (k : Channel) (p o : Nat) (v : Word) : (k.setShad p o v).txRings = k.txRings := rfl
@[simp] theorem Channel.setShad_gatesA (k : Channel) (p o : Nat) (v : Word) : (k.setShad p o v).gatesA = k.gatesA := rfl
@[simp] theorem Channel.setShad_gatesB (k : Channel) (p o : Nat) (v : Word) : (k.setShad p o v).gatesB = k.gatesB := rfl
@[simp] theorem Channel.setShad_buckets (k : Channel) (p o : Nat) (v : Word) : (k.setShad p o v).buckets = k.buckets := rfl
@[simp] theorem Channel.setShad_dma (k : Channel) (p o : Nat) (v : Word) : (k.setShad p o v).dma = k.dma := rfl
@[simp] theorem Channel.setShad_can0 (k : Channel) (p o : Nat) (v : Word) : (k.setShad p o v).can0 = k.can0 := rfl
@[simp] theorem Channel.setShad_can1 (k : Channel) (p o : Nat) (v : Word) : (k.setShad p o v).can1 = k.can1 := rfl
@[simp] theorem Channel.setShad_tpb0 (k : Channel) (p o : Nat) (v : Word) : (k.setShad p o v).tpb0 = k.tpb0 := rfl
@[simp] theorem Channel.setShad_tpb1 (k : Channel) (p o : Nat) (v : Word) : (k.setShad p o v).tpb1 = k.tpb1 := rfl
@[simp] theorem Channel.setShad_slb (k : Channel) (p o : Nat) (v : Word) : (k.setShad p o v).slb = k.slb := rfl

end Sys2Proof.Machine
end

