-- ==== Sys2Proof/Laws/Node.lean ====
section
/-!
SUPPORT. What the shared operations can do: raising an event, putting a channel's view back, an access by a sender.
-/

namespace Sys2Proof.Machine

/-! ## What device events leave of a channel -/

theorem Channel.Keeps.refl (k : Channel) : k.Keeps k := ⟨rfl, fun _ _ _ => rfl⟩

theorem Channel.Keeps.trans {k k' k'' : Channel} (h : k.Keeps k') (h' : k'.Keeps k'') : k.Keeps k'' :=
  ⟨by rw [← h.1, ← h'.1], fun key a b => (h'.2 key a b).trans (h.2 key a b)⟩

theorem Channel.Keeps.boot {k k' : Channel} (h : k.Keeps k') : k'.boot = k.boot := by rw [← h.1]

theorem Channel.Keeps.pwr {k k' : Channel} (h : k.Keeps k') : k'.pwr = k.pwr := by rw [← h.1]

/-- A register outside CHCTL and EVT reads the same. -/
theorem Channel.Keeps.reg {k k' : Channel} (h : k.Keeps k') {p o : Nat} (ho : o < 0x1000) (hp : p ≠ pgCHCTL)
    (hp' : p ≠ pgEVT) : k'.reg p o = k.reg p o := by
  have e : regKey p o / 0x1000 = p := by unfold regKey; omega
  unfold Channel.reg
  rw [h.2 (regKey p o) (by rw [e]; exact hp) (by rw [e]; exact hp')]

theorem Channel.keeps_setReg (k : Channel) {p o : Nat} (v : Word) (ho : o < 0x1000) (hp : p = pgCHCTL ∨ p = pgEVT) :
    k.Keeps (k.setReg p o v) :=
  ⟨rfl, fun key a b => SMap.get?_put_ne _ _ _ (by
    intro e
    have : key / 0x1000 = p := by rw [e]; unfold regKey; omega
    rcases hp with hp | hp
    · exact a (this.trans hp)
    · exact b (this.trans hp))⟩

/-! ## Events -/

/-- The channel with another register file. -/
def Channel.withRegs (k : Channel) (r : RegFile) : Channel := { k with regs := r }

theorem Channel.withRegs_setReg (k : Channel) (p o : Nat) (v : Word) (r : RegFile) :
    (k.setReg p o v).withRegs r = k.withRegs r := rfl

theorem Channel.withRegs_self (k : Channel) : k.withRegs k.regs = k := rfl

/-- A view after which only the register file and the host port of another may differ. -/
def Node.RegsOnly (n n' : Node) : Prop :=
  n'.c = n.c ∧ n'.evs = n.evs ∧ n'.ctr = n.ctr ∧ n'.lock = n.lock ∧ n'.k.withRegs n.k.regs = n.k

theorem Node.RegsOnly.refl (n : Node) : n.RegsOnly n := ⟨rfl, rfl, rfl, rfl, rfl⟩

theorem Node.RegsOnly.trans {a b c : Node} (h : a.RegsOnly b) (h' : b.RegsOnly c) : a.RegsOnly c := by
  obtain ⟨h1, h2, h3, h4, h5⟩ := h
  obtain ⟨g1, g2, g3, g4, g5⟩ := h'
  refine ⟨g1.trans h1, g2.trans h2, g3.trans h3, g4.trans h4, ?_⟩
  rw [← h5, ← g5]; rfl

theorem Node.regsOnly_setReg (n : Node) (p o : Nat) (v : Word) : n.RegsOnly (n.setReg p o v) := ⟨rfl, rfl, rfl, rfl, rfl⟩

theorem Node.regsOnly_msi (n : Node) (f : HostFn) (v : Nat) : n.RegsOnly (n.msi f v) := ⟨rfl, rfl, rfl, rfl, rfl⟩

theorem Node.regsOnly_ite {n a b : Node} {p : Prop} [Decidable p] (ha : n.RegsOnly a) (hb : n.RegsOnly b) :
    n.RegsOnly (if p then a else b) := by split <;> assumption

theorem Node.regsOnly_setBit (n : Node) (p o b : Nat) : n.RegsOnly (n.setBit p o b) := n.regsOnly_setReg _ _ _

theorem Node.regsOnly_rookPend (n : Node) (e : Nat) : n.RegsOnly (n.rookPend e) :=
  Node.regsOnly_ite (n.regsOnly_setBit _ _ _) (.refl n)

theorem Node.regsOnly_hostPend (n : Node) (e : Nat) : n.RegsOnly (n.hostPend e) :=
  Node.regsOnly_ite (.refl n) (Node.regsOnly_ite (.refl n) ((n.regsOnly_setBit _ _ _).trans (Node.regsOnly_msi _ _ _)))

theorem Node.regsOnly_notify (n : Node) (p b e : Nat) : n.RegsOnly (n.notify p b e) :=
  Node.regsOnly_ite ((n.regsOnly_rookPend e).trans (Node.regsOnly_hostPend _ e)) (.refl n)

/-- An event moves registers and may send a message. -/
theorem Node.regsOnly_raise (n : Node) (e : Nat) : n.RegsOnly (n.raise e) :=
  (n.regsOnly_setBit _ _ _).trans (Node.regsOnly_notify _ _ _ e)

@[simp] theorem Node.raise_c (n : Node) (e : Nat) : (n.raise e).c = n.c := (n.regsOnly_raise e).1
@[simp] theorem Node.raise_evs (n : Node) (e : Nat) : (n.raise e).evs = n.evs := (n.regsOnly_raise e).2.1
@[simp] theorem Node.raise_ctr (n : Node) (e : Nat) : (n.raise e).ctr = n.ctr := (n.regsOnly_raise e).2.2.1

/-! ## A channel's view put back -/

@[simp] theorem State.put_ch_self (s : State) (c : Ch) (n : Node) : (s.put c n).ch c = n.k := by cases c <;> rfl

@[simp] theorem State.put_ch_ne (s : State) {c d : Ch} (n : Node) (h : d ≠ c) : (s.put c n).ch d = s.ch d := by
  cases c <;> cases d <;> first | rfl | exact absurd rfl h

@[simp] theorem State.put_pending (s : State) (c : Ch) (n : Node) : (s.put c n).pending = s.pending := by cases c <;> rfl

@[simp] theorem State.put_otp (s : State) (c : Ch) (n : Node) : (s.put c n).dev.otp = s.dev.otp := by cases c <;> rfl

/-- A view that only the channel's own state differs in goes back as that channel. -/
theorem State.put_onK (s : State) (c : Ch) (k : Channel) : s.put c { s.node c with k := k } = s.setCh c k := by
  cases c <;> rfl

/-- An operation that changes the channel only, and raises no device event, changes that channel only. -/
theorem State.within_local (s : State) (c : Ch) (f : Node → Node) (k : Channel)
    (h : f (s.node c) = { s.node c with k := k }) : s.within c f = s.setCh c k := by
  unfold State.within; rw [h]; exact State.put_onK s c k

/-- An operation that raises no device event is put back as it stands. -/
theorem State.within_quiet (s : State) (c : Ch) (f : Node → Node) (h : (f (s.node c)).evs = []) :
    s.within c f = s.put c (f (s.node c)) := by
  unfold State.within; dsimp only; rw [h]; rfl

/-! ## Device events -/

/-- What a forwarded device event does to a channel (03 R84). -/
theorem Node.keeps_devFwd (n : Node) (e : Nat) : n.k.Keeps (n.devFwd e).k := by
  have hr : ∀ (m : Node) (v : Word) (o : Nat), o < 0x1000 → m.k.Keeps (m.setReg pgCHCTL o v).k := fun m v o ho =>
    Channel.keeps_setReg m.k v ho (.inl rfl)
  have he : ∀ (m : Node) (v : Word) (o : Nat), o < 0x1000 → m.k.Keeps (m.setReg pgEVT o v).k := fun m v o ho =>
    Channel.keeps_setReg m.k v ho (.inr rfl)
  have hite : ∀ (m a b : Node) (p : Prop) [Decidable p], m.k.Keeps a.k → m.k.Keeps b.k → m.k.Keeps (if p then a else b).k := by
    intro m a b p _ ha hb; split <;> assumption
  have h8 : evtHome evDEV_FWD = (pgCHCTL, 1) := rfl
  have hrook : ∀ m : Node, m.k.Keeps (m.rookPend evDEV_FWD).k := fun m =>
    hite m _ _ _ (he m _ _ (by decide)) (.refl _)
  have hhost : ∀ m : Node, m.k.Keeps (m.hostPend evDEV_FWD).k := fun m =>
    hite m _ _ _ (.refl _) (hite m _ _ _ (.refl _) (he m _ _ (by decide)))
  have hn : ∀ m : Node, m.k.Keeps (m.notify pgCHCTL 1 evDEV_FWD).k := fun m =>
    hite m _ _ _ ((hrook m).trans (hhost _)) (.refl _)
  have hraise : ∀ m : Node, m.k.Keeps (m.raise evDEV_FWD).k := fun m => by
    unfold Node.raise; rw [h8]; exact (hr m _ _ (by decide)).trans (hn _)
  unfold Node.devFwd
  refine hite n _ _ _ (.refl _) ?_
  have : ∀ o, o < 0x1000 → n.k.Keeps ((n.setReg pgCHCTL o ((n.reg pgCHCTL o).setBit (e % 32) true)).raise evDEV_FWD).k :=
    fun o ho => (hr n _ o ho).trans (hraise _)
  dsimp only
  split
  · exact this 0x048 (by decide)
  · exact this 0x04C (by decide)

theorem State.Keeps.refl (s : State) : s.Keeps s := ⟨fun _ => .refl _, rfl, rfl, rfl⟩

theorem State.Keeps.trans {s t u : State} (h : s.Keeps t) (h' : t.Keeps u) : s.Keeps u :=
  ⟨fun d => (h.1 d).trans (h'.1 d), h'.2.1.trans h.2.1, h'.2.2.1.trans h.2.2.1, h'.2.2.2.trans h.2.2.2⟩

theorem State.keeps_devForward (s : State) (e : Nat) (c : Ch) : s.Keeps (s.devForward e c) := by
  unfold State.devForward
  split
  · refine ⟨fun d => ?_, State.put_otp _ _ _, State.put_pending _ _ _, by cases c <;> rfl⟩
    by_cases h : d = c
    · subst h; rw [State.put_ch_self]; exact Node.keeps_devFwd (s.node d) e
    · rw [State.put_ch_ne s _ h]; exact .refl _
  · exact .refl s

theorem State.keeps_setDreg (s : State) (p o : Nat) (v : Word) : s.Keeps (s.setDreg p o v) :=
  ⟨fun d => by rw [State.setDreg_ch]; exact .refl _, rfl, rfl, rfl⟩

theorem State.keeps_onHost (s : State) (g : HostPort → HostPort) : s.Keeps (s.onHost g) :=
  ⟨fun d => by unfold State.onHost; rw [State.setHost_ch]; exact .refl _, rfl, rfl, rfl⟩

theorem State.keeps_ite {s a b : State} {p : Prop} [Decidable p] (ha : s.Keeps a) (hb : s.Keeps b) :
    s.Keeps (if p then a else b) := by split <;> assumption

theorem State.keeps_foldl {α : Type} (g : State → α → State) (hg : ∀ (s : State) (x : α), s.Keeps (g s x)) :
    ∀ (l : List α) (s : State), s.Keeps (l.foldl g s)
  | [], s => .refl s
  | x :: l, s => (hg s x).trans (State.keeps_foldl g hg l (g s x))

theorem State.keeps_devLatch (s : State) (e : Nat) : s.Keeps (s.devLatch e) :=
  (State.keeps_ite (State.keeps_setDreg _ _ _ _) (.refl _)).trans (State.keeps_setDreg _ _ _ _)

theorem State.keeps_devMsi (s : State) (e : Nat) : s.Keeps (s.devMsi e) :=
  State.keeps_ite (State.keeps_onHost _ _) (.refl _)

/-- A device event raised leaves every channel but for CHCTL and EVT, and leaves the fuses and the queue. -/
theorem State.keeps_raiseDev (s : State) (e : Nat) : s.Keeps (s.raiseDev e) :=
  (State.keeps_ite (State.keeps_devLatch s e) ((State.keeps_devLatch s e).trans (State.keeps_devMsi _ e))).trans
    (State.keeps_foldl _ (fun s c => State.keeps_devForward s e c) _ _)

/-- An operation on one channel leaves every other but for CHCTL and EVT, and leaves the fuses and the queue. -/
theorem State.within_keeps (s : State) (c : Ch) (f : Node → Node) :
    (∀ d, d ≠ c → (s.ch d).Keeps ((s.within c f).ch d)) ∧ (s.within c f).dev.otp = s.dev.otp ∧
      (s.within c f).pending = s.pending ∧ (s.within c f).dev.phase = s.dev.phase := by
  obtain ⟨h1, h2, h3, h4⟩ := State.keeps_foldl State.raiseDev State.keeps_raiseDev (f (s.node c)).evs
    (s.put c (f (s.node c)))
  refine ⟨fun d hd => ?_, h2.trans (State.put_otp _ _ _), h3.trans (State.put_pending _ _ _), h4.trans (by cases c <;> rfl)⟩
  have := h1 d
  rwa [State.put_ch_ne s _ hd] at this

/-! ## An access by a sender (05 R158, R162) -/

theorem State.chanWrite_reaches (s : State) {snd : Sender} {c : Ch} (a : Nat) (f : Node → Node) (h : s.reaches snd c)
    (hs : snd ≠ .pf4) : s.chanWrite snd c a f = s.within c f := by
  obtain ⟨hr, ha⟩ := h
  have hr' : (s.ch c).running = true := by simp [Channel.running, hr]
  unfold State.chanWrite
  cases hh : snd.isHost
  · simp [hr']
  · simp [hr', ha hh, hs]

end Sys2Proof.Machine
end

