-- ==== Sys2Proof/Laws/Access.lean ====
section
/-!
SUPPORT. What a refused access does: the fault record, its event, and which registers stay (03 R92, R94; 05 R158, R162).
-/

namespace Sys2Proof.Machine

/-! ## What an event on the EVT page leaves -/

/-- Registers outside EVT agree. -/
def Node.EvtOnly (n n' : Node) : Prop := ∀ p o, o < 0x1000 → p ≠ pgEVT → n'.k.reg p o = n.k.reg p o

theorem Node.EvtOnly.refl (n : Node) : n.EvtOnly n := fun _ _ _ _ => rfl

theorem Node.EvtOnly.trans {a b c : Node} (h : a.EvtOnly b) (h' : b.EvtOnly c) : a.EvtOnly c :=
  fun p o x y => (h' p o x y).trans (h p o x y)

theorem Node.evtOnly_ite {n a b : Node} {p : Prop} [Decidable p] (ha : n.EvtOnly a) (hb : n.EvtOnly b) :
    n.EvtOnly (if p then a else b) := by split <;> assumption

theorem Node.evtOnly_setReg (n : Node) {o : Nat} (v : Word) (ho : o < 0x1000) : n.EvtOnly (n.setReg pgEVT o v) :=
  fun _ _ h hp => Channel.reg_setReg_ne n.k v (regKey_ne h ho (.inl hp))

theorem pendOff_lt {b e : Nat} (h : b < 0x100) : pendOff b e < 0x1000 := by unfold pendOff; split <;> omega

theorem Node.evtOnly_notify (n : Node) (p b e : Nat) : n.EvtOnly (n.notify p b e) := by
  unfold Node.notify Node.rookPend Node.hostPend
  refine evtOnly_ite (.trans (b := if (n.route e).bit 0 then n.setBit pgEVT (pendOff 0x040 e) (e % 32) else n)
    (evtOnly_ite (evtOnly_setReg _ _ (pendOff_lt (by decide))) (.refl n)) ?_) (.refl n)
  exact evtOnly_ite (.refl _) (evtOnly_ite (.refl _)
    (.trans (evtOnly_setReg _ _ (pendOff_lt (by decide))) (fun _ _ _ _ => rfl)))

theorem Node.evtOnly_pageFault (n : Node) : n.EvtOnly (n.raise evPAGE_FAULT) :=
  .trans (evtOnly_setReg n _ (by decide)) (evtOnly_notify _ _ _ _)

/-- EVT_PAGE_FAULT leaves the fault records of every page, EVT's own among them. -/
theorem Node.pageFault_reg (n : Node) (page : Nat) {off : Nat} (ho : off < 0x014) :
    (n.raise evPAGE_FAULT).k.reg page off = n.k.reg page off := by
  by_cases hp : page = pgEVT
  · subst hp
    have h1 : ∀ (m : Node) (o : Nat) (v : Word), 0x14 ≤ o → o < 0x1000 → (m.setReg pgEVT o v).k.reg pgEVT off = m.k.reg pgEVT off :=
      fun m o v h1 h2 => Channel.reg_setReg_ne m.k v (regKey_ne (by omega) h2 (.inr (by omega)))
    have hb : ∀ (m : Node) (o b : Nat), 0x14 ≤ o → o < 0x1000 → (m.setBit pgEVT o b).k.reg pgEVT off = m.k.reg pgEVT off :=
      fun m o b => h1 m o _
    have hi : ∀ (m a b : Node) (p : Prop) [Decidable p], a.k.reg pgEVT off = m.k.reg pgEVT off →
        b.k.reg pgEVT off = m.k.reg pgEVT off → (if p then a else b).k.reg pgEVT off = m.k.reg pgEVT off := by
      intro m a b p _ ha hb; split <;> assumption
    have hr : ∀ m : Node, (m.rookPend evPAGE_FAULT).k.reg pgEVT off = m.k.reg pgEVT off := fun m =>
      hi m _ _ _ (hb m 0x40 _ (by decide) (by decide)) rfl
    have hh : ∀ m : Node, (m.hostPend evPAGE_FAULT).k.reg pgEVT off = m.k.reg pgEVT off := fun m =>
      hi m _ _ _ rfl (hi m _ _ _ rfl (hb m 0x48 _ (by decide) (by decide)))
    have hn : ∀ m : Node, (m.notify pgEVT 0 evPAGE_FAULT).k.reg pgEVT off = m.k.reg pgEVT off := fun m =>
      hi m _ _ _ ((hh _).trans (hr m)) rfl
    exact (hn _).trans (hb n 0x14 0 (by decide) (by decide))
  · exact Node.evtOnly_pageFault n page off (by omega) hp

/-! ## A fault (03 R92, R94) -/

/-- A fault moves registers and may send a message. -/
theorem Node.regsOnly_fault (n : Node) (page code snd : Nat) (addr : Word) : n.RegsOnly (n.fault page code snd addr) := by
  unfold Node.fault Node.faultInfo
  exact Node.regsOnly_ite (Node.regsOnly_ite (n.regsOnly_setReg _ _ _) (.refl n))
    (((n.regsOnly_setReg _ _ _).trans (Node.regsOnly_setReg _ _ _ _)).trans (Node.regsOnly_raise _ _))

@[simp] theorem Node.fault_evs (n : Node) (page code snd : Nat) (addr : Word) : (n.fault page code snd addr).evs = n.evs :=
  (n.regsOnly_fault page code snd addr).2.1

/-- Outside EVT a fault writes its page's fault record alone. -/
theorem Node.fault_reg (n : Node) (page code snd : Nat) (addr : Word) {p off : Nat} (ho : off < 0x1000) (hp : p ≠ pgEVT)
    (hne : p ≠ page ∨ (off ≠ 0x00C ∧ off ≠ 0x010)) : (n.fault page code snd addr).k.reg p off = n.k.reg p off := by
  have k1 : regKey p off ≠ regKey page 0x00C := regKey_ne ho (by decide) (hne.imp id And.left)
  have k2 : regKey p off ≠ regKey page 0x010 := regKey_ne ho (by decide) (hne.imp id And.right)
  unfold Node.fault Node.faultInfo Node.countSat
  dsimp only [Node.reg]
  split
  · split
    · exact Channel.reg_setReg_ne _ _ k1
    · rfl
  · rw [Node.evtOnly_pageFault _ _ _ ho hp]
    exact (Channel.reg_setReg_ne _ _ k2).trans (Channel.reg_setReg_ne _ _ k1)

/-- The first fault of a page is latched with its code, sender and address. -/
theorem Node.fault_first (n : Node) (page code snd : Nat) (addr : Word) (h : (n.k.reg page 0x00C).bit 31 = false) :
    (n.fault page code snd addr).k.reg page 0x00C = BitVec.ofNat 32 (code + 0x100 + snd * 0x10000 + 0x80000000) ∧
      (n.fault page code snd addr).k.reg page 0x010 = addr := by
  unfold Node.fault Node.faultInfo
  dsimp only [Node.reg]
  rw [if_neg (by simp [h]), Node.pageFault_reg _ _ (by decide), Node.pageFault_reg _ _ (by decide)]
  exact ⟨(Channel.reg_setReg_ne _ _ (regKey_ne (by decide) (by decide) (.inr (by decide)))).trans
    (Channel.reg_setReg _ _ _ _), Channel.reg_setReg _ _ _ _⟩

/-- A later fault only counts. -/
theorem Node.fault_again (n : Node) (page code snd : Nat) (addr : Word) (h : (n.k.reg page 0x00C).bit 31 = true) :
    n.fault page code snd addr = n.countSat page 0x00C 8 8 := by
  unfold Node.fault Node.faultInfo; dsimp only [Node.reg]; rw [if_pos h]

/-! ## What the host port keeps of the channels -/

@[simp] theorem State.elofLatch_ch (s : State) (f : HostFn) (st : Byte) (c : Ch) : (s.elofLatch f st).ch c = s.ch c := by
  cases c <;> (unfold State.elofLatch; split <;> rfl)

@[simp] theorem State.downLog_ch (s : State) (snd : Sender) (c : Ch) (a : Nat) (d : Ch) : (s.downLog snd c a).ch d = s.ch d := by
  unfold State.downLog
  dsimp only
  split
  · split
    · exact State.setDreg_ch _ _ _ _ _
    · rfl
  · rw [State.setDreg_ch, State.setDreg_ch]

@[simp] theorem State.answer_ch (s : State) (f : HostFn) (e : Option Byte) (bs : List Byte) (d : Ch) :
    (s.answer f e bs).ch d = s.ch d := by
  cases d <;> (unfold State.answer; split <;> rfl)

/-! ## A word written to a channel page -/

/-- Outside the MBOX page's own region a word written to a page is an access to one of its registers. -/
theorem Node.pageWrite_access (n : Node) (snd : Sender) {page off : Nat} (w : Word) (hp : page ∈ chanPages)
    (hm : page ≠ pgMBOX ∨ off < 0x40) : n.pageWrite snd page off w =
      n.access snd page off fun n => if off < 0x040 then n.headerWrite snd page off w else n.blockWrite snd page off w := by
  have hm' : ¬(page = pgMBOX ∧ 0x040 ≤ off) := by rintro ⟨h1, h2⟩; rcases hm with h | h <;> omega
  unfold Node.pageWrite
  cases snd <;> simp [hp, hm'] <;> rfl

/-- What a VF's and PF4's access to a register does. -/
theorem Node.access_vf (n : Node) (v : Fin 7) (page off : Nat) (f : Node → Node) :
    n.access (.vf v) page off f = n.fault page cSENDER (2 + v.val) (regAddr page off) := rfl

theorem Node.access_pf4 (n : Node) (page off : Nat) (f : Node → Node) :
    n.access .pf4 page off f = n.fault pgCHCTL cSENDER 9 (regAddr page off) := rfl

/-- An operation that raises no device event leaves its channel as it makes it. -/
theorem State.within_ch (s : State) (c : Ch) (f : Node → Node) (h : (f (s.node c)).evs = []) :
    (s.within c f).ch c = (f (s.node c)).k := by rw [State.within_quiet s c f h, State.put_ch_self]

end Sys2Proof.Machine
end

