-- ==== Sys2Proof/WellFormed.lean ====
section
/-!
DEFINITION. Which commands are well formed: an operand the specification bounds lies in its bounds. The operands the
types bound already (a ring, a slot, a pin) need no test here. `exec` gives every command an effect, well formed or not.
-/

namespace Sys2Proof

/-- A register offset inside its 4 KiB page, on a word (01 R24, 03 R69). -/
def offOk (off : Nat) : Bool := off < 0x1000 && off % 4 == 0

/-- A page number of a channel (03 R75), or of PF4's BAR0 of 128 MiB (05 R137, R139). -/
def PageRef.wf : PageRef → Bool
  | .chan _ p => p < 0x100
  | .dev p => p < 0x8000

/-- The target of a register access. -/
def RegTarget.wf : RegTarget → Bool
  | .chan _ p _ => p < 0x100
  | .vfView _ _ off => off < 0x4000
  | .dev p _ => p < 0x8000
  | .msix f vec w => (match f with | .pf _ => vec < 32 | .vf _ _ => vec < 16 | .pf4 => vec < 36) && w < 4
  | .cfg _ _ => true
  | .bar4 f off => off < (match f with | .pf _ | .pf4 => 0x2000 | .vf _ _ => 0x1000) && off % 4 == 0
  | .header _ off => off < 0x40 && off % 4 == 0
  | .pawn _ _ r => match r with
    | .ecode b x => b < 512 && x < 64
    | .egroup _ g t => g < 32 && t < 32
    | .eframe _ _ l d => l < 64 && d < 4
    | .epace _ _ _ => true

/-- A frame on a CAN bus has an identifier, a length and the fields of its format; a remote frame's length is its DLC
(14 R374). -/
def CanFrame.wf (f : CanFrame) : Bool :=
  f.fmt < 3 && f.id < (if f.ide then 2 ^ 29 else 2 ^ 11) &&
  (match f.fmt with
   | 0 => f.dlen ≤ (if f.rtr then 15 else 8)
   | 1 => f.dlen ≤ 8 || [12, 16, 20, 24, 32, 48, 64].contains f.dlen
   | _ => 1 ≤ f.dlen && f.dlen ≤ 2048) &&
  (f.fmt = 0 || !f.rtr) && (f.fmt = 1 || (!f.brs && !f.esi)) &&
  (if f.fmt = 2 then !f.ide else !f.sec && f.sdt == 0 && f.af == 0 && f.vcid == 0) &&
  f.data.length == (if f.rtr then 0 else f.dlen)

/-- A command's operands lie in the bounds of the rule that names them. -/
def Instr.wf : Instr → Bool
  | .registerWrite a => a.tgt.wf && (match a.op with | .read n => 1 ≤ n | .write | .poisoned => !a.data.isEmpty)
  | .unmappedPageAccess _ p acc => p.wf && acc.off < 0x1000
  | .pgFaultClear _ p => p.wf
  | .blkreset _ p _ => p.wf
  | .enableWrite _ p _ => p.wf
  | .blockResetEnd _ page => page < 0x100
  | .arm _ _ page _ => page < 0x100
  | .canRxFrame _ _ r _ => match r with
    | .frame f => f.wf
    | .error _ _ _ => true
  | .bootLoadwinWrite off _ => off < 2048 && off % 4 == 0
  | .elofRead _ _ cmd _ tsck _ _ => cmd.toNat / 64 == 0 && 10000 ≤ tsck
  | .elofWrite _ _ cmd _ data _ => cmd.toNat / 64 == 1 && data.length ≤ 4 * (cmd.toNat % 16 + 1)
  | .pcieLinkUp gen width => 1 ≤ gen && gen ≤ 4 && 1 ≤ width && width ≤ 2
  | .msixUnmask f vec => match f with | .pf _ => vec < 32 | .vf _ _ => vec < 16 | .pf4 => vec < 36
  | .memoryWindowAccess _ off _ => off < 0x800000
  | .objectHeaderRead _ _ _ j => j < 512
  | .objectLastWordRead _ _ _ j => j < 512
  | _ => true

end Sys2Proof
end

