-- ==== Sys2Proof/Tests/Slice0.lean ====
section
/-!
SUPPORT. The model's own tests: what is ill-formed is refused, a few single steps and checks against values from outside the
model, and for every statement with hypotheses a theorem that shows, clause by clause, states and operands that meet them
all together.
-/

open Sys2Proof Sys2Proof.Machine Sys2Proof.Claims

/-- A change of channel 0. -/
def Sys2Proof.Machine.State.k0 (s : State) (g : Channel → Channel) : State := s.onCh .ch0 g

-- One test at a time: all of them at once ask for more threads than the check's memory limit leaves room for.
set_option Elab.async false

namespace Sys2Proof.Tests

/-- A channel in RUN. -/
def kRun : Channel := { Channel.reset with pwr := .on, boot := .run }

/-- A PCIe port with its link up and every VF of every channel enabled. -/
def hPcie : HostPort := { HostPort.reset with linkUp := true, trained := true, numVfs := Vector.replicate 4 7,
                                              vfEnable := Vector.replicate 4 true }

/-- Every bank of pins with its supply. -/
def banks : Nat := 0x1FFFF

/-- Device registers set, each a page, an offset and a value. -/
def dregs (l : List (Nat × Nat × Word)) (s : State) : State := l.foldl (fun s x => s.setDreg x.1 x.2.1 x.2.2) s

/-- A device that is ready on PCIe, every bank good, with two channels in RUN. -/
def demo : State :=
  dregs [(dvMON, 0x060, 0x1FFFF)]
    { State.reset with ch0 := kRun, ch1 := kRun, dev := { Device.reset with phase := .ready, host := hPcie } }

/-- The same on Elof. -/
def demoEl : State := { demo with dev := { demo.dev with host := { HostPort.reset with elofSel := true } } }

/-- Registers set, each a page, an offset and a value. -/
def regs (l : List (Nat × Nat × Word)) (k : Channel) : Channel := l.foldl (fun k x => k.setReg x.1 x.2.1 x.2.2) k

/-- Pages of channel 0 enabled. -/
def en (l : List Nat) (s : State) : State := s.k0 (regs (l.map fun p => (p, 8, 2)))

/-- The state behind a command; the state itself where the command does not answer a next one. -/
def after (i : Instr) (s : State) : State :=
  match exec i s with
  | .next t => t
  | .fault _ | .refused _ => s

/-- A machine whose fuses are all blown, with a command waiting. -/
def fuses : State :=
  { demo with dev := { demo.dev with otp := ⟨true, true, false, 64, 0xF, 0xF, Vector.replicate 4 7⟩ }, pending := [.jtagAttach] }

/-! ## Well-formedness: each check refuses a term -/

/-- A frame with 3 bytes on an 11-bit identifier. -/
def okFrame : CanFrame := ⟨0, false, false, false, false, false, 3, 0, 0x123, 0, 0, [1, 2, 3]⟩

theorem wf_register_write : Instr.wf (.registerWrite ⟨.pf, .chan .ch0 0x100 0, [0], true, .write⟩) = false ∧
    Instr.wf (.registerWrite ⟨.pf, .chan .ch0 0x40 0x18, [], true, .write⟩) = false ∧
    Instr.wf (.registerWrite ⟨.pf, .chan .ch0 0x40 0x18, [], true, .read 0⟩) = false ∧
    Instr.wf (.registerWrite ⟨.pf, .bar4 (.vf .ch0 0) 0x1000, [0], true, .write⟩) = false ∧
    Instr.wf (.registerWrite ⟨.pf, .header (.pf .ch0) 0x40, [0], true, .write⟩) = false ∧
    Instr.wf (.registerWrite ⟨.pf, .vfView .ch0 0 0x4000, [0], true, .write⟩) = false ∧
    Instr.wf (.registerWrite ⟨.pf4, .dev 0x8000 0, [0], true, .write⟩) = false ∧
    Instr.wf (.registerWrite ⟨.pf, .msix (.pf .ch0) 32 0, [0], true, .write⟩) = false ∧
    Instr.wf (.registerWrite ⟨.pf, .msix (.vf .ch0 0) 3 4, [0], true, .write⟩) = false ∧
    Instr.wf (.registerWrite ⟨.pf, .pawn .ch0 0 (.egroup 0 32 0), [0], true, .write⟩) = false ∧
    Instr.wf (.registerWrite ⟨.pf, .pawn .ch0 0 (.eframe false false 64 0), [0], true, .write⟩) = false ∧
    Instr.wf (.registerWrite ⟨.pf, .chan .ch0 0x40 0x18, [0], true, .write⟩) = true := by decide

theorem wf_pages : Instr.wf (.unmappedPageAccess .pf (.chan .ch0 0x100) ⟨0, true⟩) = false ∧
    Instr.wf (.unmappedPageAccess .pf (.chan .ch0 0x10) ⟨0x1000, true⟩) = false ∧
    Instr.wf (.pgFaultClear .pf4 (.dev 0x8000)) = false ∧ Instr.wf (.blkreset .pf (.chan .ch0 0x100) 0) = false ∧
    Instr.wf (.enableWrite .pf (.chan .ch0 0x100) 0) = false ∧ Instr.wf (.blockResetEnd .ch0 0x100) = false ∧
    Instr.wf (.arm .pf .ch0 0x100 0) = false := by decide

theorem wf_can_frame : Instr.wf (.canRxFrame .ch0 .u0 (.frame okFrame) 0) = true ∧
    Instr.wf (.canRxFrame .ch0 .u0 (.frame { okFrame with fmt := 3 }) 0) = false ∧
    Instr.wf (.canRxFrame .ch0 .u0 (.frame { okFrame with id := 0x800 }) 0) = false ∧
    Instr.wf (.canRxFrame .ch0 .u0 (.frame { okFrame with dlen := 9 }) 0) = false ∧
    Instr.wf (.canRxFrame .ch0 .u0 (.frame { okFrame with data := [] }) 0) = false := by decide

theorem wf_host : Instr.wf (.bootLoadwinWrite 2048 0) = false ∧ Instr.wf (.bootLoadwinWrite 6 0) = false ∧
    Instr.wf (.elofRead 0 true 0x40 0 20000 0 0) = false ∧ Instr.wf (.elofRead 0 true 0 0 9999 0 0) = false ∧
    Instr.wf (.elofWrite 0 true 0 0 [] false) = false ∧ Instr.wf (.elofWrite 0 true 0x40 0 [1, 2, 3, 4, 5] false) = false ∧
    Instr.wf (.pcieLinkUp 5 1) = false ∧ Instr.wf (.pcieLinkUp 1 3) = false ∧ Instr.wf (.msixUnmask (.vf .ch0 0) 16) = false ∧
    Instr.wf (.memoryWindowAccess .ch0 0x800000 (.read 4)) = false ∧
    Instr.wf (.objectHeaderRead .pf .ch0 .u0 512) = false ∧ Instr.wf (.objectLastWordRead .pf .ch0 .u0 512) = false := by
  decide

/-- The table gives no row bits, so no word spells a command. -/
theorem test_no_word_spells_a_command : decodeTableWord 32 0x12345678 = none := by decide

/-! ## Checks against published values -/

/-- The nine characters 1 to 9. -/
def digits : List Byte := [0x31, 0x32, 0x33, 0x34, 0x35, 0x36, 0x37, 0x38, 0x39]

/-- The check values that the CRC catalogues publish for CRC-32, CRC-32C, CRC-16/XMODEM, CRC-16/ARC and CRC-8. -/
theorem test_die_check_values : crc32 digits = 0xCBF43926 ∧ crc32c digits = 0xE3069283 ∧ dieFold 2 0 digits = 0x31C3 ∧
    dieFold 3 0 digits = 0xBB3D ∧ dieFold 4 0 digits = 0xF4 := by decide +kernel

/-- The example of RFC 1071: the sum of these bytes is 0xDDF2. -/
theorem test_sum16_rfc1071 : dieResult 7 (dieFold 7 0 [0x00, 0x01, 0xF2, 0x03, 0xF4, 0xF5, 0xF6, 0xF7]) = 0x220D := by decide

/-! ## Single steps -/

/-- The outcome is a next state that the test accepts. -/
def nextIs (o : Host.Outcome State Fault Refusal) (p : State → Bool) : Bool :=
  match o with
  | .next t => p t
  | .fault _ | .refused _ => false

/-- The Rook claims a free Token: it reads 1, sender 0 plus one (06 R177). -/
theorem test_token_claim : nextIs (exec (.tokenClaim .rook .ch0 2) demo) (fun t => (t.ch .ch0).token 2 == 1) = true := by
  decide

/-- A block reset of CAN0 sets PG_STAT.BUSY (03 R73). -/
theorem test_block_reset_busy : nextIs (exec (.blkreset .rook (.chan .ch0 0x40) 4) demo)
    (fun t => (t.ch .ch0).busy 0x40) = true := by decide

/-- A VF's CHCTL_RSTREQ is refused: the record names sender 5, VF 3 of 0 to 6 (03 R94, 04 R107, 05 R135). -/
theorem test_vf_reset_request : nextIs (exec (.chctlRstreq (.vf 3) .ch0 1) demo)
    (fun t => (t.ch .ch0).boot == .run && ((t.ch .ch0).reg 0x00 0x00C).field 16 8 == 5) = true := by decide

/-- OTP is one-way: a key slot that is programmed is not programmed again, RESULT 1 (04 R103). -/
theorem test_programmed_slot : nextIs (exec (.otpKey .ch0) { fuses with dev := { fuses.dev with cmd := none } })
    (fun t => t.dev.cmd.isNone && (t.dreg 0 0x050).field 8 8 == 1) = true := by decide

/-- JTAG under the lock: EVT_DBG_DENY and nothing of the channel (04 R129). -/
theorem test_debug_lock : nextIs (exec (.jtagAccess (.read .ch0 0)) fuses) (fun t => t.ch .ch1 == fuses.ch .ch1) = true := by
  decide


/-! ## Events and pending bits -/

namespace Events

def d1 := demo.k0 (regs [(0x70, 0x00C, 0x80000105), (2, 0x040, 0xFFFFFFFF), (2, 0x044, 0xFFFF), (2, 0x048, 0xFFFFFFFF),
    (2, 0x04C, 0xFFFF), (2, 0x104, 0x2F), (4, 0x00C, 0x80000105), (4, 0x040, 0x33)])

def dR := demo.k0 (regs [(2, 0x110, 0x1E), (2, 0x190, 0x1E)])

def dOff := demo.k0 fun k => { k with boot := .loadwait }

def dBusy := demo.k0 (regs [(1, 4, 2)])

theorem witness_StepRunsFrontCommand :
    ∃ (i : Instr) (rest : List Instr) (s : State), s.pending = i :: rest :=
  ⟨.hostPortReady, [.jtagAttach], { State.reset with pending := [.hostPortReady, .jtagAttach] }, by decide +kernel⟩

theorem witness_IdleStepIsOneCycle :
    ∃ (s : State), s.pending = [] :=
  ⟨demo, by decide +kernel⟩

theorem witness_VfWriteIsRefused :
    (∃ (i : Instr) (snd : Sender) (c : Ch) (page off : Nat) (s : State), (writeForm i = some (snd, c, page, off) ∨
      readForm i = some (snd, c, page, off)) ∧ snd = Sender.rook ∧ (s.ch c).boot ≠ Boot.run) ∧
    (∃ (i : Instr) (snd : Sender) (c : Ch) (page off : Nat) (s : State), (writeForm i = some (snd, c, page, off) ∨
      readForm i = some (snd, c, page, off)) ∧ snd ≠ Sender.rook ∧ s.arrives (senderFn snd c) = false) ∧
    (∃ (i : Instr) (snd : Sender) (c : Ch) (page off : Nat) (s : State), (writeForm i = some (snd, c, page, off) ∨
      readForm i = some (snd, c, page, off)) ∧ snd ≠ Sender.rook ∧ s.arrives (senderFn snd c) = true ∧ (s.ch c).boot ≠
      Boot.run) ∧
    (∃ (i : Instr) (snd : Sender) (c : Ch) (page off : Nat) (s : State), (writeForm i = some (snd, c, page, off) ∨
      readForm i = some (snd, c, page, off)) ∧ snd ≠ Sender.rook ∧ s.arrives (senderFn snd c) = true ∧ (s.ch c).boot ≠
      Boot.run) ∧
    (∃ (i : Instr) (snd : Sender) (c : Ch) (page off : Nat) (s : State), (writeForm i = some (snd, c, page, off) ∨
      readForm i = some (snd, c, page, off)) ∧ s.reaches snd c ∧ Own snd ∧ 64 ≤ off ∧ (s.ch c).busy page = true) ∧
    (∃ (i : Instr) (snd : Sender) (c : Ch) (page off : Nat) (s : State), (writeForm i = some (snd, c, page, off) ∨
      readForm i = some (snd, c, page, off)) ∧ s.reaches snd c ∧ Own snd ∧ 64 ≤ off ∧ (s.ch c).busy page = true) ∧
    (∃ (i : Instr) (c : Ch) (v : Fin 7) (page off : Nat) (s : State), s.reaches (Sender.vf v) c ∧ writeForm i = some
      (Sender.vf v, c, page, off)) ∧
    (∃ (i : Instr) (c : Ch) (v : Fin 7) (page off : Nat) (s : State), s.reaches (Sender.vf v) c ∧ writeForm i = some
      (Sender.vf v, c, page, off)) ∧
    (∃ (i : Instr) (c : Ch) (v : Fin 7) (page off : Nat) (s : State), s.reaches (Sender.vf v) c ∧ readForm i = some
      (Sender.vf v, c, page, off)) ∧
    (∃ (i : Instr) (c : Ch) (page off : Nat) (s : State), s.reaches Sender.pf4 c ∧ writeForm i = some (Sender.pf4, c,
      page, off)) ∧
    (∃ (i : Instr) (c : Ch) (page off : Nat) (s : State), s.reaches Sender.pf4 c ∧ readForm i = some (Sender.pf4, c,
      page, off) ∧ (s.ch c).granted = false) :=
  ⟨⟨.whistleEn .rook .ch2 1, .rook, .ch2, pgWHISTLE, 0x40, demo, by decide +kernel⟩,
   ⟨.whistleEn .pf .ch0 1, .pf, .ch0, pgWHISTLE, 0x40, State.reset, by decide +kernel⟩,
   ⟨.whistleEn .pf .ch0 1, .pf, .ch0, pgWHISTLE, 0x40, dOff, by decide +kernel⟩,
   ⟨.timeNowLoRead .pf .ch0, .pf, .ch0, pgTIME, 0x48, dOff, by decide +kernel⟩,
   ⟨.whistleEn .pf .ch0 1, .pf, .ch0, pgWHISTLE, 0x40, dBusy, by decide +kernel⟩,
   ⟨.whistleCountLoRead .rook .ch0, .rook, .ch0, pgWHISTLE, 0x50, dBusy, by decide +kernel⟩,
   ⟨.whistleEn (.vf 3) .ch0 1, .ch0, 3, pgWHISTLE, 0x40, demo, by decide +kernel⟩,
   ⟨.pgFaultClear (.vf 3) (.chan .ch0 2), .ch0, 3, 2, 0x0C, demo, by decide +kernel⟩,
   ⟨.whistleCountLoRead (.vf 3) .ch0, .ch0, 3, pgWHISTLE, 0x50, demo, by decide +kernel⟩,
   ⟨.whistleEn .pf4 .ch0 1, .ch0, pgWHISTLE, 0x40, demo, by decide +kernel⟩,
   ⟨.whistleCountLoRead .pf4 .ch0, .ch0, pgWHISTLE, 0x50, demo, by decide +kernel⟩⟩

theorem witness_EventOccurrence :
    (∃ (e : Nat), e < 48) ∧
    (∃ (n : Node) (e : Nat), e < 48 ∧ (n.reg (evtHome e).fst 24).bit (evtHome e).snd = false) ∧
    (∃ (n : Node) (e : Nat), e < 48 ∧ (n.reg (evtHome e).fst 24).bit (evtHome e).snd = true ∧ (n.reg pgEVT (256 + 4 *
      e)).bit 0 = true) ∧
    (∃ (n : Node) (e : Nat), e < 48 ∧ (n.reg (evtHome e).fst 24).bit (evtHome e).snd = true ∧ (n.reg pgEVT (256 + 4 *
      e)).bit 1 = true) ∧
    (∃ (n : Node) (e : Nat), e < 48 ∧ (n.reg (evtHome e).fst 24).bit (evtHome e).snd = true ∧ (n.reg pgEVT (256 + 4 *
      e)).bit 1 = true ∧ (n.reg pgEVT (pendOff 72 e)).bit (e % 32) = true) ∧
    (∃ (n : Node) (e : Nat), e < 48 ∧ (n.reg (evtHome e).fst 24).bit (evtHome e).snd = true ∧ (n.reg pgEVT (256 + 4 *
      e)).bit 1 = true ∧ (n.reg pgEVT (pendOff 72 e)).bit (e % 32) = false) :=
  ⟨⟨3, by decide +kernel⟩,
   ⟨(demo.k0 (regs [(1, 0x018, 0)])).node .ch0, 3, by decide +kernel⟩,
   ⟨(demo.k0 (regs [(1, 0x018, 8), (2, 0x10C, 0x2F)])).node .ch0, 3, by decide +kernel⟩,
   ⟨(demo.k0 (regs [(1, 0x018, 8), (2, 0x10C, 0x2F)])).node .ch0, 3, by decide +kernel⟩,
   ⟨(demo.k0 (regs [(1, 0x018, 8), (2, 0x10C, 0x2F), (2, 0x48, 8)])).node .ch0, 3, by decide +kernel⟩,
   ⟨(demo.k0 (regs [(1, 0x018, 8), (2, 0x10C, 0x2F)])).node .ch0, 3, by decide +kernel⟩⟩

theorem witness_PendingBitsClear :
    (∃ (s : State) (snd : Sender) (c : Ch) (page : Nat), s.reaches snd c ∧ Own snd ∧ page ∈ chanPages) ∧
    (∃ (s : State) (snd : Sender) (c : Ch) (page : Nat), s.reaches snd c ∧ Own snd ∧ page ∈ chanPages) ∧
    (∃ (s : State) (page : Nat), FromPf4 s ∧ page < 9) ∧
    (∃ (s : State) (snd : Sender) (c : Ch), s.reaches snd c ∧ Own snd ∧ Free s c pgEVT) ∧
    (∃ (s : State) (snd : Sender) (c : Ch), s.reaches snd c ∧ Own snd ∧ Free s c pgEVT) ∧
    (∃ (s : State) (c : Ch), s.reaches Sender.rook c ∧ Free s c pgEVT) ∧
    (∃ (s : State) (c : Ch), s.reaches Sender.rook c ∧ Free s c pgEVT) ∧
    (∃ (s : State) (c : Ch) (hi : Bool) (v : Word), s.reaches Sender.pf c ∧ Free s c pgEVT ∧ ((if hi = true then v &&&
      65535 else v) &&& ~~~(s.ch c).routedTo 1 hi = 0)) ∧
    (∃ (s : State) (c : Ch) (hi : Bool) (v : Word), s.reaches Sender.pf c ∧ Free s c pgEVT ∧ ((if hi = true then v &&&
      65535 else v) &&& ~~~(s.ch c).routedTo 1 hi ≠ 0)) ∧
    (∃ (s : State) (c : Ch) (hi : Bool) (v : Word), s.reaches Sender.pf c ∧ Free s c pgEVT ∧ ((if hi = true then v &&&
      65535 else v) &&& ~~~(s.ch c).routedTo 1 hi ≠ 0)) ∧
    (∃ (s : State) (c : Ch) (vf : Fin 7) (hi : Bool) (v : Word), s.reaches (Sender.vf vf) c ∧ ((if hi = true then v &&&
      65535 else v) &&& ~~~(s.ch c).routedTo (2 + vf.val) hi = 0)) ∧
    (∃ (s : State) (c : Ch) (vf : Fin 7) (hi : Bool) (v : Word), s.reaches (Sender.vf vf) c ∧ ((if hi = true then v &&&
      65535 else v) &&& ~~~(s.ch c).routedTo (2 + vf.val) hi ≠ 0)) ∧
    (∃ (s : State), FromPf4 s) ∧
    (∃ (s : State), FromPf4 s) ∧
    (∃ (s : State) (snd : Sender), snd ≠ Sender.pf4 ∨ s.arrives HostFn.pf4 = false) ∧
    (∃ (s : State) (snd : Sender), (snd ≠ Sender.pf4 ∨ s.arrives HostFn.pf4 = false) ∧ s.arrives HostFn.pf4 = false) ∧
    (∃ (s : State) (snd : Sender) (c : Ch), s.reaches snd c ∧ Own snd ∧ Free s c pgCHCTL) :=
  ⟨⟨d1, .rook, .ch0, 4, by decide +kernel⟩,
   ⟨d1, .pf, .ch0, 0x70, by decide +kernel⟩,
   ⟨d1, 5, by decide +kernel⟩,
   ⟨d1, .rook, .ch0, by decide +kernel⟩,
   ⟨d1, .rook, .ch0, by decide +kernel⟩,
   ⟨d1, .ch0, by decide +kernel⟩,
   ⟨d1, .ch0, by decide +kernel⟩,
   ⟨d1, .ch0, true, 0xF0000, by decide +kernel⟩,
   ⟨dR, .ch0, false, 0xF000F0, by decide +kernel⟩,
   ⟨dR, .ch0, true, 0xF000F0, by decide +kernel⟩,
   ⟨d1, .ch0, 3, true, 0xF0000, by decide +kernel⟩,
   ⟨d1, .ch0, 3, false, 0xFFF002, by decide +kernel⟩,
   ⟨d1, by decide +kernel⟩,
   ⟨d1, by decide +kernel⟩,
   ⟨d1, .pf, by decide +kernel⟩,
   ⟨State.reset, .pf, by decide +kernel⟩,
   ⟨d1, .rook, .ch0, by decide +kernel⟩⟩

theorem witness_FusesOnlyGrow :
    (∃ (s t : State), step s = Host.Outcome.next t) ∧
    (∃ (s t : State), step s = Host.Outcome.next t ∧ s.dev.otp.secure = true) ∧
    (∃ (s t : State), step s = Host.Outcome.next t ∧ s.dev.otp.dbglock = true) ∧
    (∃ (s t : State) (j : Fin 4), step s = Host.Outcome.next t ∧ s.dev.otp.revoke.getLsbD j.val = true) ∧
    (∃ (s t : State) (j : Fin 4), step s = Host.Outcome.next t ∧ s.dev.otp.prog.getLsbD j.val = true) ∧
    (∃ (s t : State) (j : Fin 4), step s = Host.Outcome.next t ∧ FuseInv s ∧ s.dev.otp.prog.getLsbD j.val = true) :=
  ⟨⟨fuses, _, rfl⟩,
   ⟨fuses, _, rfl, by decide⟩,
   ⟨fuses, _, rfl, by decide⟩,
   ⟨fuses, _, 3, rfl, by decide⟩,
   ⟨fuses, _, 3, rfl, by decide⟩,
   ⟨fuses, _, 3, rfl, ⟨by decide, fun _ h => nomatch h⟩, by decide⟩⟩

theorem witness_FuseInvariantKept :
    ∃ (s t : State), FuseInv s ∧ step s = Host.Outcome.next t :=
  ⟨fuses, _, ⟨by decide, fun _ h => nomatch h⟩, rfl⟩

end Events

/-! ## Register pages and the device -/

namespace Device

def d1 := demo.k0 (regs [(0x70, 0x00C, 0x80000105), (2, 0x040, 0xFFFFFFFF), (2, 0x014, 0xFFFF), (2, 0x048, 0xFFFFFFFF),
    (2, 0x104, 0x2F), (4, 0x00C, 0x80000105), (0x22, 0x040, 0x33), (0x31, 0x44, 5)])

def bz (p : Nat) := d1.k0 (regs [(p, 4, 2)])

def hp2 : HostPort := ((hPcie.setFn (.pf .ch0) { FnCfg.reset with bme := true, msixEn := true }).setMsix (.pf .ch0) 3 3 0)

def gr := d1.k0 (regs [(0, 0x44, 1)])

def d2 := d1.setDreg 5 (0x100+4*7) 0xFFFF |>.setDreg 5 (0x100+4*37) 0xFFFF

def busy := { d2 with dev := { d2.dev with cmd := some ⟨7, .ch0, 9⟩ } }

def at' (p : Pwr) (b : Boot) (q : Seq) : State := d2.k0 fun k => { k with pwr := p, boot := b, seq := q }

def lost (sus : Option Seq) (res : Boot) : State :=
  d2.k0 fun k => { k with boot := .clklost, refclk := false, suspended := sus, resume := res }

def dL := (d2.setDreg 0 0x4C 0x80000400).k0 fun k => { k with boot := .loadwait, kept := true }

def dL2 := (d2.setDreg 0 0x4C 0x400).k0 fun k => { k with boot := .loading, loadN := 0x400 }

def burn (op : Nat) (a mv : Word) : State :=
  { d2 with dev := { d2.dev with cmd := some ⟨op, .ch0, a⟩ } }.setDreg dvMON 0x05C mv

def lock : State := { d2 with dev := { d2.dev with otp := { d2.dev.otp with dbglock := true } } }

theorem witness_BlockResetAndEnable :
    (∃ (s : State) (snd : Sender) (c : Ch) (page : Nat), s.reaches snd c ∧ Own snd ∧ page ∈ chanPages ∧ (¬page ∈
      noBlkReset) ∧ Free s c page ∧ (page = pgCLS → (s.ch c).poolEn = false ∧ ((s.ch c).reg pgCLS 112).bit 0 = false)) ∧
    (∃ (s : State) (snd : Sender) (c : Ch) (page : Nat), s.reaches snd c ∧ Own snd ∧ page ∈ chanPages ∧ (¬page ∈
      noBlkReset) ∧ Free s c page ∧ (page = pgCLS → (s.ch c).poolEn = false ∧ ((s.ch c).reg pgCLS 112).bit 0 = false)) ∧
    (∃ (s : State) (snd : Sender) (c : Ch) (page : Nat), s.reaches snd c ∧ Own snd ∧ page ∈ chanPages ∧ (¬page ∈
      noBlkReset) ∧ Free s c page ∧ (page = pgCLS → (s.ch c).poolEn = false ∧ ((s.ch c).reg pgCLS 112).bit 0 = false)) ∧
    (∃ (s : State) (snd : Sender) (c : Ch), s.reaches snd c ∧ Own snd ∧ Free s c pgPRP) ∧
    (∃ (s : State) (snd : Sender) (c : Ch), s.reaches snd c ∧ Own snd ∧ Free s c pgPOLICE) ∧
    (∃ (s : State) (snd : Sender) (c : Ch), s.reaches snd c ∧ Own snd ∧ Free s c pgDIE) ∧
    (∃ (s : State) (snd : Sender) (c : Ch) (page : Nat), s.reaches snd c ∧ Own snd ∧ page ∈ noBlkReset) ∧
    (∃ (s : State) (snd : Sender) (c : Ch) (page : Nat), s.reaches snd c ∧ Own snd ∧ page ∈ noBlkReset) ∧
    (∃ (s : State) (snd : Sender) (c : Ch) (page : Nat), s.reaches snd c ∧ Own snd ∧ page ∈ noBlkReset) ∧
    (∃ (s : State) (snd : Sender) (c : Ch), s.reaches snd c ∧ Own snd ∧ Free s c pgCLS ∧ ((s.ch c).poolEn = true ∨
      ((s.ch c).reg pgCLS 112).bit 0 = true)) ∧
    (∃ (s : State) (snd : Sender) (c : Ch), s.reaches snd c ∧ Own snd ∧ Free s c pgCLS ∧ ((s.ch c).poolEn = true ∨
      ((s.ch c).reg pgCLS 112).bit 0 = true)) ∧
    (∃ (s : State) (snd : Sender) (c : Ch) (page : Nat), s.reaches snd c ∧ Own snd ∧ page ∈ chanPages ∧ (s.ch c).busy
      page = true) ∧
    (∃ (s : State) (page : Nat), FromPf4 s ∧ page < 9) ∧
    (∃ (s : State) (page : Nat), FromPf4 s ∧ page < 9) ∧
    (∃ (s : State) (c : Ch) (page : Nat), (s.ch c).boot = Boot.run ∧ (s.ch c).busy page = true ∧ page < 256) ∧
    (∃ (s : State) (c : Ch) (page : Nat), (s.ch c).boot = Boot.run ∧ (s.ch c).busy page = true ∧ page < 256) ∧
    (∃ (s : State) (c : Ch) (page : Nat), (s.ch c).boot ≠ Boot.run ∨ (s.ch c).busy page = false) ∧
    (∃ (s : State) (c : Ch) (page : Nat), (s.ch c).boot ≠ Boot.run ∨ (s.ch c).busy page = false) ∧
    (∃ (s : State) (snd : Sender) (c : Ch) (page : Nat), s.reaches snd c ∧ Own snd ∧ page ∈ chanPages) ∧
    (∃ (s : State) (snd : Sender) (c : Ch) (page : Nat), s.reaches snd c ∧ Own snd ∧ page ∈ chanPages) ∧
    (∃ (s : State) (snd : Sender) (c : Ch) (page : Nat) (v : Word), s.reaches snd c ∧ Own snd ∧ page ∈ chanPages ∧
      (¬page ∈ [16, 32, 33, 48, 64, 65, 72, 73, 80, 96] ∨ (s.ch c).enabled page = v.bit 1 ∨ v.bit 1 = true ∧ (s.ch
      c).busy page = true)) :=
  ⟨⟨d1, .rook, .ch0, 0x28, by decide +kernel⟩,
   ⟨d1, .rook, .ch0, 0x60, by decide +kernel⟩,
   ⟨d1, .pf, .ch0, 0x05, by decide +kernel⟩,
   ⟨d1, .rook, .ch0, by decide +kernel⟩,
   ⟨d1, .rook, .ch0, by decide +kernel⟩,
   ⟨d1, .rook, .ch0, by decide +kernel⟩,
   ⟨d1, .rook, .ch0, 0, by decide +kernel⟩,
   ⟨d1, .rook, .ch0, 0x70, by decide +kernel⟩,
   ⟨d1, .pf, .ch0, 0x2, by decide +kernel⟩,
   ⟨d1.k0 (regs [(0x28, 0x70, 1)]), .pf, .ch0, by decide +kernel⟩,
   ⟨d1.k0 (regs [(0x28, 0x80, 1)]), .rook, .ch0, by decide +kernel⟩,
   ⟨bz 0x31, .pf, .ch0, 0x31, by decide +kernel⟩,
   ⟨d1, 5, by decide +kernel⟩,
   ⟨d1, 5, by decide +kernel⟩,
   ⟨bz 0x40, .ch0, 0x40, by decide +kernel⟩,
   ⟨(bz 0x40).k0 (regs [(0x40, 8, 2)]), .ch0, 0x40, by decide +kernel⟩,
   ⟨d1, .ch0, 0x40, by decide +kernel⟩,
   ⟨d1, .ch2, 0x40, by decide +kernel⟩,
   ⟨d1.k0 (regs [(0x40, 8, 2)]), .rook, .ch0, 0x40, by decide +kernel⟩,
   ⟨d1, .rook, .ch0, 0x48, by decide +kernel⟩,
   ⟨d1, .rook, .ch0, 0x31, 3, by decide +kernel⟩⟩

theorem witness_RegisterWriteWords :
    (∃ (s : State) (snd : Sender) (c : Ch) (page : Nat), s.reaches snd c ∧ Own snd ∧ page ∈ chanPages) ∧
    (∃ (s : State) (snd : Sender) (c : Ch) (page : Nat), s.reaches snd c ∧ Own snd ∧ page ∈ chanPages) ∧
    (∃ (s : State) (snd : Sender) (c : Ch) (page : Nat), s.reaches snd c ∧ Own snd ∧ page ∈ chanPages) ∧
    (∃ (s : State) (page : Nat), FromPf4 s ∧ page < 9) ∧
    (∃ (s : State) (c : Ch), s.arrives (HostFn.pf c) = true ∧ s.dev.host.elofSel = false) ∧
    (∃ (s : State) (f : HostFn), s.configures f = true) ∧
    (∃ (s : State) (snd : Sender) (c : Ch) (page off : Nat), s.reaches snd c ∧ snd ≠ Sender.pf4 ∧ (¬page ∈ chanPages) ∧
      off < 4096) ∧
    (∃ (s : State) (snd : Sender) (c : Ch) (page off : Nat), s.reaches snd c ∧ snd ≠ Sender.pf4 ∧ (¬page ∈ chanPages) ∧
      off < 4096) ∧
    (∃ (s : State) (snd : Sender) (c : Ch), snd ≠ Sender.rook ∧ s.dev.host.elofSel = false ∧ s.arrives (senderFn snd c)
      = true) ∧
    (∃ (s : State) (c : Ch) (page : Nat), s.reaches Sender.pf c ∧ page ∈ chanPages) :=
  ⟨⟨d1, .rook, .ch0, 0x28, by decide +kernel⟩,
   ⟨d1, .pf, .ch0, 0x4, by decide +kernel⟩,
   ⟨d1, .pf, .ch0, 0x4, by decide +kernel⟩,
   ⟨d1, 0x4, by decide +kernel⟩,
   ⟨d1, .ch0, by decide +kernel⟩,
   ⟨d1, .vf .ch0 3, by decide +kernel⟩,
   ⟨d1, .vf 3, .ch0, 0x99, 4, by decide +kernel⟩,
   ⟨d1, .rook, .ch0, 0x99, 4, by decide +kernel⟩,
   ⟨d1, .vf 3, .ch0, by decide +kernel⟩,
   ⟨d1, .ch0, 0x31, by decide +kernel⟩⟩

theorem witness_MsixUnmaskSends :
    (∃ (s : State) (f : HostFn) (vec : Nat), s.arrives f = true ∧ s.dev.host.elofSel = false ∧ vec < fnVectors f) ∧
    (∃ (vec : Nat), vec < 36) ∧
    (∃ (h : HostPort) (f : HostFn) (vec : Nat), h.elofSel = false ∧ vec < 36 ∧ h.vecOpen f vec = true ∧ fnNum f * 256 +
      vec ∈ h.msixPend) ∧
    (∃ (h : HostPort) (f : HostFn) (vec : Nat), h.elofSel = false ∧ vec < 36 ∧ h.vecOpen f vec = true ∧ fnNum f * 256 +
      vec ∈ h.msixPend) :=
  ⟨⟨d1, .vf .ch0 3, 5, by decide +kernel⟩,
   ⟨5, by decide +kernel⟩,
   ⟨{ hp2 with msixPend := [3, 7] }, .pf .ch0, 3, by decide +kernel⟩,
   ⟨{ hp2 with msixPend := [3, 7] }, .pf .ch0, 3, by decide +kernel⟩⟩

theorem witness_GrantAndUnmappedAccesses :
    (∃ (s : State) (c : Ch) (sp : ChanSpace) (n : Nat), FromPf4 s ∧ (s.ch c).boot = Boot.run ∧ (s.ch c).granted = false
      ∧ 1 ≤ n ∧ (∀ (page off : Nat), sp = ChanSpace.regs page off → off < 4096)) ∧
    (∃ (s : State) (c : Ch) (sp : ChanSpace) (n : Nat), FromPf4 s ∧ (s.ch c).boot = Boot.run ∧ (s.ch c).granted = false
      ∧ 1 ≤ n ∧ (∀ (page off : Nat), sp = ChanSpace.regs page off → off < 4096)) ∧
    (∃ (s : State) (c : Ch) (page off : Nat), FromPf4 s ∧ (s.ch c).boot = Boot.run ∧ (s.ch c).granted = true ∧ page ∈
      chanPages ∧ off < 64 ∧ off % 4 = 0) ∧
    (∃ (s : State) (c : Ch) (page off : Nat), FromPf4 s ∧ (s.ch c).boot = Boot.run ∧ (s.ch c).granted = true ∧ page ∈
      chanPages ∧ page ≠ pgMBOX ∧ 64 ≤ off ∧ off < 4096 ∧ off % 4 = 0 ∧ Free s c page) ∧
    (∃ (s : State) (c : Ch) (page off : Nat), FromPf4 s ∧ (s.ch c).boot = Boot.run ∧ (s.ch c).granted = true ∧ page ∈
      chanPages ∧ page ≠ pgMBOX ∧ 64 ≤ off ∧ off < 4096 ∧ off % 4 = 0 ∧ Free s c page) ∧
    (∃ (s : State) (c : Ch) (off n : Nat), FromPf4 s ∧ (s.ch c).boot = Boot.run ∧ (s.ch c).granted = true ∧ 4194304 ≤
      off ∧ off + n ≤ 8388608 ∧ (s.ch c).ecc = Ecc.reset) ∧
    (∃ (s : State) (c : Ch), FromPf4 s ∧ (s.ch c).boot = Boot.run) ∧
    (∃ (s : State) (c : Ch), FromPf4 s ∧ (s.ch c).boot = Boot.run) ∧
    (∃ (s : State) (c : Ch) (n : Nat), FromPf4 s ∧ (s.ch c).boot ≠ Boot.run ∧ 1 ≤ n) ∧
    (∃ (s : State) (c : Ch) (n : Nat), FromPf4 s ∧ (s.ch c).boot ≠ Boot.run ∧ 1 ≤ n) ∧
    (∃ (s : State) (snd : Sender) (c : Ch) (page : Nat) (acc : PageAcc), s.reaches snd c ∧ (¬page ∈ chanPages) ∧ page <
      256 ∧ acc.off < 4096 ∧ (snd ≠ Sender.pf4 ∨ acc.rd = true ∧ (s.ch c).granted = true)) ∧
    (∃ (s : State) (snd : Sender) (c : Ch) (page : Nat) (acc : PageAcc), s.reaches snd c ∧ (¬page ∈ chanPages) ∧ page <
      256 ∧ acc.off < 4096 ∧ (snd ≠ Sender.pf4 ∨ acc.rd = true ∧ (s.ch c).granted = true)) ∧
    (∃ (s : State) (snd : Sender) (c : Ch) (page : Nat) (acc : PageAcc), s.reaches snd c ∧ (¬page ∈ chanPages) ∧ page <
      256 ∧ acc.off < 4096 ∧ (snd ≠ Sender.pf4 ∨ acc.rd = true ∧ (s.ch c).granted = true)) ∧
    (∃ (s : State) (page : Nat), FromPf4 s ∧ devHole page = true) ∧
    (∃ (page : Nat), page ∈ chanPages) :=
  ⟨⟨d1, .ch0, .window 3, 8, by decide +kernel, by decide +kernel, by decide +kernel, by decide +kernel, fun _ _ h =>
     nomatch h⟩,
   ⟨{ d1 with dev := demoEl.dev }, .ch0, .regs 5 0x44, 8, by decide +kernel, by decide +kernel, by decide +kernel, by
     decide +kernel, fun _ _ h => by cases h; decide⟩,
   ⟨gr, .ch0, 2, 0x14, by decide +kernel⟩,
   ⟨gr, .ch0, 2, 0x40, by decide +kernel⟩,
   ⟨gr, .ch0, 1, 0x50, by decide +kernel⟩,
   ⟨gr, .ch0, 0x400003, 9, by decide +kernel⟩,
   ⟨d1, .ch0, by decide +kernel⟩,
   ⟨gr, .ch0, by decide +kernel⟩,
   ⟨gr, .ch3, 4, by decide +kernel⟩,
   ⟨gr, .ch3, 4, by decide +kernel⟩,
   ⟨d1, .rook, .ch0, 0x99, ⟨4, false⟩, by decide +kernel⟩,
   ⟨d1, .vf 3, .ch0, 0x99, ⟨4, true⟩, by decide +kernel⟩,
   ⟨gr, .pf4, .ch0, 0x99, ⟨4, true⟩, by decide +kernel⟩,
   ⟨d1, 0x99, by decide +kernel⟩,
   ⟨0x31, by decide +kernel⟩⟩

theorem witness_DeviceResetSequence :
    (∃ (cause : DevCause), ∀ (ns : Nat), cause = DevCause.rstn ns → 1000 ≤ ns) ∧
    (∃ (cause : DevCause), ∀ (ns : Nat), cause = DevCause.rstn ns → 1000 ≤ ns) ∧
    (∃ (ns : Nat), ns < 100) ∧
    (∃ (s : State), s.dev.phase = DevPhase.held ∧ s.dev.thermal = false) ∧
    (∃ (s : State), s.dev.phase = DevPhase.held ∧ s.dev.thermal = false) ∧
    (∃ (s : State), s.dev.phase = DevPhase.otp) ∧
    (∃ (s : State), s.dev.phase = DevPhase.otp) ∧
    (∃ (s : State), s.dev.phase = DevPhase.mgmt) :=
  ⟨⟨.supply, fun _ h => nomatch h⟩,
   ⟨.rstn 1000, fun _ h => by cases h; decide⟩,
   ⟨40, by decide +kernel⟩,
   ⟨State.reset, by decide +kernel⟩,
   ⟨State.reset, by decide +kernel⟩,
   ⟨{ d1 with dev := { d1.dev with phase := .otp, cause := 2 } }, by decide +kernel⟩,
   ⟨{ d1 with dev := { d1.dev with phase := .otp, cause := 2 } }, by decide +kernel⟩,
   ⟨{ d1 with dev := { d1.dev with phase := .mgmt, cause := 2 } }, by decide +kernel⟩⟩

theorem witness_DeviceEventOccurrence :
    (∃ (e : Nat), e < 40) ∧
    (∃ (e : Nat), e < 40) ∧
    (∃ (s : State) (e : Nat) (c : Ch), e < 40 ∧ (s.dreg dvDEVEVT (256 + 4 * e)).bit (6 + c.num) = true ∧ (s.ch c).up =
      true) ∧
    (∃ (s : State) (e : Nat) (c : Ch), e < 40 ∧ (s.dreg dvDEVEVT (256 + 4 * e)).bit (6 + c.num) = false) :=
  ⟨⟨7, by decide +kernel⟩,
   ⟨37, by decide +kernel⟩,
   ⟨d2, 7, .ch0, by decide +kernel⟩,
   ⟨demo, 39, .ch0, by decide +kernel⟩⟩

theorem witness_PowerUpSequence :
    (∃ (s : State) (c : Ch), FromPf4 s ∧ s.dev.cmd = none ∧ (s.ch c).pwr = Pwr.off) ∧
    (∃ (s : State) (c : Ch), FromPf4 s ∧ s.dev.cmd = none ∧ (s.ch c).pwr ≠ Pwr.off) ∧
    (∃ (r : Nat), r < 256) ∧
    (∃ (r : Nat), r < 256) ∧
    (∃ (r : Nat), r < 256) ∧
    (∃ (r : Nat), r < 256) ∧
    (∃ (s : State), FromPf4 s ∧ s.dev.cmd.isSome = true) ∧
    (∃ (s : State) (c : Ch), (s.ch c).seq = Seq.rail) ∧
    (∃ (s : State) (c : Ch), (s.ch c).seq = Seq.rail) ∧
    (∃ (s : State) (c : Ch), (s.ch c).seq ≠ Seq.rail) ∧
    (∃ (s : State) (c : Ch), (s.ch c).seq ≠ Seq.rail) ∧
    (∃ (s : State) (c : Ch), (s.ch c).seq = Seq.lock) ∧
    (∃ (s : State) (c : Ch), (s.ch c).seq ≠ Seq.lock) ∧
    (∃ (s : State) (c : Ch), (s.ch c).pwr = Pwr.on) ∧
    (∃ (s : State) (c : Ch), (s.ch c).pwr ≠ Pwr.on) :=
  ⟨⟨d2, .ch2, by decide +kernel⟩,
   ⟨d2, .ch0, by decide +kernel⟩,
   ⟨0, by decide +kernel⟩,
   ⟨2, by decide +kernel⟩,
   ⟨2, by decide +kernel⟩,
   ⟨2, by decide +kernel⟩,
   ⟨busy, by decide +kernel⟩,
   ⟨at' .ramp .off .rail, .ch0, by decide +kernel⟩,
   ⟨at' .ramp .off .rail, .ch0, by decide +kernel⟩,
   ⟨d2, .ch0, by decide +kernel⟩,
   ⟨d2, .ch0, by decide +kernel⟩,
   ⟨at' .ramp .off .lock, .ch0, by decide +kernel⟩,
   ⟨d2, .ch0, by decide +kernel⟩,
   ⟨d2, .ch0, by decide +kernel⟩,
   ⟨d2, .ch2, by decide +kernel⟩⟩

theorem witness_ChannelResetSequence :
    (∃ (s : State) (c : Ch), FromPf4 s ∧ s.dev.cmd = none ∧ (s.ch c).pwr = Pwr.on ∧ (s.ch c).seq = Seq.idle ∧ ((s.ch
      c).boot ≠ Boot.clklost ∨ (s.ch c).refclk = true)) ∧
    (∃ (s : State) (c : Ch), FromPf4 s ∧ s.dev.cmd = none ∧ (s.ch c).pwr = Pwr.on ∧ (s.ch c).seq = Seq.idle) ∧
    (∃ (s : State) (c : Ch), FromPf4 s ∧ s.dev.cmd = none ∧ (s.ch c).pwr = Pwr.on ∧ (s.ch c).seq = Seq.idle) ∧
    (∃ (s : State) (c : Ch), FromPf4 s ∧ s.dev.cmd = none ∧ (s.ch c).pwr = Pwr.off) ∧
    (∃ (s : State) (c : Ch), FromPf4 s ∧ s.dev.cmd = none ∧ (s.ch c).pwr = Pwr.off) ∧
    (∃ (s : State) (c : Ch), FromPf4 s ∧ s.dev.cmd = none ∧ (s.ch c).pwr = Pwr.ramp) ∧
    (∃ (s : State) (c : Ch), FromPf4 s ∧ s.dev.cmd = none ∧ (s.ch c).pwr = Pwr.on ∧ (s.ch c).seq = Seq.idle ∧ (s.ch
      c).boot = Boot.clklost ∧ (s.ch c).refclk = false ∧ (s.ch c).suspended = none) ∧
    (∃ (s : State) (snd : Sender) (c : Ch) (v : Word), s.reaches snd c ∧ Own snd ∧ Free s c pgCHCTL ∧ (s.ch c).seq =
      Seq.idle ∧ v.bit 0 = true) ∧
    (∃ (s : State) (snd : Sender) (c : Ch) (v : Word), s.reaches snd c ∧ Own snd ∧ Free s c pgCHCTL ∧ (s.ch c).seq =
      Seq.idle ∧ v.bit 0 = true) ∧
    (∃ (s : State) (snd : Sender) (c : Ch) (v : Word), s.reaches snd c ∧ Own snd ∧ Free s c pgCHCTL ∧ v.bit 0 = false) ∧
    (∃ (s : State) (c : Ch) (r : RstCause), FromPf4 s ∧ s.dev.cmd = none ∧ (s.ch c).pwr ≠ Pwr.off ∧ (s.ch c).seq =
      Seq.drain r false ∧ (s.ch c).loads ≠ Boot.loading ∧ (s.ch c).loads ≠ Boot.verify) ∧
    (∃ (s : State) (c : Ch) (r : RstCause), (s.ch c).seq = Seq.drain r false) ∧
    (∃ (s : State) (c : Ch) (r : RstCause), (s.ch c).seq = Seq.drain r true) ∧
    (∃ (s : State) (c : Ch) (r : RstCause), (s.ch c).seq = Seq.scrub r) ∧
    (∃ (s : State) (c : Ch) (r : RstCause), (s.ch c).seq = Seq.scrub r) :=
  ⟨⟨d2, .ch0, by decide +kernel⟩,
   ⟨d2, .ch0, by decide +kernel⟩,
   ⟨lost none .run, .ch0, by decide +kernel⟩,
   ⟨d2, .ch2, by decide +kernel⟩,
   ⟨d2, .ch2, by decide +kernel⟩,
   ⟨at' .ramp .off .rail, .ch0, by decide +kernel⟩,
   ⟨lost none .run, .ch0, by decide +kernel⟩,
   ⟨d2, .pf, .ch0, 3, by decide +kernel⟩,
   ⟨d2, .rook, .ch0, 3, by decide +kernel⟩,
   ⟨d2, .rook, .ch0, 2, by decide +kernel⟩,
   ⟨at' .on .reset (.drain .rook false), .ch0, .rook, by decide +kernel⟩,
   ⟨at' .on .reset (.drain .rook false), .ch0, .rook, by decide +kernel⟩,
   ⟨at' .on .reset (.drain .rook true), .ch0, .rook, by decide +kernel⟩,
   ⟨at' .on .reset (.scrub .rook), .ch0, .rook, by decide +kernel⟩,
   ⟨(at' .on .reset (.scrub .pf)).k0 fun k => { k with resume := .verify }, .ch0, .pf, by decide +kernel⟩⟩

theorem witness_LoadAndStart :
    (∃ (s : State) (c : Ch), FromPf4 s ∧ s.dev.cmd = none ∧ ((s.ch c).boot = Boot.loadwait ∨ (s.ch c).boot = Boot.fail)
      ∧ s.loadingCh = none ∧ 192 ≤ (s.dreg dvMGMT 76).field 0 22 ∧ (s.dreg dvMGMT 76).field 0 22 ≤ 2097152 ∧ (s.dreg
      dvMGMT 76).field 0 22 % 64 = 0) ∧
    (∃ (s : State) (c : Ch), FromPf4 s ∧ s.dev.cmd = none ∧ (¬((s.ch c).boot = Boot.loadwait ∨ (s.ch c).boot =
      Boot.fail) ∨ s.loadingCh ≠ none)) ∧
    (∃ (s : State) (c : Ch), FromPf4 s ∧ s.dev.cmd = none ∧ (¬((s.ch c).boot = Boot.loadwait ∨ (s.ch c).boot =
      Boot.fail) ∨ s.loadingCh ≠ none)) ∧
    (∃ (s : State) (c : Ch), FromPf4 s ∧ s.dev.cmd = none ∧ ((s.ch c).boot = Boot.loadwait ∨ (s.ch c).boot = Boot.fail)
      ∧ s.loadingCh = none ∧ (¬(192 ≤ (s.dreg dvMGMT 76).field 0 22 ∧ (s.dreg dvMGMT 76).field 0 22 ≤ 2097152 ∧ (s.dreg
      dvMGMT 76).field 0 22 % 64 = 0))) ∧
    (∃ (s : State) (c : Ch) (off : Nat), FromPf4 s ∧ s.loadingCh = some c ∧ (s.ch c).ecc = Ecc.reset ∧ (s.dreg dvBOOT
      84).field 0 22 + off < (s.ch c).loadN) ∧
    (∃ (s : State), FromPf4 s ∧ s.loadingCh = none) ∧
    (∃ (s : State) (c : Ch) (off : Nat), FromPf4 s ∧ s.loadingCh = some c ∧ (s.ch c).loadN ≤ (s.dreg dvBOOT 84).field 0
      22 + off) ∧
    (∃ (s : State), FromPf4 s ∧ s.dev.cmd = none) ∧
    (∃ (s : State), FromPf4 s ∧ s.dev.cmd = none) ∧
    (∃ (s : State), FromPf4 s ∧ s.dev.cmd = none) ∧
    (∃ (s : State) (c : Ch), (s.ch c).boot = Boot.verify) ∧
    (∃ (s : State) (c : Ch), (s.ch c).boot ≠ Boot.verify) :=
  ⟨⟨dL, .ch0, by decide +kernel⟩,
   ⟨dL, .ch1, by decide +kernel⟩,
   ⟨dL2, .ch0, by decide +kernel⟩,
   ⟨dL.setDreg 0 0x4C 0x401, .ch0, by decide +kernel⟩,
   ⟨dL2, .ch0, 0x10, by decide +kernel⟩,
   ⟨dL, by decide +kernel⟩,
   ⟨dL2, .ch0, 0x400, by decide +kernel⟩,
   ⟨dL2, by decide +kernel⟩,
   ⟨dL, by decide +kernel⟩,
   ⟨dL, by decide +kernel⟩,
   ⟨at' .on .verify .idle, .ch0, by decide +kernel⟩,
   ⟨d2, .ch0, by decide +kernel⟩⟩

theorem witness_OtpCommands :
    (∃ (s : State), FromPf4 s ∧ s.dev.cmd = none) ∧
    (∃ (s : State), FromPf4 s ∧ s.dev.cmd = none) ∧
    (∃ (s : State), FromPf4 s ∧ s.dev.cmd = none) ∧
    (∃ (s : State), FromPf4 s ∧ s.dev.cmd = none) ∧
    (∃ (s : State) (m : MgmtCmd), s.dev.cmd = some m ∧ 7 ≤ m.op ∧ m.op ≤ 10 ∧ s.otpSupplyOk = true) ∧
    (∃ (s : State) (m : MgmtCmd), s.dev.cmd = some m ∧ 7 ≤ m.op ∧ m.op ≤ 10 ∧ s.otpSupplyOk = true) ∧
    (∃ (s : State) (m : MgmtCmd), s.dev.cmd = some m ∧ 7 ≤ m.op ∧ m.op ≤ 10 ∧ s.otpSupplyOk = true) ∧
    (∃ (s : State) (m : MgmtCmd), s.dev.cmd = some m ∧ 7 ≤ m.op ∧ m.op ≤ 10 ∧ s.otpSupplyOk = false) ∧
    (∃ (s : State), ∀ (m : MgmtCmd), s.dev.cmd = some m → ¬(7 ≤ m.op ∧ m.op ≤ 10)) ∧
    (∃ (s : State), FromPf4 s ∧ s.dev.cmd = none ∧ s.dreg dvMGMT 76 = 42435) ∧
    (∃ (s : State), FromPf4 s ∧ s.dev.cmd = none ∧ s.dreg dvMGMT 76 ≠ 42435) :=
  ⟨⟨d2.setDreg 0 0x4C 12, by decide +kernel⟩,
   ⟨d2.setDreg 0 0x4C 2, by decide +kernel⟩,
   ⟨d2.setDreg 0 0x4C 2, by decide +kernel⟩,
   ⟨d2.setDreg 0 0x4C 2, by decide +kernel⟩,
   ⟨burn 7 9 1800, ⟨7, .ch0, 9⟩, by decide +kernel⟩,
   ⟨burn 8 2 1800, ⟨8, .ch0, 2⟩, by decide +kernel⟩,
   ⟨burn 9 2 1800, ⟨9, .ch0, 2⟩, by decide +kernel⟩,
   ⟨burn 7 9 9, ⟨7, .ch0, 9⟩, by decide +kernel⟩,
   ⟨d2, by decide +kernel⟩,
   ⟨d2.setDreg 0 0x4C 0xA5C3, by decide +kernel⟩,
   ⟨d2.setDreg 0 0x4C 0xA5C2, by decide +kernel⟩⟩

theorem witness_MonitorsAndTimer :
    (∃ (s : State), (s.dreg dvRST 68).bit 31 = true ∧ (s.dreg dvRST 68).field 0 16 ≠ 0) ∧
    (∃ (s : State), FromPf4 s) ∧
    (∃ (s : State) (tj : Half), (s.setTemp tj).hot 68 = true) ∧
    (∃ (s : State) (tj : Half), (s.setTemp tj).hot 72 = true ∧ s.dreg dvMON 76 = 0) ∧
    (∃ (tj : Half), 130 * 16 ≤ BitVec.toInt tj) ∧
    (∃ (tj : Half), BitVec.toInt tj < 115 * 16) ∧
    (∃ (s : State) (tj : Half), (s.setTemp tj).hot 72 = true) ∧
    (∃ (s : State) (tj : Half), (s.setTemp tj).hot 68 = false) ∧
    (∃ (s : State) (tj : Half), (s.setTemp tj).hot 72 = false) ∧
    (∃ (tj : Half), BitVec.toInt tj < 130 * 16) ∧
    (∃ (tj : Half), 115 * 16 ≤ BitVec.toInt tj) ∧
    (∃ (mv : Half), 720 ≤ BitVec.toNat mv ∧ (BitVec.toNat mv < 760 ∨ 840 < BitVec.toNat mv)) ∧
    (∃ (mv : Half), BitVec.toNat mv < 855 ∨ 945 < BitVec.toNat mv) ∧
    (∃ (mv : Half), BitVec.toNat mv < 1710 ∨ 1890 < BitVec.toNat mv) ∧
    (∃ (mv : Half), 1620 ≤ BitVec.toNat mv ∧ (BitVec.toNat mv < 1710 ∨ 1890 < BitVec.toNat mv)) ∧
    (∃ (mv : Half), BitVec.toNat mv < 720) ∧
    (∃ (mv : Half), BitVec.toNat mv < 1620) ∧
    (∃ (s : State), (s.dreg dvRST 68).bit 31 = false ∨ (s.dreg dvRST 68).field 0 16 = 0) ∧
    (∃ (s : State) (k : Nat) (b : Ball), b.bank = some k ∧ s.bankUp k = false) ∧
    (∃ (s : State) (c : Ch) (b : Ball), b.chan = some c ∧ (s.ch c).boot ≠ Boot.run) :=
  ⟨⟨d2.setDreg 2 0x44 0x80000033, by decide +kernel⟩,
   ⟨d2.setDreg 2 0x44 0x80000033, by decide +kernel⟩,
   ⟨d2, 0x7FF, by decide +kernel⟩,
   ⟨d2.setDreg dvMON 0x4C 0, 0x7FF, by decide +kernel⟩,
   ⟨0x0FF0, by decide +kernel⟩,
   ⟨0xFFF0, by decide +kernel⟩,
   ⟨d2.setDreg dvMON 0x4C 3, 0x7FF, by decide +kernel⟩,
   ⟨d2, 16, by decide +kernel⟩,
   ⟨d2, 16, by decide +kernel⟩,
   ⟨16, by decide +kernel⟩,
   ⟨1840, by decide +kernel⟩,
   ⟨759, by decide +kernel⟩,
   ⟨854, by decide +kernel⟩,
   ⟨1891, by decide +kernel⟩,
   ⟨1620, by decide +kernel⟩,
   ⟨719, by decide +kernel⟩,
   ⟨1619, by decide +kernel⟩,
   ⟨d2.setDreg 2 0x44 0, by decide +kernel⟩,
   ⟨State.reset.setDreg dvMON 0x60 0, 3, .pp .ch0 5, by decide +kernel⟩,
   ⟨State.reset, .ch0, .pp .ch0 5, by decide +kernel⟩⟩

theorem witness_ClockLossAndReturn :
    (∃ (s : State) (c : Ch), (s.ch c).pwr ≠ Pwr.off ∧ (s.ch c).boot ≠ Boot.clklost) ∧
    (∃ (s : State) (c : Ch), (s.ch c).pwr ≠ Pwr.off ∧ (s.ch c).boot ≠ Boot.clklost) ∧
    (∃ (s : State) (c : Ch), (s.ch c).pwr = Pwr.off ∨ (s.ch c).boot = Boot.clklost) ∧
    (∃ (s : State) (c : Ch), (s.ch c).boot = Boot.clklost ∧ (s.ch c).suspended = none) ∧
    (∃ (s : State) (c : Ch) (r : RstCause) (off : Bool), (s.ch c).boot = Boot.clklost ∧ ((s.ch c).suspended = some
      (Seq.drain r off) ∨ (s.ch c).suspended = some (Seq.scrub r) ∧ off = false)) ∧
    (∃ (s : State) (c : Ch) (r : RstCause) (off : Bool), (s.ch c).boot = Boot.clklost ∧ ((s.ch c).suspended = some
      (Seq.drain r off) ∨ (s.ch c).suspended = some (Seq.scrub r) ∧ off = false)) ∧
    (∃ (s : State) (c : Ch), (s.ch c).boot = Boot.clklost ∧ ((s.ch c).suspended = some Seq.rail ∨ (s.ch c).suspended =
      some Seq.lock)) ∧
    (∃ (s : State) (c : Ch), (s.ch c).boot ≠ Boot.clklost) :=
  ⟨⟨d2.setDreg dvRST 0x040 0, .ch0, by decide +kernel⟩,
   ⟨d2.setDreg dvRST 0x040 0xF0, .ch0, by decide +kernel⟩,
   ⟨d2, .ch2, by decide +kernel⟩,
   ⟨lost none .verify, .ch0, by decide +kernel⟩,
   ⟨lost (some (.scrub .pf)) .run, .ch0, .pf, false, by decide +kernel⟩,
   ⟨lost (some (.drain .pf true)) .verify, .ch0, .pf, true, by decide +kernel⟩,
   ⟨lost (some .lock) .off, .ch0, by decide +kernel⟩,
   ⟨d2, .ch0, by decide +kernel⟩⟩

theorem witness_JtagAccess :
    (∃ (s : State), s.jtagReady = true) ∧
    (∃ (s : State), s.jtagReady = true ∧ s.dev.otp.locked = true) ∧
    (∃ (s : State), s.jtagReady = true ∧ s.dev.otp.locked = true) ∧
    (∃ (s : State) (c : Ch) (off : Nat), s.jtagReady = true ∧ s.dev.otp.locked = false ∧ (s.ch c).boot = Boot.run ∧ off
      < 4096) ∧
    (∃ (s : State) (c : Ch), s.jtagReady = true ∧ s.dev.otp.locked = false ∧ (s.ch c).boot ≠ Boot.run) ∧
    (∃ (s : State) (c : Ch) (off : Nat), s.jtagReady = true ∧ s.dev.otp.locked = false ∧ (s.ch c).boot = Boot.run ∧ off
      < 64) ∧
    (∃ (s : State), s.jtagReady = true) ∧
    (∃ (s : State), s.dev.phase = DevPhase.held ∨ s.bankUp 16 = false) ∧
    (∃ (s : State), s.dev.phase = DevPhase.held ∨ s.bankUp 16 = false) :=
  ⟨⟨d2, by decide +kernel⟩,
   ⟨lock, by decide +kernel⟩,
   ⟨lock, by decide +kernel⟩,
   ⟨d2, .ch0, 0x40, by decide +kernel⟩,
   ⟨d2, .ch2, by decide +kernel⟩,
   ⟨d2, .ch0, 0x14, by decide +kernel⟩,
   ⟨d2, by decide +kernel⟩,
   ⟨State.reset, by decide +kernel⟩,
   ⟨State.reset, by decide +kernel⟩⟩

end Device

/-! ## Host port, memory, mailboxes, DMA -/

namespace HostSide

def d1 := demo.k0 (regs [(0x70, 0x00C, 0x80000105), (2, 0x040, 0xFFFFFFFF), (2, 0x014, 0xFFFF), (2, 0x048, 0xFFFFFFFF),
    (2, 0x104, 0x2F), (4, 0x00C, 0x80000105), (0x22, 0x040, 0x33), (0x31, 0x44, 5)])

def hv : HostPort := { hPcie with vfEnable := Vector.replicate 4 false }

def dv := { d1 with dev := { d1.dev with host := hv } }

def setf (s : State) (f : HostFn) (x : FnCfg) : State := s.onHost fun h => h.setFn f x

def fb : FnCfg := ⟨true, false, true, false, true, 0⟩

def d3 : FnCfg := ⟨true, true, true, false, true, 0⟩

def withItem (f : Nat) : State := d1.k0 fun k => { k.setReg 0x60 0x110 1 with
    dma := [(f * 8, { dmaBlank with items := [DmaItem.blank 1] })] }

def lone := setf demo (.pf .ch2) fb

def kk (s : State) : State := s.k0 fun k => (regs [(0x70, 0x14, 0x5A5A), (0x30, 0x18, 7)] k)

def el := kk demoEl

def hd (a : Nat) : BitVec 24 := BitVec.ofNat 24 (a / 4)

def dm := demo.k0 fun k => (regs [(3, 0x40, 0x100)] { k with sram := k.sram.write (SRAM0+4) [some 1, some 2, some 3] })

def dx := demo.k0 fun k => (regs [(3, 0x40, 0x1100)] k)

def hold := dm.k0 fun k => { regs [(3, 0x40, 0x102)] k with handovers := [⟨0, 1, false, []⟩] }

def bad (o : Nat) (s : State) : State := s.k0 fun k => { k with ecc := { k.ecc with ueMail := [o] } }

def bz (s : State) : State := s.k0 (regs [(5, 4, 2)])

def dt := d1.k0 (regs [(5, 0x68, 0x4104)])

def bd (s : State) : State := s.k0 (regs [(0x60, 4, 2)])

def de := dt.k0 (regs [(0x60, 0x100+0x200+0x60+0x10, 0x51), (0x60, 0x100+0x200+0x60+0x1C, 0xF0001)])

def dj := setf (dt.k0 (regs [(0x60, 8, 2), (0x60, 0x100+0x200+0x60+0x10, 0x51), (0x60, 0x100+0x200+0x60+0x14, 7)])) (.vf
    .ch0 1) fb

def dj2 := dj.k0 (regs [(0x60, 0x100+0x200+0x60+0x10, 0x55)])

def desc : List Byte := List.replicate 12 0 ++ [0x40, 0, 0, 0] ++ List.replicate 16 0

def desc0 : List Byte := List.replicate 8 0 ++ [0, 0, 0, 1] ++ [0x40, 0, 0, 0] ++ List.replicate 16 0

def rit : DmaItem := { DmaItem.blank 0 with started := true, len := 4, saddr := SRAM0, asked := 4 }

def dj3 := dj.k0 fun k => regs [(3, 0x40, 0x300)] { k with dma := [(19, { dmaBlank with items := [rit], fetch := 1 })] }

def rit2 : DmaItem := { rit with outcome := some 0 }

theorem witness_FunctionControls :
    (∃ (s : State) (c : Ch) (v : Half), s.configures (HostFn.pf c) = true ∧ BitVec.toNat v ≤ 7 ∧ s.dev.host.vfEn c =
      false) ∧
    (∃ (s : State) (c : Ch) (v : Half), s.configures (HostFn.pf c) = false ∨ 7 < BitVec.toNat v ∨ s.dev.host.vfEn c =
      true) ∧
    (∃ (s : State) (c : Ch) (v : Half), s.configures (HostFn.pf c) = false ∨ 7 < BitVec.toNat v ∨ s.dev.host.vfEn c =
      true) ∧
    (∃ (s : State) (f : HostFn), s.configures f = true) ∧
    (∃ (s : State) (f : HostFn), s.configures f = true) ∧
    (∃ (s : State) (f : HostFn), s.configures f = true) ∧
    (∃ (s : State) (f : HostFn), s.configures f = true ∧ (∀ (c : Ch) (j : Nat), FnOf f c j → (s.ch c).hasItems = false)
      ∧ (s.dev.host.fn f).bme = true) ∧
    (∃ (s : State) (f : HostFn), s.configures f = true ∧ (∀ (c : Ch) (j : Nat), FnOf f c j → (s.ch c).hasItems = false)
      ∧ (s.dev.host.fn f).d3hot = false) ∧
    (∃ (s : State) (f : HostFn) (c : Ch) (j : Fin 8), s.configures f = true ∧ FnOf f c j.val ∧ (s.ch c).hasItems = true
      ∧ (s.dev.host.fn f).bme = true) ∧
    (∃ (s : State) (f : HostFn) (c : Ch) (j : Fin 8), s.configures f = true ∧ FnOf f c j.val ∧ (s.ch c).hasItems = true
      ∧ (s.dev.host.fn f).d3hot = false) ∧
    (∃ (s : State) (f : HostFn), s.configures f = false ∨ (s.dev.host.fn f).bme = false) ∧
    (∃ (s : State) (f : HostFn), s.configures f = false ∨ (s.dev.host.fn f).d3hot = true) ∧
    (∃ (s : State) (f : HostFn), s.configures f = false) ∧
    (∃ (s : State) (c : Ch), s.configures (HostFn.pf c) = true ∧ s.dev.host.vfEn c = true) ∧
    (∃ (s : State) (c : Ch), s.configures (HostFn.pf c) = false ∨ s.dev.host.vfEn c = false) :=
  ⟨⟨dv, .ch0, 3, by decide +kernel⟩,
   ⟨d1, .ch0, 3, by decide +kernel⟩,
   ⟨dv, .ch0, 8, by decide +kernel⟩,
   ⟨d1, .pf .ch0, by decide +kernel⟩,
   ⟨withItem 3, .vf .ch0 2, by decide +kernel⟩,
   ⟨d1, .pf4, by decide +kernel⟩,
   ⟨lone, .pf .ch2, by decide +kernel, fun _ _ h => by rcases h with ⟨h, _⟩ | ⟨_, h, _⟩ <;> cases h; rfl, by
     decide +kernel⟩,
   ⟨lone, .pf .ch2, by decide +kernel, fun _ _ h => by rcases h with ⟨h, _⟩ | ⟨_, h, _⟩ <;> cases h; rfl, by
     decide +kernel⟩,
   ⟨setf (withItem 4) (.vf .ch0 3) fb, .vf .ch0 3, .ch0, 4, by decide +kernel⟩,
   ⟨setf (withItem 0) (.pf .ch0) fb, .pf .ch0, .ch0, 0, by decide +kernel⟩,
   ⟨d1, .pf .ch0, by decide +kernel⟩,
   ⟨setf d1 (.pf .ch0) d3, .pf .ch0, by decide +kernel⟩,
   ⟨State.reset, .pf .ch0, by decide +kernel⟩,
   ⟨d1, .ch0, by decide +kernel⟩,
   ⟨dv, .ch0, by decide +kernel⟩⟩

theorem witness_PortResetAndLink :
    (∃ (s : State), s.dev.phase = DevPhase.ready ∧ s.dev.host.elofSel = false) ∧
    (∃ (s : State), s.dev.phase ≠ DevPhase.ready ∨ s.dev.host.elofSel = true) ∧
    (∃ (s : State), s.dev.phase ≠ DevPhase.ready ∨ s.dev.host.elofSel = true) ∧
    (∃ (s : State), s.dev.host.linkUp = true) ∧
    (∃ (s : State), s.dev.host.linkUp = false) ∧
    (∃ (s : State), s.dev.phase = DevPhase.ready ∧ s.dev.host.elofSel = false ∧ s.dev.host.linkUp = false) ∧
    (∃ (s : State), s.dev.phase ≠ DevPhase.ready ∨ s.dev.host.elofSel = true ∨ s.dev.host.linkUp = true) :=
  ⟨⟨setf (withItem 3) (.pf .ch0) fb, by decide +kernel⟩,
   ⟨State.reset, by decide +kernel⟩,
   ⟨demoEl, by decide +kernel⟩,
   ⟨setf (withItem 3) (.pf .ch0) fb, by decide +kernel⟩,
   ⟨State.reset, by decide +kernel⟩,
   ⟨{ dv with dev := { dv.dev with host := { dv.dev.host with linkUp := false } } }, by decide +kernel⟩,
   ⟨dv, by decide +kernel⟩⟩

theorem witness_ElofTransactions :
    (∃ (s : State) (j : Fin 4) (cmd : Byte) (addr : BitVec 24) (page tsck wait cycles : Nat), s.elReady = true ∧ (s.ch
      (Ch.nth j.val)).boot = Boot.run ∧ page ∈ chanPages ∧ elHeader cmd addr =
      { op := 0, space := 0, len := 1, addr := regKey page 20 } ∧ 2 * elWaits false tsck wait + 22 ≤ cycles) ∧
    (∃ (s : State) (j : Fin 4) (cmd : Byte) (addr : BitVec 24) (page tsck wait cycles : Nat), s.elReady = true ∧ (s.ch
      (Ch.nth j.val)).boot = Boot.run ∧ page ∈ chanPages ∧ elHeader cmd addr =
      { op := 0, space := 0, len := 1, addr := regKey page 20 } ∧ 2 * elWaits false tsck wait + 22 ≤ cycles) ∧
    (∃ (s : State) (j : Fin 4) (cmd : Byte) (addr : BitVec 24) (page tsck wait cycles : Nat), s.elReady = true ∧ (s.ch
      (Ch.nth j.val)).boot = Boot.run ∧ page ∈ chanPages ∧ elHeader cmd addr =
      { op := 0, space := 0, len := 1, addr := regKey page 20 } ∧ 2 * elWaits false tsck wait + 22 ≤ cycles) ∧
    (∃ (s : State) (cmd : Byte) (addr : BitVec 24) (page tsck wait cycles : Nat), s.elReady = true ∧ page < 9 ∧ elHeader
      cmd addr = { op := 0, space := 0, len := 1, addr := regKey page 24 } ∧ 2 * elWaits false tsck wait + 22 ≤ cycles) ∧
    (∃ (s : State) (cmd : Byte) (addr : BitVec 24) (a tsck wait cycles : Nat), s.elReady = true ∧ elHeader cmd addr =
      { op := 0, space := 0, len := 1, addr := a } ∧ 2 * elWaits false tsck wait + 14 ≤ cycles ∧ 1048576 ≤ a) ∧
    (∃ (s : State) (j : Fin 4) (cmd : Byte) (addr : BitVec 24) (a tsck wait cycles : Nat), s.elReady = true ∧ elHeader
      cmd addr = { op := 0, space := 0, len := 1, addr := a } ∧ 2 * elWaits false tsck wait + 14 ≤ cycles ∧ a < 1048576
      ∧ (s.ch (Ch.nth j.val)).boot ≠ Boot.run) ∧
    (∃ (s : State) (cmd : Byte) (addr : BitVec 24) (sp n a tsck wait cycles : Nat), s.elReady = true ∧ elHeader cmd addr
      = { op := 0, space := sp, len := n, addr := a } ∧ 2 ≤ sp ∧ 1 ≤ n ∧ 2 * elWaits false tsck wait + 14 ≤ cycles) ∧
    (∃ (s : State) (hcs : Fin 5) (cmd : Byte) (addr : BitVec 24) (tsck wait cycles : Nat), s.elReady = true ∧ (elHeader
      cmd addr).op = 0 ∧ cycles < 13 + 2 * elWaits (elMemory hcs (elHeader cmd addr).space) tsck wait) ∧
    (∃ (s : State) (j : Fin 4) (cmd : Byte) (addr : BitVec 24) (page : Nat), s.elReady = true ∧ (s.ch (Ch.nth
      j.val)).boot = Boot.run ∧ page ∈ chanPages ∧ elHeader cmd addr =
      { op := 1, space := 0, len := 1, addr := regKey page 24 }) ∧
    (∃ (s : State) (j : Fin 4) (cmd : Byte) (addr : BitVec 24) (a : Nat), s.elReady = true ∧ (s.ch (Ch.nth j.val)).boot
      ≠ Boot.run ∧ elHeader cmd addr = { op := 1, space := 0, len := 1, addr := a } ∧ a < 1048576) ∧
    (∃ (s : State) (cmd : Byte) (addr : BitVec 24) (data : List Byte) (n a : Nat), s.elReady = true ∧ elHeader cmd addr
      = { op := 1, space := 0, len := n, addr := a } ∧ a < 1048576 ∧ data.length < 4 ∧ data ≠ []) ∧
    (∃ (s : State), s.elReady = true) ∧
    (∃ (s : State) (n : Nat) (b : Bool), s.elReady = true ∧ (2 ≤ n ∨ b = true)) ∧
    (∃ (s : State) (n : Nat) (b : Bool), s.elReady = true ∧ (2 ≤ n ∨ b = true)) ∧
    (∃ (s : State) (cmd : Byte) (addr : BitVec 24), s.elReady = false ∨ (elHeader cmd addr).op ≠ 0) ∧
    (∃ (s : State) (cmd : Byte) (addr : BitVec 24), s.elReady = false ∨ (elHeader cmd addr).op ≠ 1) ∧
    (∃ (s : State), s.elReady = false) ∧
    (∃ (s : State) (b : Bool) (n : Nat), s.elReady = false ∨ n < 2 ∧ b = false) :=
  ⟨⟨el, 0, 0, hd 0x70014, 0x70, 20000, 3, 33, by decide +kernel⟩,
   ⟨el, 0, 0, hd 0x70014, 0x70, 20000, 3, 60, by decide +kernel⟩,
   ⟨el, 0, 0, hd 0x70014, 0x70, 200000, 3, 22, by decide +kernel⟩,
   ⟨el, 0, hd 0x5018, 5, 20000, 3, 50, by decide +kernel⟩,
   ⟨el, 0, hd 0x100004, 0x100004, 20000, 3, 24, by decide +kernel⟩,
   ⟨el, 3, 0, hd 0x4, 4, 20000, 3, 24, by decide +kernel⟩,
   ⟨el, 0x31, hd 0x4, 3, 2, 4, 20000, 3, 24, by decide +kernel⟩,
   ⟨el, 0, 0x11, hd 0x4, 20000, 3, 14, by decide +kernel⟩,
   ⟨el, 0, 0x40, hd 0x30018, 0x30, by decide +kernel⟩,
   ⟨el, 3, 0x40, hd 0x30018, 0x30018, by decide +kernel⟩,
   ⟨el, 0x41, hd 0x30018, [1, 2], 2, 0x30018, by decide +kernel⟩,
   ⟨{ el with dev := { demoEl.dev with elof := ⟨Vector.replicate 5 0x81, [4, 5]⟩ } }, by decide +kernel⟩,
   ⟨el, 2, false, by decide +kernel⟩,
   ⟨el, 1, true, by decide +kernel⟩,
   ⟨demo, 0, 0, by decide +kernel⟩,
   ⟨demo, 0, 0, by decide +kernel⟩,
   ⟨demo, by decide +kernel⟩,
   ⟨demo, false, 0, by decide +kernel⟩⟩

theorem witness_MemoryWindow :
    (∃ (s : State) (c : Ch) (off n : Nat), s.arrives (HostFn.pf c) = true ∧ (s.ch c).boot = Boot.run ∧ 4194304 ≤ off ∧
      off + n ≤ 8388608 ∧ (s.ch c).ecc = Ecc.reset ∧ (s.ch c).grant mPF (off - 4194304 + SRAM0) n false = Grant.ok) ∧
    (∃ (s : State) (c : Ch) (off n : Nat), s.arrives (HostFn.pf c) = true ∧ (s.ch c).boot = Boot.run ∧ (s.ch c).ecc =
      Ecc.reset ∧ off + n ≤ 262144) ∧
    (∃ (s : State) (c : Ch) (off n : Nat), s.arrives (HostFn.pf c) = true ∧ (s.ch c).boot = Boot.run ∧ (s.ch c).ecc =
      Ecc.reset ∧ 1048576 ≤ off ∧ off + n ≤ 1310720) ∧
    (∃ (s : State) (c : Ch) (off : Nat) (data : List (Option Byte)), s.arrives (HostFn.pf c) = true ∧ (s.ch c).boot =
      Boot.run ∧ 4194304 ≤ off ∧ off + data.length ≤ 8388608 ∧ (s.ch c).ecc = Ecc.reset ∧ (s.ch c).grant mPF (off -
      4194304 + SRAM0) data.length true = Grant.ok ∧ Memory.wf (s.ch c).sram = true) ∧
    (∃ (a : Nat) (data : List (Option Byte)) (x : Nat), x < a ∨ a + data.length ≤ x) ∧
    (∃ (s : State) (c : Ch) (off n : Nat), s.arrives (HostFn.pf c) = true ∧ (s.ch c).boot = Boot.run ∧ 4194304 ≤ off ∧
      off + n ≤ 8388608 ∧ (s.ch c).grant mPF (off - 4194304 + SRAM0) n false = Grant.refused) ∧
    (∃ (s : State) (c : Ch) (off : Nat) (data : List (Option Byte)), s.arrives (HostFn.pf c) = true ∧ (s.ch c).boot =
      Boot.run ∧ 4194304 ≤ off ∧ off + data.length ≤ 8388608 ∧ (s.ch c).grant mPF (off - 4194304 + SRAM0) data.length
      true = Grant.refused) ∧
    (∃ (s : State) (c : Ch) (off n : Nat), s.arrives (HostFn.pf c) = true ∧ (s.ch c).boot = Boot.run ∧ 262144 ≤ off ∧
      off < 1048576 ∧ 1 ≤ n) ∧
    (∃ (s : State) (c : Ch) (off : Nat) (data : List (Option Byte)), s.arrives (HostFn.pf c) = true ∧ (s.ch c).boot =
      Boot.run ∧ 262144 ≤ off ∧ off < 1048576 ∧ data ≠ []) ∧
    (∃ (s : State) (c : Ch) (off : Nat) (acc : MemAcc), s.arrives (HostFn.pf c) = true ∧ (s.ch c).boot = Boot.run ∧
      (s.ch c).windowHeld off acc = true) ∧
    (∃ (s : State) (c : Ch), s.arrives (HostFn.pf c) = true ∧ (s.ch c).boot ≠ Boot.run) ∧
    (∃ (s : State) (c : Ch), s.arrives (HostFn.pf c) = true ∧ (s.ch c).boot ≠ Boot.run) ∧
    (∃ (s : State) (c : Ch), s.arrives (HostFn.pf c) = false) :=
  ⟨⟨dm, .ch0, 0x400002, 9, by decide +kernel⟩,
   ⟨dm, .ch0, 0x1000, 9, by decide +kernel⟩,
   ⟨dm, .ch0, 0x100004, 9, by decide +kernel⟩,
   ⟨dm, .ch0, 0x400002, [some 1, none, some 3, some 0, some 0], by decide +kernel⟩,
   ⟨6, [some 2, none], 8, by decide +kernel⟩,
   ⟨dx, .ch0, 0x400002, 9, by decide +kernel⟩,
   ⟨dx, .ch0, 0x400002, [some 1], by decide +kernel⟩,
   ⟨dx, .ch0, 0x50000, 9, by decide +kernel⟩,
   ⟨dx, .ch0, 0x50000, [some 1], by decide +kernel⟩,
   ⟨hold, .ch0, 0x400002, .read 9, by decide +kernel⟩,
   ⟨dm, .ch2, by decide +kernel⟩,
   ⟨dm, .ch2, by decide +kernel⟩,
   ⟨State.reset, .ch0, by decide +kernel⟩⟩

theorem witness_BankHandover :
    (∃ (s : State) (snd : Sender) (c : Ch) (b : Fin 16) (v : Word), s.reaches snd c ∧ Own snd ∧ Free s c pgMEMOWN ∧
      ((s.ch c).bank b.val).bit 2 = false ∧ ((s.ch c).bank b.val).bit 1 = false ∧ ((s.ch c).bank b.val).bit 0 = false ∧
      v.field 8 5 < 18 ∧ controls snd (((s.ch c).bank b.val).field 8 5) = true ∧ (v.field 8 5 ≠ ((s.ch c).bank
      b.val).field 8 5 ∨ v.bit 0 = true)) ∧
    (∃ (s : State) (snd : Sender) (c : Ch) (b : Fin 16) (v : Word), s.reaches snd c ∧ Own snd ∧ Free s c pgMEMOWN ∧
      ((s.ch c).bank b.val).bit 2 = false ∧ ((s.ch c).bank b.val).bit 1 = false ∧ ((s.ch c).bank b.val).bit 0 = false ∧
      v.field 8 5 < 18 ∧ controls snd (((s.ch c).bank b.val).field 8 5) = true ∧ (v.field 8 5 ≠ ((s.ch c).bank
      b.val).field 8 5 ∨ v.bit 0 = true)) ∧
    (∃ (s : State) (snd : Sender) (c : Ch) (b : Fin 16) (v : Word), s.reaches snd c ∧ Own snd ∧ Free s c pgMEMOWN ∧
      ((s.ch c).bank b.val).bit 2 = false ∧ ((s.ch c).bank b.val).bit 1 = false ∧ ((s.ch c).bank b.val).bit 0 = false ∧
      v.field 8 5 = ((s.ch c).bank b.val).field 8 5 ∧ v.field 8 5 < 18 ∧ v.bit 0 = false) ∧
    (∃ (s : State) (snd : Sender) (c : Ch) (b : Fin 16) (v : Word), s.reaches snd c ∧ Own snd ∧ Free s c pgMEMOWN ∧
      ((s.ch c).bank b.val).bit 2 = false ∧ ((s.ch c).bank b.val).bit 1 = false ∧ ((s.ch c).bank b.val).bit 0 = true ∧
      v.field 8 5 < 18) ∧
    (∃ (s : State) (snd : Sender) (c : Ch) (b : Fin 16) (v : Word), s.reaches snd c ∧ Own snd ∧ Free s c pgMEMOWN ∧
      ((s.ch c).bank b.val).bit 2 = false ∧ ((s.ch c).bank b.val).bit 1 = false ∧ ((s.ch c).bank b.val).bit 0 = true ∧
      v.field 8 5 < 18) ∧
    (∃ (s : State) (snd : Sender) (c : Ch) (b : Fin 16), s.reaches snd c ∧ Own snd ∧ Free s c pgMEMOWN ∧ (((s.ch c).bank
      b.val).bit 2 = true ∨ ((s.ch c).bank b.val).bit 1 = true)) ∧
    (∃ (s : State) (snd : Sender) (c : Ch) (b : Fin 16) (v : Word), s.reaches snd c ∧ Own snd ∧ Free s c pgMEMOWN ∧
      ((s.ch c).bank b.val).bit 2 = false ∧ ((s.ch c).bank b.val).bit 1 = false ∧ ((s.ch c).bank b.val).bit 0 = false ∧
      controls snd (((s.ch c).bank b.val).field 8 5) = false ∧ (v.field 8 5 ≠ ((s.ch c).bank b.val).field 8 5 ∨ v.bit 0
      = true)) ∧
    (∃ (s : State) (snd : Sender) (c : Ch) (b : Fin 16) (v : Word), s.reaches snd c ∧ Own snd ∧ Free s c pgMEMOWN ∧
      ((s.ch c).bank b.val).bit 2 = false ∧ ((s.ch c).bank b.val).bit 1 = false ∧ 18 ≤ v.field 8 5 ∧ (((s.ch c).bank
      b.val).bit 0 = true ∨ controls snd (((s.ch c).bank b.val).field 8 5) = true)) ∧
    (∃ (s : State) (c : Ch) (b : Fin 16) (h : Handover), List.find? (fun (h : Handover) => decide (h.bank = b.val))
      (s.ch c).handovers = some h) ∧
    (∃ (s : State) (c : Ch) (b : Fin 16) (h : Handover), List.find? (fun (h : Handover) => decide (h.bank = b.val))
      (s.ch c).handovers = some h) ∧
    (∃ (s : State) (c : Ch) (b : Fin 16), (s.ch c).handing b.val = false) ∧
    (∃ (s : State) (c : Ch), (s.ch c).boot = Boot.run ∧ Free s c pgMEMOWN) ∧
    (∃ (s : State) (snd : Sender) (c : Ch), s.reaches snd c ∧ (snd = Sender.pf ∨ snd = Sender.pf4 ∧ (s.ch c).granted =
      true) ∧ Free s c pgMEMOWN) ∧
    (∃ (s : State) (snd : Sender) (c : Ch), s.reaches snd c ∧ (snd = Sender.pf ∨ snd = Sender.pf4 ∧ (s.ch c).granted =
      true) ∧ Free s c pgMEMOWN) :=
  ⟨⟨dm, .pf, .ch0, 0, 0x901, by decide +kernel⟩,
   ⟨dm, .rook, .ch0, 2, 0x900, by decide +kernel⟩,
   ⟨dm, .pf, .ch0, 0, 0x100, by decide +kernel⟩,
   ⟨dm.k0 (regs [(3, 0x40, 0x101)]), .rook, .ch0, 0, 0x901, by decide +kernel⟩,
   ⟨dm.k0 (regs [(3, 0x40, 0x101)]), .rook, .ch0, 0, 0x900, by decide +kernel⟩,
   ⟨dm.k0 (regs [(3, 0x40, 0x102)]), .rook, .ch0, 0, by decide +kernel⟩,
   ⟨dm, .rook, .ch0, 0, 0x900, by decide +kernel⟩,
   ⟨dm, .pf, .ch0, 0, 0x1201, by decide +kernel⟩,
   ⟨dm.k0 fun k => { regs [(3, 0x40, 0x102)] k with handovers := [⟨0, 3, false, []⟩] }, .ch0, 0, ⟨0, 3, false, []⟩, by
     decide +kernel⟩,
   ⟨dm.k0 fun k => { regs [(3, 0x40, 0x102)] k with handovers := [⟨0, 1, false, [⟨.pf, 0x400002, .read 4⟩]⟩] }, .ch0,
     0, ⟨0, 1, false, [⟨.pf, 0x400002, .read 4⟩]⟩, by decide +kernel⟩,
   ⟨dm, .ch0, 0, by decide +kernel⟩,
   ⟨dm.k0 (regs [(3, 0x80, 0x102)]), .ch0, by decide +kernel⟩,
   ⟨dm.k0 (regs [(3, 0x80, 0x102)]), .pf, .ch0, by decide +kernel⟩,
   ⟨dm.k0 (regs [(3, 0x80, 0x102), (0, 0x44, 1)]), .pf4, .ch0, by decide +kernel⟩⟩

theorem witness_InboundMail :
    (∃ (s : State) (snd : Sender) (c : Ch), s.reaches snd c ∧ snd.isHost = true ∧ Free s c pgMBOX ∧ (s.ch c).inFull
      ↑(pairOf snd) = false ∧ (s.ch c).ecc = Ecc.reset) ∧
    (∃ (s : State) (snd : Sender) (c : Ch), s.reaches snd c ∧ snd.isHost = true ∧ Free s c pgMBOX ∧ (s.ch c).inFull
      ↑(pairOf snd) = false ∧ (s.ch c).ecc = Ecc.reset) ∧
    (∃ (s : State) (snd : Sender) (c : Ch), s.reaches snd c ∧ snd.isHost = true ∧ Free s c pgMBOX ∧ (s.ch c).inFull
      ↑(pairOf snd) = false) ∧
    (∃ (s : State) (snd : Sender) (c : Ch), s.reaches snd c ∧ snd.isHost = true ∧ Free s c pgMBOX ∧ (s.ch c).inFull
      ↑(pairOf snd) = false) ∧
    (∃ (s : State) (snd : Sender) (c : Ch), s.reaches snd c ∧ snd.isHost = true ∧ Free s c pgMBOX ∧ (s.ch c).inFull
      ↑(pairOf snd) = false) ∧
    (∃ (s : State) (snd : Sender) (c : Ch), s.reaches snd c ∧ snd.isHost = true ∧ Free s c pgMBOX ∧ (s.ch c).inFull
      ↑(pairOf snd) = true) ∧
    (∃ (s : State) (snd : Sender) (c : Ch), s.reaches snd c ∧ snd.isHost = true ∧ Free s c pgMBOX ∧ (s.ch c).inFull
      ↑(pairOf snd) = true) ∧
    (∃ (s : State) (c : Ch) (j : Fin 9), (s.ch c).boot = Boot.run ∧ Free s c pgMBOX ∧ (s.ch c).inFull j.val = true) ∧
    (∃ (s : State) (c : Ch) (v : Word), (s.ch c).boot = Boot.run ∧ Free s c pgMBOX ∧ (∀ (j : Fin 9), v.bit ↑j = true →
      (s.ch c).inFull ↑j = false)) ∧
    (∃ (i : Instr) (snd : Sender) (c : Ch) (off : Nat) (s : State), mailForm i = some (snd, c, off) ∧ snd = Sender.rook
      ∧ (s.ch c).boot ≠ Boot.run) ∧
    (∃ (i : Instr) (snd : Sender) (c : Ch) (off : Nat) (s : State), mailForm i = some (snd, c, off) ∧ snd ≠ Sender.rook
      ∧ s.arrives (senderFn snd c) = false) ∧
    (∃ (i : Instr) (snd : Sender) (c : Ch) (off : Nat) (s : State), mailForm i = some (snd, c, off) ∧ snd ≠ Sender.rook
      ∧ s.arrives (senderFn snd c) = true ∧ (s.ch c).boot ≠ Boot.run) ∧
    (∃ (i : Instr) (snd : Sender) (c : Ch) (off : Nat) (s : State), mailForm i = some (snd, c, off) ∧ s.reaches snd c ∧
      (s.ch c).busy pgMBOX = true) ∧
    (∃ (i : Instr) (snd : Sender) (c : Ch) (off : Nat) (s : State), mailForm i = some (snd, c, off) ∧ s.reaches snd c ∧
      (s.ch c).busy pgMBOX = true) ∧
    (∃ (i : Instr) (snd : Sender) (c : Ch) (off : Nat) (s : State), mailForm i = some (snd, c, off) ∧ s.reaches snd c ∧
      (s.ch c).busy pgMBOX = true) ∧
    (∃ (s : State) (c : Ch), (s.ch c).boot = Boot.run ∧ Free s c pgMBOX) :=
  ⟨⟨d1, .vf 2, .ch0, by decide +kernel⟩,
   ⟨d1, .pf4, .ch0, by decide +kernel⟩,
   ⟨bad (mbIN 3 0) d1, .vf 2, .ch0, by decide +kernel⟩,
   ⟨d1, .vf 2, .ch0, by decide +kernel⟩,
   ⟨bad (mbIN 3 0) d1, .vf 2, .ch0, by decide +kernel⟩,
   ⟨d1.k0 (regs [(5, 0x40, 8)]), .vf 2, .ch0, by decide +kernel⟩,
   ⟨d1.k0 (regs [(5, 0x40, 8)]), .vf 2, .ch0, by decide +kernel⟩,
   ⟨d1.k0 (regs [(5, 0x40, 9)]), .ch0, 3, by decide +kernel⟩,
   ⟨d1.k0 (regs [(5, 0x40, 9)]), .ch0, 4, by decide +kernel⟩,
   ⟨.tokenClaim .rook .ch2 1, .rook, .ch2, tokenOff .rook 1, d1, by decide +kernel⟩,
   ⟨.send .pf .ch0, .pf, .ch0, 0x884, State.reset, by decide +kernel⟩,
   ⟨.send (.vf 2) .ch2, .vf 2, .ch2, 0x884, d1, by decide +kernel⟩,
   ⟨.doorbellMaskWrite .pf .ch0 4, .pf, .ch0, 0x890, bz d1, by decide +kernel⟩,
   ⟨.commonWrite .rook .ch0 1 2 4, .rook, .ch0, commonOff .rook 1 2, bz d1, by decide +kernel⟩,
   ⟨.tokenClaim .rook .ch0 1, .rook, .ch0, tokenOff .rook 1, bz d1, by decide +kernel⟩,
   ⟨d1, .ch0, by decide +kernel⟩⟩

theorem witness_OutboundMail :
    (∃ (s : State) (c : Ch) (j : Fin 9), (s.ch c).boot = Boot.run ∧ Free s c pgMBOX ∧ (s.ch c).outFull j.val = false ∧
      (s.ch c).ecc = Ecc.reset) ∧
    (∃ (s : State) (c : Ch) (j : Fin 9), (s.ch c).boot = Boot.run ∧ Free s c pgMBOX ∧ (s.ch c).outFull j.val = false) ∧
    (∃ (s : State) (c : Ch) (j : Fin 9), (s.ch c).boot = Boot.run ∧ Free s c pgMBOX ∧ (s.ch c).outFull j.val = true) ∧
    (∃ (s : State) (c : Ch) (j : Fin 9), (s.ch c).boot = Boot.run ∧ Free s c pgMBOX ∧ (s.ch c).outFull j.val = false ∧
      (s.node c).pairExists j = true) ∧
    (∃ (s : State) (c : Ch) (j : Fin 9), (s.ch c).boot = Boot.run ∧ Free s c pgMBOX ∧ (s.ch c).outFull j.val = false ∧
      (s.node c).pairExists j = true) ∧
    (∃ (s : State) (c : Ch) (j : Fin 9), (s.ch c).boot = Boot.run ∧ Free s c pgMBOX ∧ (s.ch c).outFull j.val = false ∧
      (s.node c).pairExists j = true) ∧
    (∃ (s : State) (c : Ch) (j : Fin 9), (s.ch c).boot = Boot.run ∧ Free s c pgMBOX ∧ ((s.ch c).outFull j.val = true ∨
      (s.node c).pairExists j = false)) ∧
    (∃ (s : State) (c : Ch) (j : Fin 9), (s.ch c).boot = Boot.run ∧ Free s c pgMBOX ∧ ((s.ch c).outFull j.val = true ∨
      (s.node c).pairExists j = false)) ∧
    (∃ (s : State) (snd : Sender) (c : Ch), s.reaches snd c ∧ snd.isHost = true ∧ Free s c pgMBOX ∧ (s.ch c).outFull
      ↑(pairOf snd) = true) ∧
    (∃ (s : State) (snd : Sender) (c : Ch), s.reaches snd c ∧ snd.isHost = true ∧ Free s c pgMBOX ∧ (s.ch c).outFull
      ↑(pairOf snd) = false) ∧
    (∃ (i : Instr) (snd : Sender) (c : Ch) (off : Nat) (s : State), rookForm i = some (snd, c, off) ∧ snd = Sender.rook
      ∧ (s.ch c).boot ≠ Boot.run) ∧
    (∃ (i : Instr) (snd : Sender) (c : Ch) (off : Nat) (s : State), rookForm i = some (snd, c, off) ∧ snd ≠ Sender.rook
      ∧ s.arrives (senderFn snd c) = false) ∧
    (∃ (i : Instr) (snd : Sender) (c : Ch) (off : Nat) (s : State), rookForm i = some (snd, c, off) ∧ snd ≠ Sender.rook
      ∧ s.arrives (senderFn snd c) = true ∧ (s.ch c).boot ≠ Boot.run) ∧
    (∃ (i : Instr) (snd : Sender) (c : Ch) (off : Nat) (s : State), rookForm i = some (snd, c, off) ∧ s.reaches snd c ∧
      snd = Sender.pf4) ∧
    (∃ (i : Instr) (snd : Sender) (c : Ch) (off : Nat) (s : State), rookForm i = some (snd, c, off) ∧ s.reaches snd c ∧
      snd ≠ Sender.pf4 ∧ ((s.ch c).busy pgMBOX = true ∨ snd ≠ Sender.rook)) ∧
    (∃ (i : Instr) (snd : Sender) (c : Ch) (off : Nat) (s : State), rookForm i = some (snd, c, off) ∧ s.reaches snd c ∧
      snd ≠ Sender.pf4 ∧ ((s.ch c).busy pgMBOX = true ∨ snd ≠ Sender.rook)) :=
  ⟨⟨d1, .ch0, 3, by decide +kernel⟩,
   ⟨bad (mbOUT 3 0) d1, .ch0, 3, by decide +kernel⟩,
   ⟨d1.k0 (regs [(5, 0x48, 8)]), .ch0, 3, by decide +kernel⟩,
   ⟨d1, .ch0, 3, by decide +kernel⟩,
   ⟨d1, .ch0, 8, by decide +kernel⟩,
   ⟨bad (mbOUT 3 0) d1, .ch0, 3, by decide +kernel⟩,
   ⟨d1.k0 (regs [(5, 0x48, 8)]), .ch0, 3, by decide +kernel⟩,
   ⟨{ d1 with dev := { d1.dev with host := { hPcie with numVfs := Vector.replicate 4 1 } } }, .ch0, 3, by
     decide +kernel⟩,
   ⟨d1.k0 (regs [(5, 0x48, 8)]), .vf 2, .ch0, by decide +kernel⟩,
   ⟨d1.k0 (regs [(5, 0x48, 8)]), .vf 3, .ch0, by decide +kernel⟩,
   ⟨.mbOutsend .rook .ch2 1, .rook, .ch2, 0x4C, d1, by decide +kernel⟩,
   ⟨.mbOutsend .pf .ch0 1, .pf, .ch0, 0x4C, State.reset, by decide +kernel⟩,
   ⟨.mbOutsend .pf .ch2 1, .pf, .ch2, 0x4C, d1, by decide +kernel⟩,
   ⟨.mbTokforce .pf4 .ch0 1, .pf4, .ch0, 0x6C, d1, by decide +kernel⟩,
   ⟨.mbOutWrite (.vf 2) .ch0 3 5 1, .vf 2, .ch0, mbOUT 3 5, d1, by decide +kernel⟩,
   ⟨.mbInack .rook .ch0 1, .rook, .ch0, 0x44, bz d1, by decide +kernel⟩⟩

theorem witness_TokensAndCommonMail :
    (∃ (s : State) (c : Ch), (s.ch c).boot = Boot.run ∧ Free s c pgMBOX) ∧
    (∃ (s : State) (snd : Sender) (c : Ch), s.reaches snd c ∧ snd.isHost = true ∧ Free s c pgMBOX) ∧
    (∃ (s : State) (c : Ch), (s.ch c).boot = Boot.run ∧ Free s c pgMBOX) ∧
    (∃ (s : State) (snd : Sender) (c : Ch) (k : Fin 4) (v : Word), s.reaches snd c ∧ Free s c pgMBOX ∧ (s.ch c).token
      k.val = snd.id + 1 ∧ v.field 0 4 = snd.id + 1) ∧
    (∃ (s : State) (snd : Sender) (c : Ch) (k : Fin 4) (v : Word), s.reaches snd c ∧ Free s c pgMBOX ∧ (s.ch c).token
      k.val = snd.id + 1 ∧ v.field 0 4 = snd.id + 1) ∧
    (∃ (s : State) (snd : Sender) (c : Ch) (k : Fin 4) (v : Word), s.reaches snd c ∧ Free s c pgMBOX ∧ ((s.ch c).token
      k.val ≠ snd.id + 1 ∨ v.field 0 4 ≠ snd.id + 1)) ∧
    (∃ (s : State) (snd : Sender) (c : Ch) (k : Fin 4), s.reaches snd c ∧ Free s c pgMBOX ∧ (s.ch c).token k.val =
      snd.id + 1) ∧
    (∃ (s : State) (snd : Sender) (c : Ch) (k : Fin 4), s.reaches snd c ∧ Free s c pgMBOX ∧ (s.ch c).token k.val =
      snd.id + 1) ∧
    (∃ (s : State) (snd : Sender) (c : Ch) (k : Fin 4), s.reaches snd c ∧ Free s c pgMBOX ∧ (s.ch c).token k.val ≠
      snd.id + 1) ∧
    (∃ (s : State) (c : Ch) (k : Fin 4), (s.ch c).boot = Boot.run ∧ Free s c pgMBOX ∧ (s.ch c).token k.val ≠ 0) ∧
    (∃ (s : State) (c : Ch) (v : Word), (s.ch c).boot = Boot.run ∧ Free s c pgMBOX ∧ (∀ (k : Fin 4), v.bit ↑k = true →
      (s.ch c).token ↑k = 0)) :=
  ⟨⟨d1, .ch0, by decide +kernel⟩,
   ⟨d1, .vf 2, .ch0, by decide +kernel⟩,
   ⟨dt, .ch0, by decide +kernel⟩,
   ⟨dt, .vf 1, .ch0, 0, 4, by decide +kernel⟩,
   ⟨dt, .rook, .ch0, 2, 1, by decide +kernel⟩,
   ⟨dt, .rook, .ch0, 1, 1, by decide +kernel⟩,
   ⟨dt, .rook, .ch0, 2, by decide +kernel⟩,
   ⟨dt, .rook, .ch0, 2, by decide +kernel⟩,
   ⟨dt, .pf, .ch0, 2, by decide +kernel⟩,
   ⟨dt, .ch0, 2, by decide +kernel⟩,
   ⟨dt, .ch0, 2, by decide +kernel⟩⟩

theorem witness_Doorbells :
    (∃ (s : State) (snd : Sender) (c : Ch), s.reaches snd c ∧ snd.isHost = true ∧ Free s c pgMBOX) ∧
    (∃ (s : State) (c : Ch), (s.ch c).boot = Boot.run ∧ Free s c pgMBOX) ∧
    (∃ (s : State) (c : Ch), (s.ch c).boot = Boot.run ∧ Free s c pgMBOX) ∧
    (∃ (s : State) (snd : Sender) (c : Ch), s.reaches snd c ∧ snd.isHost = true ∧ Free s c pgMBOX) ∧
    (∃ (s : State) (c : Ch), (s.ch c).boot = Boot.run ∧ Free s c pgMBOX) ∧
    (∃ (s : State) (snd : Sender) (c : Ch), s.reaches snd c ∧ snd.isHost = true ∧ Free s c pgMBOX) :=
  ⟨⟨dt, .pf, .ch0, by decide +kernel⟩,
   ⟨dt.k0 fun k => { k with dbMask := Vector.replicate 9 0xFF }, .ch0, by decide +kernel⟩,
   ⟨dt, .ch0, by decide +kernel⟩,
   ⟨dt, .pf4, .ch0, by decide +kernel⟩,
   ⟨dt.k0 (regs [(5, 0x50, 4)]), .ch0, by decide +kernel⟩,
   ⟨dt, .pf4, .ch0, by decide +kernel⟩⟩

theorem witness_DmaRingRegisters :
    (∃ (s : State) (snd : Sender) (c : Ch) (f r : Fin 8), s.reaches snd c ∧ Rings snd f ∧ Free s c pgDMA ∧ (s.ch
      c).ringEn f.val r.val = false) ∧
    (∃ (s : State) (snd : Sender) (c : Ch) (f r : Fin 8), s.reaches snd c ∧ Rings snd f ∧ Free s c pgDMA ∧ (s.ch
      c).ringEn f.val r.val = false) ∧
    (∃ (s : State) (snd : Sender) (c : Ch) (f r : Fin 8), s.reaches snd c ∧ Rings snd f ∧ Free s c pgDMA ∧ (s.ch
      c).ringEn f.val r.val = true) ∧
    (∃ (s : State) (snd : Sender) (c : Ch) (f : Fin 8), s.reaches snd c ∧ Rings snd f ∧ Free s c pgDMA) ∧
    (∃ (s : State) (snd : Sender) (c : Ch) (f : Fin 8), s.reaches snd c ∧ Rings snd f ∧ Free s c pgDMA) ∧
    (∃ (s : State) (snd : Sender) (c : Ch) (f : Fin 8), s.reaches snd c ∧ Rings snd f ∧ Free s c pgDMA) ∧
    (∃ (s : State) (snd : Sender) (c : Ch) (f r : Fin 8) (v : Word), s.reaches snd c ∧ Rings snd f ∧ Free s c pgDMA ∧
      v.field 0 12 < (s.ch c).ringSize f.val r.val ∧ ((s.ch c).ringProd f.val r.val + (s.ch c).ringSize f.val r.val -
      (s.ch c).ringCons f.val r.val) % (s.ch c).ringSize f.val r.val ≤ (v.field 0 12 + (s.ch c).ringSize f.val r.val -
      (s.ch c).ringCons f.val r.val) % (s.ch c).ringSize f.val r.val) ∧
    (∃ (s : State) (snd : Sender) (c : Ch) (f r : Fin 8) (v : Word), s.reaches snd c ∧ Rings snd f ∧ Free s c pgDMA ∧
      ((s.ch c).ringSize f.val r.val ≤ v.field 0 12 ∨ (v.field 0 12 + (s.ch c).ringSize f.val r.val - (s.ch c).ringCons
      f.val r.val) % (s.ch c).ringSize f.val r.val < ((s.ch c).ringProd f.val r.val + (s.ch c).ringSize f.val r.val -
      (s.ch c).ringCons f.val r.val) % (s.ch c).ringSize f.val r.val)) ∧
    (∃ (s : State) (snd : Sender) (c : Ch) (f : Fin 8), s.reaches snd c ∧ Rings snd f ∧ Free s c pgDMA) ∧
    (∃ (s : State) (c : Ch), (s.ch c).boot = Boot.run ∧ Free s c pgDMA) ∧
    (∃ (s : State) (snd : Sender) (c : Ch) (f : Fin 8), s.reaches snd c ∧ snd ≠ Sender.rook ∧ (Rings snd f ∨ snd =
      Sender.pf4 ∧ (s.ch c).granted = true) ∧ Free s c pgDMA) ∧
    (∃ (s : State) (v : Fin 7) (c : Ch) (f : Fin 8), s.reaches (Sender.vf v) c ∧ f.val ≠ v.val + 1) ∧
    (∃ (i : Instr) (snd : Sender) (c : Ch) (f : Fin 8) (off : Nat) (s : State), dmaForm i = some (snd, c, f, off) ∧ snd
      = Sender.rook ∧ (s.ch c).boot ≠ Boot.run) ∧
    (∃ (i : Instr) (snd : Sender) (c : Ch) (f : Fin 8) (off : Nat) (s : State), dmaForm i = some (snd, c, f, off) ∧ snd
      ≠ Sender.rook ∧ s.arrives (senderFn snd c) = false) ∧
    (∃ (i : Instr) (snd : Sender) (c : Ch) (f : Fin 8) (off : Nat) (s : State), dmaForm i = some (snd, c, f, off) ∧ snd
      ≠ Sender.rook ∧ s.arrives (senderFn snd c) = true ∧ (s.ch c).boot ≠ Boot.run) ∧
    (∃ (i : Instr) (snd : Sender) (c : Ch) (f : Fin 8) (off : Nat) (s : State), dmaForm i = some (snd, c, f, off) ∧
      s.reaches snd c ∧ snd = Sender.pf4) ∧
    (∃ (i : Instr) (snd : Sender) (c : Ch) (f : Fin 8) (off : Nat) (s : State), dmaForm i = some (snd, c, f, off) ∧
      s.reaches snd c ∧ snd ≠ Sender.pf4 ∧ (¬Rings snd f)) ∧
    (∃ (i : Instr) (snd : Sender) (c : Ch) (f : Fin 8) (off : Nat) (s : State), dmaForm i = some (snd, c, f, off) ∧
      s.reaches snd c ∧ Rings snd f ∧ (s.ch c).busy pgDMA = true) :=
  ⟨⟨dt, .pf, .ch0, 2, 3, by decide +kernel⟩,
   ⟨dt, .vf 1, .ch0, 2, 3, by decide +kernel⟩,
   ⟨de, .pf, .ch0, 2, 3, by decide +kernel⟩,
   ⟨de, .pf, .ch0, 2, by decide +kernel⟩,
   ⟨de.k0 fun k => { k with dma := [(19, { dmaBlank with items := [DmaItem.blank 1] })] }, .rook, .ch0, 2, by
     decide +kernel⟩,
   ⟨dt, .pf, .ch0, 2, by decide +kernel⟩,
   ⟨de, .pf, .ch0, 2, 3, 12, by decide +kernel⟩,
   ⟨de, .pf, .ch0, 2, 3, 120, by decide +kernel⟩,
   ⟨de, .pf, .ch0, 2, by decide +kernel⟩,
   ⟨de, .ch0, by decide +kernel⟩,
   ⟨de, .vf 1, .ch0, 2, by decide +kernel⟩,
   ⟨de, 2, .ch0, 2, by decide +kernel⟩,
   ⟨.dmaStoppedClear .rook .ch2 2 3, .rook, .ch2, 2, dmaB 2 3 + 0x1C, de, by decide +kernel⟩,
   ⟨.dmaStoppedClear .pf .ch0 2 3, .pf, .ch0, 2, dmaB 2 3 + 0x1C, State.reset, by decide +kernel⟩,
   ⟨.dmaStoppedClear (.vf 1) .ch2 2 3, .vf 1, .ch2, 2, dmaB 2 3 + 0x1C, de, by decide +kernel⟩,
   ⟨.dmaStoppedClear .pf4 .ch0 2 3, .pf4, .ch0, 2, dmaB 2 3 + 0x1C, de, by decide +kernel⟩,
   ⟨.dmaRingEnable (.vf 2) .ch0 2 3 1, .vf 2, .ch0, 2, dmaB 2 3 + 0x10, de, by decide +kernel⟩,
   ⟨.dmaRingprodWrite .pf .ch0 2 3 1, .pf, .ch0, 2, dmaB 2 3 + 0x14, bd de, by decide +kernel⟩⟩

theorem witness_DmaItems :
    (∃ (s : State) (c : Ch) (f r : Fin 8) (d : Option (List Byte)), (s.ch c).ringLive f.val r.val = true ∧ (s.node
      c).canIssue f.val = true ∧ ((s.ch c).ring f.val r.val).fetch ≠ (s.ch c).ringProd f.val r.val ∧ (∀ (x : List Byte),
      d = some x → (dmaParse (s.ch c) ((s.ch c).ringKind f.val r.val) ((s.ch c).ring f.val r.val).fetch x).snd = false)) ∧
    (∃ (s : State) (c : Ch) (f r : Fin 8) (d : Option (List Byte)), (s.ch c).ringLive f.val r.val = true ∧ (s.node
      c).canIssue f.val = true ∧ ((s.ch c).ring f.val r.val).fetch ≠ (s.ch c).ringProd f.val r.val ∧ (∀ (x : List Byte),
      d = some x → (dmaParse (s.ch c) ((s.ch c).ringKind f.val r.val) ((s.ch c).ring f.val r.val).fetch x).snd = false)) ∧
    (∃ (s : State) (c : Ch) (f r : Fin 8) (d : List Byte), (s.ch c).ringLive f.val r.val = true ∧ (s.node c).canIssue
      f.val = true ∧ ((s.ch c).ring f.val r.val).fetch ≠ (s.ch c).ringProd f.val r.val ∧ (s.ch c).ringKind f.val r.val =
      2 ∧ (dmaParse (s.ch c) 2 ((s.ch c).ring f.val r.val).fetch d).snd = true ∧ ((s.ch c).ring f.val r.val).items = []
      ∧ ((s.ch c).ring f.val r.val).wait = []) ∧
    (∃ (s : State) (c : Ch) (f r : Fin 8) (d : List Byte), (s.ch c).ringLive f.val r.val = true ∧ (s.node c).canIssue
      f.val = true ∧ ((s.ch c).ring f.val r.val).fetch ≠ (s.ch c).ringProd f.val r.val ∧ (s.ch c).ringKind f.val r.val =
      0 ∧ (dmaParse (s.ch c) 0 ((s.ch c).ring f.val r.val).fetch d).snd = true ∧ ((s.ch c).ring f.val r.val).items = []
      ∧ (s.ch c).settled (dmaMaster f.val) (dmaParse (s.ch c) 0 ((s.ch c).ring f.val r.val).fetch d).fst.saddr (dmaParse
      (s.ch c) 0 ((s.ch c).ring f.val r.val).fetch d).fst.len true ≠ Grant.refused ∧ ((s.ch c).ring f.val r.val).wait =
      []) ∧
    (∃ (s : State) (c : Ch) (f r : Fin 8) (it : DmaItem) (bs : List Byte), (s.ch c).live pgDMA = true ∧ (s.ch
      c).readingItem f.val r.val = some it ∧ it.asked = it.len ∧ bs.length = it.len - it.done ∧ it.done < it.len ∧ (s.ch
      c).ecc = Ecc.reset ∧ (s.ch c).grant (dmaMaster f.val) (it.saddr + it.done) bs.length true = Grant.ok) ∧
    (∃ (s : State) (c : Ch) (f r : Fin 8) (it : DmaItem), (s.ch c).live pgDMA = true ∧ (s.ch c).readingItem f.val r.val
      = some it) ∧
    (∃ (s : State) (c : Ch) (f r : Fin 8) (it : DmaItem), (s.ch c).live pgDMA = true ∧ (s.ch c).readingItem f.val r.val
      = some it ∧ it.done < it.asked) ∧
    (∃ (s : State) (c : Ch) (f r : Fin 8) (it : DmaItem), (s.ch c).live pgDMA = true ∧ (s.ch c).readingItem f.val r.val
      = some it ∧ it.done < it.asked) ∧
    (∃ (s : State) (c : Ch) (f r : Fin 8), (s.ch c).ringLive f.val r.val = true ∧ (s.node c).canIssue f.val = true ∧
      ((s.ch c).ring f.val r.val).fetch ≠ (s.ch c).ringProd f.val r.val) ∧
    (∃ (s : State) (c : Ch) (f r : Fin 8), (s.ch c).ringLive f.val r.val = true ∧ (s.node c).canIssue f.val = true ∧
      ((s.ch c).ring f.val r.val).fetch ≠ (s.ch c).ringProd f.val r.val) ∧
    (∃ (s : State) (c : Ch), (s.ch c).boot = Boot.run) ∧
    (∃ (s : State) (c : Ch) (f r : Fin 8) (it : DmaItem) (rest : List DmaItem) (st : Byte), (s.ch c).live pgDMA = true ∧
      ((s.ch c).ring f.val r.val).items = it :: rest ∧ it.outcome = some st) ∧
    (∃ (s : State) (c : Ch), (s.ch c).boot ≠ Boot.run) ∧
    (∃ (s : State) (c : Ch), (s.ch c).live pgDMA = false) :=
  ⟨⟨dj, .ch0, 2, 3, none, by decide +kernel⟩,
   ⟨dj, .ch0, 2, 3, some [1], by decide +kernel⟩,
   ⟨dj2, .ch0, 2, 3, desc, by decide +kernel⟩,
   ⟨dj.k0 (regs [(3, 0x40, 0x300)]), .ch0, 2, 3, desc0, by decide +kernel⟩,
   ⟨dj3, .ch0, 2, 3, rit, [1, 2, 3, 4], by decide +kernel⟩,
   ⟨dj3, .ch0, 2, 3, rit, by decide +kernel⟩,
   ⟨dj3, .ch0, 2, 3, rit, by decide +kernel⟩,
   ⟨dj3.k0 (regs [(0x60, 0x40, 3)]), .ch0, 2, 3, rit, by decide +kernel⟩,
   ⟨dj, .ch0, 2, 3, by decide +kernel⟩,
   ⟨dj.k0 (regs [(0x60, 0x40, 3)]), .ch0, 2, 3, by decide +kernel⟩,
   ⟨dj3, .ch0, by decide +kernel⟩,
   ⟨dj.k0 fun k => { k with dma := [(19, { dmaBlank with items := [rit2], fetch := 1 })] }, .ch0, 2, 3, rit2, [], 0,
     by decide +kernel⟩,
   ⟨State.reset, .ch0, by decide +kernel⟩,
   ⟨d1, .ch0, by decide +kernel⟩⟩

end HostSide

/-! ## Time and whistles -/

namespace TimeSide

def w1 := demo.k0 fun k => regs [(1, 0x40, 1), (1, 0x7c, 0x01000001), (0x31, 0x1c, 4), (0x28, 0x1c, 2)] { k with
    wh := { k.wh with next := 77, count := 5 }, led := { k.led with used := 9, debt := 4, budget := 3 },
    tb := { k.tb with acc := 100*16777216 } }

def w0 := w1.k0 (regs [(1, 0x40, 0)])

def sv := w1.k0 fun k => regs [(0x70, 0x40, 1), (0x70, 0x54, 1000000), (0x70, 0x5c, 500), (0x70, 0x70, 2)]
    { k with tb := { k.tb with lock := .acquiring, good := 3 } }

def late := sv.k0 fun k => { k with
    tb := { k.tb with lock := .locked, good := 1, missed := 2, acc := 0x200000000000000 } }

def pps := w1.k0 fun k => regs [(0x70, 0x70, 1)] { k with tb := { k.tb with acc := 3500000000 * 16777216 } }

def ppsHigh := pps.k0 fun k => { k with tb := { k.tb with ppsOut := true } }

theorem witness_WhistleFires :
    (∃ (s : State) (c : Ch), (s.ch c).whistleDue = true) ∧
    (∃ (s : State) (snd : Sender) (c : Ch), s.reaches snd c ∧ Own snd ∧ Free s c pgWHISTLE ∧ (s.ch c).whistleEn = false) ∧
    (∃ (s : State) (snd : Sender) (c : Ch), s.reaches snd c ∧ Own snd ∧ Free s c pgWHISTLE ∧ (s.ch c).whistleEn = false) ∧
    (∃ (s : State) (c : Ch), (s.ch c).whistleDue = false) ∧
    (∃ (s : State) (snd : Sender) (c : Ch), s.reaches snd c ∧ Own snd ∧ Free s c pgWHISTLE ∧ (s.ch c).whistleEn = true) :=
  ⟨⟨w1, .ch0, by decide +kernel⟩,
   ⟨w0, .rook, .ch0, by decide +kernel⟩,
   ⟨w0, .rook, .ch0, by decide +kernel⟩,
   ⟨w0, .ch0, by decide +kernel⟩,
   ⟨w1, .rook, .ch0, by decide +kernel⟩⟩

theorem witness_WhistleControls :
    (∃ (s : State) (snd : Sender) (c : Ch) (v : Word), s.reaches snd c ∧ Own snd ∧ Free s c pgWHISTLE ∧ v.bit 2 = false
      ∧ v.bit 3 = false ∧ v.bit 4 = false ∧ ((s.ch c).whistleEn = true ∨ v.bit 0 = false)) ∧
    (∃ (s : State) (snd : Sender) (c : Ch) (v : Word), s.reaches snd c ∧ Own snd ∧ Free s c pgWHISTLE ∧ v.bit 2 = false
      ∧ v.bit 3 = false ∧ v.bit 4 = false ∧ (s.ch c).whistleEn = false ∧ v.bit 0 = true) ∧
    (∃ (period : Nat), 0 < period) ∧
    (∃ (period : Nat), 0 < period) ∧
    (∃ (period : Nat), 0 < period) ∧
    (∃ (s : State) (snd : Sender) (c : Ch) (v : Word), s.reaches snd c ∧ Own snd ∧ Free s c pgWHISTLE ∧ v.bit 2 = false
      ∧ v.bit 4 = false ∧ ((s.ch c).whistleEn = true ∨ v.bit 0 = false)) ∧
    (∃ (s : State) (snd : Sender) (c : Ch) (v : Word), s.reaches snd c ∧ Own snd ∧ Free s c pgWHISTLE ∧ v.bit 2 = false
      ∧ v.bit 4 = false ∧ (s.ch c).whistleEn = false ∧ v.bit 0 = true) ∧
    (∃ (s : State) (snd : Sender) (c : Ch) (v : Word), s.reaches snd c ∧ Own snd ∧ Free s c pgWHISTLE ∧ v.bit 2 = false) ∧
    (∃ (s : State) (snd : Sender) (c : Ch) (v : Word), s.reaches snd c ∧ Own snd ∧ Free s c pgWHISTLE ∧ v.bit 2 = false) ∧
    (∃ (s : State) (snd : Sender) (c : Ch) (page : Nat), s.reaches snd c ∧ Own snd ∧ page ∈ shadowedPages) ∧
    (∃ (s : State) (snd : Sender) (c : Ch) (page : Nat), s.reaches snd c ∧ Own snd ∧ page ∈ chanPages ∧ (¬page ∈
      shadowedPages)) ∧
    (∃ (s : State) (snd : Sender) (c : Ch), s.reaches snd c ∧ Own snd ∧ Free s c pgWHISTLE) :=
  ⟨⟨w1, .rook, .ch0, 0x2, by decide +kernel⟩,
   ⟨w0, .rook, .ch0, 0x1, by decide +kernel⟩,
   ⟨1000, by decide +kernel⟩,
   ⟨1000, by decide +kernel⟩,
   ⟨1000, by decide +kernel⟩,
   ⟨w1, .rook, .ch0, 0x2, by decide +kernel⟩,
   ⟨w0, .rook, .ch0, 0x1, by decide +kernel⟩,
   ⟨w1, .rook, .ch0, 0x3, by decide +kernel⟩,
   ⟨w0, .rook, .ch0, 0xB, by decide +kernel⟩,
   ⟨w1, .rook, .ch0, 0x31, by decide +kernel⟩,
   ⟨w1, .rook, .ch0, 2, by decide +kernel⟩,
   ⟨w1, .rook, .ch0, by decide +kernel⟩⟩

theorem witness_TimeBaseWrites :
    (∃ (s : State) (snd : Sender) (c : Ch), s.reaches snd c ∧ Own snd ∧ Free s c pgTIME) ∧
    (∃ (s : State) (snd : Sender) (c : Ch), s.reaches snd c ∧ Own snd ∧ Free s c pgTIME) ∧
    (∃ (s : State) (snd : Sender) (c : Ch), s.reaches snd c ∧ Own snd ∧ Free s c pgTIME) ∧
    (∃ (s : State) (snd : Sender) (c : Ch), s.reaches snd c ∧ Own snd ∧ Free s c pgTIME) ∧
    (∃ (s : State) (snd : Sender) (c : Ch), s.reaches snd c ∧ Own snd ∧ Free s c pgTIME) :=
  ⟨⟨w1, .rook, .ch0, by decide +kernel⟩,
   ⟨w0, .rook, .ch0, by decide +kernel⟩,
   ⟨w1, .rook, .ch0, by decide +kernel⟩,
   ⟨w0, .rook, .ch0, by decide +kernel⟩,
   ⟨w1, .rook, .ch0, by decide +kernel⟩⟩

theorem witness_LatchedReads :
    (∃ (s : State) (c : Ch), (s.ch c).boot = Boot.run ∧ Free s c pgTIME ∧ Free s c pgWHISTLE) ∧
    (∃ (s : State) (c : Ch), (s.ch c).boot = Boot.run ∧ Free s c pgTIME ∧ Free s c pgWHISTLE) ∧
    (∃ (s : State) (c : Ch), (s.ch c).boot = Boot.run ∧ Free s c pgTIME ∧ Free s c pgWHISTLE) ∧
    (∃ (s : State) (c : Ch), (s.ch c).boot = Boot.run ∧ Free s c pgTIME ∧ Free s c pgWHISTLE) ∧
    (∃ (s : State) (c : Ch) (u : Unit2), (s.ch c).boot = Boot.run ∧ Free s c (pgCan u)) ∧
    (∃ (s : State) (snd : Sender) (c : Ch), s.reaches snd c ∧ (snd = Sender.pf ∨ snd = Sender.pf4 ∧ (s.ch c).granted =
      true) ∧ Free s c pgTIME) ∧
    (∃ (s : State) (snd : Sender) (c : Ch), s.reaches snd c ∧ (snd = Sender.pf ∨ snd = Sender.pf4 ∧ (s.ch c).granted =
      true) ∧ Free s c pgTIME) ∧
    (∃ (s : State) (snd : Sender) (c : Ch), s.reaches snd c ∧ (snd = Sender.pf ∨ snd = Sender.pf4 ∧ (s.ch c).granted =
      true) ∧ Free s c pgWHISTLE) ∧
    (∃ (s : State) (snd : Sender) (c : Ch), s.reaches snd c ∧ (snd = Sender.pf ∨ snd = Sender.pf4 ∧ (s.ch c).granted =
      true) ∧ Free s c pgWHISTLE) ∧
    (∃ (s : State) (snd : Sender) (c : Ch) (u : Unit2), s.reaches snd c ∧ (snd = Sender.pf ∨ snd = Sender.pf4 ∧ (s.ch
      c).granted = true) ∧ Free s c (pgCan u)) :=
  ⟨⟨w1, .ch0, by decide +kernel⟩,
   ⟨w1, .ch0, by decide +kernel⟩,
   ⟨w1, .ch0, by decide +kernel⟩,
   ⟨w1, .ch0, by decide +kernel⟩,
   ⟨w1, .ch0, .u1, by decide +kernel⟩,
   ⟨w1, .pf, .ch0, by decide +kernel⟩,
   ⟨w1, .pf, .ch0, by decide +kernel⟩,
   ⟨w1, .pf, .ch0, by decide +kernel⟩,
   ⟨w1, .pf, .ch0, by decide +kernel⟩,
   ⟨w1, .pf, .ch0, .u1, by decide +kernel⟩⟩

theorem witness_TimeServoAndPps :
    (∃ (s : State) (snd : Sender) (c : Ch) (v : Word), s.reaches snd c ∧ Own snd ∧ Free s c pgTIME ∧ (v.field 0 3 = 0 ∨
      v.field 0 3 = 5)) ∧
    (∃ (s : State) (snd : Sender) (c : Ch) (v : Word), s.reaches snd c ∧ Own snd ∧ Free s c pgTIME ∧ (v.field 0 3 = 0 ∨
      v.field 0 3 = 5)) ∧
    (∃ (s : State) (snd : Sender) (c : Ch) (v : Word), s.reaches snd c ∧ Own snd ∧ Free s c pgTIME ∧ 1 ≤ v.field 0 3 ∧
      v.field 0 3 ≤ 4 ∧ v.field 0 3 ≠ (s.ch c).timeSrc) ∧
    (∃ (s : State) (snd : Sender) (c : Ch) (v : Word), s.reaches snd c ∧ Own snd ∧ Free s c pgTIME ∧ 1 ≤ v.field 0 3 ∧
      v.field 0 3 ≤ 4 ∧ v.field 0 3 = (s.ch c).timeSrc) ∧
    (∃ (s : State) (snd : Sender) (c : Ch) (v : Word), s.reaches snd c ∧ Own snd ∧ Free s c pgTIME ∧ 5 < v.field 0 3) ∧
    (∃ (s : State) (c : Ch) (src : Nat) (stamp : DWord), (s.ch c).clocked = true ∧ (s.ch c).servoOn = true ∧ (s.ch
      c).timeSrc = src ∧ (s.ch c).refSource src = true ∧ ((s.ch c).tb.lock = Lock.locked ∨ (s.ch c).tb.lock =
      Lock.acquiring ∧ (servoError (s.ch c).lockOfs (s.ch c).lockInt (BitVec.toNat stamp)).natAbs ≤ 1000)) ∧
    (∃ (s : State) (c : Ch) (src : Nat) (stamp : DWord), (s.ch c).clocked = true ∧ (s.ch c).servoOn = true ∧ (s.ch
      c).timeSrc = src ∧ (s.ch c).refSource src = true ∧ ((s.ch c).tb.lock = Lock.locked ∨ (s.ch c).tb.lock =
      Lock.acquiring ∧ (servoError (s.ch c).lockOfs (s.ch c).lockInt (BitVec.toNat stamp)).natAbs ≤ 1000)) ∧
    (∃ (s : State) (c : Ch) (src : Nat) (stamp : DWord), (s.ch c).clocked = true ∧ (s.ch c).servoOn = true ∧ (s.ch
      c).timeSrc = src ∧ (s.ch c).refSource src = true ∧ ((s.ch c).tb.lock = Lock.locked ∨ (s.ch c).tb.lock =
      Lock.acquiring ∧ (servoError (s.ch c).lockOfs (s.ch c).lockInt (BitVec.toNat stamp)).natAbs ≤ 1000)) ∧
    (∃ (s : State) (c : Ch) (src : Nat) (stamp : DWord), (s.ch c).clocked = true ∧ (s.ch c).servoOn = true ∧ (s.ch
      c).timeSrc = src ∧ (s.ch c).refSource src = true ∧ ((s.ch c).tb.lock = Lock.acquiring ∨ (s.ch c).tb.lock =
      Lock.holdover) ∧ 1000 < (servoError (s.ch c).lockOfs (s.ch c).lockInt (BitVec.toNat stamp)).natAbs) ∧
    (∃ (s : State) (c : Ch) (src : Nat), (s.ch c).clocked = true ∧ (s.ch c).servoOn = true ∧ (s.ch c).timeSrc = src ∧
      (s.ch c).refSource src = true ∧ (s.ch c).tb.lock = Lock.holdover) ∧
    (∃ (s : State) (c : Ch) (src : Nat), (s.ch c).clocked = true ∧ (s.ch c).servoOn = true ∧ (s.ch c).timeSrc = src ∧
      (s.ch c).refSource src = true ∧ (s.ch c).tb.lock = Lock.holdover) ∧
    (∃ (s : State) (c : Ch) (src : Nat), (s.ch c).clocked = false ∨ (s.ch c).refSource src = false ∨ (s.ch c).servoOn =
      false ∨ (s.ch c).timeSrc ≠ src) ∧
    (∃ (s : State) (c : Ch), (s.ch c).clocked = true ∧ (s.ch c).servoOn = true ∧ ((s.ch c).tb.lock = Lock.acquiring ∨
      (s.ch c).tb.lock = Lock.locked) ∧ (s.ch c).tb.instant + (s.ch c).lockInt / 2 < (s.ch c).nowNs) ∧
    (∃ (s : State) (c : Ch), (s.ch c).clocked = true ∧ (s.ch c).servoOn = true ∧ ((s.ch c).tb.lock = Lock.acquiring ∨
      (s.ch c).tb.lock = Lock.locked) ∧ (s.ch c).tb.instant + (s.ch c).lockInt / 2 < (s.ch c).nowNs) ∧
    (∃ (s : State) (c : Ch), (s.ch c).clocked = false ∨ (s.ch c).servoOn = false ∨ (s.ch c).tb.lock = Lock.free ∨ (s.ch
      c).tb.lock = Lock.holdover ∨ (s.ch c).nowNs ≤ (s.ch c).tb.instant + (s.ch c).lockInt / 2) ∧
    (∃ (s : State) (c : Ch) (rising : Bool), (s.ch c).clocked = true ∧ ((s.ch c).reg pgTIME 112).bit 1 = true ∧ rising =
      !((s.ch c).reg pgTIME 112).bit 2 ∧ (rising = false ∨ (s.node c).fieldUp = true)) ∧
    (∃ (s : State) (c : Ch) (rising : Bool), (s.ch c).clocked = true ∧ ((s.ch c).reg pgTIME 112).bit 1 = true ∧ rising =
      !((s.ch c).reg pgTIME 112).bit 2 ∧ (rising = false ∨ (s.node c).fieldUp = true)) ∧
    (∃ (s : State) (c : Ch) (rising : Bool), (s.ch c).clocked = false ∨ ((s.ch c).reg pgTIME 112).bit 1 = false ∨ rising
      = ((s.ch c).reg pgTIME 112).bit 2 ∨ rising = true ∧ (s.node c).fieldUp = false) ∧
    (∃ (s : State) (c : Ch), (s.ch c).clocked = true ∧ (s.ch c).ppsEn = true ∧ (s.ch c).tb.ppsOut = false ∧ (s.ch
      c).tb.ppsRise < (s.ch c).second) ∧
    (∃ (s : State) (c : Ch), (s.ch c).clocked = true ∧ (s.ch c).tb.ppsOut = true ∧ (s.ch c).tb.ppsRise + ((s.ch c).reg
      pgTIME 112).field 8 8 * 1000000 ≤ (s.ch c).nowNs) ∧
    (∃ (s : State) (c : Ch), (s.ch c).clocked = false ∨ (s.ch c).ppsEn = false ∨ (s.ch c).tb.ppsOut = true ∨ (s.ch
      c).second ≤ (s.ch c).tb.ppsRise) ∧
    (∃ (s : State) (c : Ch), (s.ch c).clocked = false ∨ (s.ch c).tb.ppsOut = false ∨ (s.ch c).nowNs < (s.ch
      c).tb.ppsRise + ((s.ch c).reg pgTIME 112).field 8 8 * 1000000) :=
  ⟨⟨w1, .pf, .ch0, 5, by decide +kernel⟩,
   ⟨sv, .pf, .ch0, 0, by decide +kernel⟩,
   ⟨w1, .pf, .ch0, 3, by decide +kernel⟩,
   ⟨sv, .pf, .ch0, 1, by decide +kernel⟩,
   ⟨w1, .pf, .ch0, 7, by decide +kernel⟩,
   ⟨sv, .ch0, 1, 300, by decide +kernel⟩,
   ⟨sv, .ch0, 1, 700, by decide +kernel⟩,
   ⟨late, .ch0, 1, 300, by decide +kernel⟩,
   ⟨sv, .ch0, 1, 400000, by decide +kernel⟩,
   ⟨sv.k0 fun k => { k with tb := { k.tb with lock := .holdover } }, .ch0, 1, by decide +kernel⟩,
   ⟨sv.k0 fun k => { k with tb := { k.tb with lock := .holdover } }, .ch0, 1, by decide +kernel⟩,
   ⟨sv, .ch0, 2, by decide +kernel⟩,
   ⟨late, .ch0, by decide +kernel⟩,
   ⟨late.k0 fun k => { k with tb := { k.tb with missed := 0 } }, .ch0, by decide +kernel⟩,
   ⟨w1, .ch0, by decide +kernel⟩,
   ⟨w1.k0 (regs [(0x70, 0x70, 2)]), .ch0, true, by decide +kernel⟩,
   ⟨sv.k0 (regs [(0x70, 0x70, 6)]), .ch0, false, by decide +kernel⟩,
   ⟨w1, .ch0, true, by decide +kernel⟩,
   ⟨pps, .ch0, by decide +kernel⟩,
   ⟨ppsHigh, .ch0, by decide +kernel⟩,
   ⟨w1, .ch0, by decide +kernel⟩,
   ⟨w1, .ch0, by decide +kernel⟩⟩

end TimeSide

/-! ## The Rook -/

namespace RookSide

def put32 (m : Mem) (a : Nat) (w : Nat) : Mem := m.write a ((bytesLE 4 w).map some)

def rk (ws : List Nat) (g : Rook → Rook) : Channel :=
  let m : Mem := (ws.zipIdx).foldl (fun m x => put32 m (0x100 + 4*x.2) x.1) []
  let r : Rook := { kRun.rook with
    running := true, pc := 0x100, cm := false, sp := 0x100800, fp := 0x100900, wb := 0, spillPtr := 0x110000,
    file := [(3, 0x55), (4, 0x100400)], frames := [] }
  { kRun with iram := m, rook := g r }

def rs (ws : List Nat) (g : Rook → Rook) (l : List (Nat × Nat × Word)) : State := demo.k0 fun _ => regs ([(8, 0x50,
    0x8001), (8, 0x58, 0x110000), (8, 0x5c, 0x130000), (8, 0x54, 0x100000)] ++ l) (rk ws g)

def stp := 0x80000000

def RR (op rd ra rb lo : Nat) : Nat := stp + op * 2^24 + rd*2^18 + ra*2^12 + rb*64 + lo

def W (s : State) : List Word := match (s.node .ch0).boundary with | .issue ws _ => ws | _ => []

def X (s : State) : Exc := match (s.node .ch0).boundary with | .except x => x | _ => ⟨99, 0, 0, false, none, false⟩

def r4 (a : Nat) (r : Rook) : Rook := { r with file := [(3, 0x1234), (4, BitVec.ofNat 128 a)] }

def cmOn (r : Rook) : Rook := { r with cm := true }

def sA := rs [RR 2 5 3 4 0x20] id []

def sB := rs [RR 2 3 3 4 0x20 - stp, RR 2 4 3 3 0x0 - stp, RR 1 0 0 0 0] cmOn []

def sC := rs [stp + 0x32000000 + 0xFFFFF0] id []

def sBz := rs [RR 0x30 3 0 0 8] id []

def sJmpx := rs [RR 0x38 0 4 0 0] id []

def sMts := rs [RR 0x3F 0 4 0 0] id []

def sIsync := (rs [RR 0x3E 0 0 0 0] id []).k0 fun k => { k with iramStale := [(0x200, 5)] }

def sWait := rs [RR 0x3D 0 0 0 0] id []

def sBrk := rs [RR 0x3C 0 0 0 0] id [(8, 0x40, 8)]

def stI := rs [RR 0x2A 3 4 0 8] (r4 0x200) []

def stM := rs [RR 0x2A 3 4 0 8] (r4 (markAddr - 8)) []

def stD := rs [RR 0x2A 3 4 0 8] id []

def stS := rs [RR 0x2A 3 4 0 8] (r4 0x1000010) []

def stW := rs [RR 0x2A 3 4 0 8] id [(8, 0x40, 8), (8, 0xC0, 0x100408), (8, 0xC4, 5)]

def ldD := (rs [RR 0x23 3 4 0 8] (r4 0x100010) []).k0 fun k => { k with dtcm := [(0x100018, 0xF5), (0x100019, 0xF6)] }

def ldS := rs [RR 0x23 3 4 0 8] (r4 0x1000010) []

def ldI := (rs [RR 0x24 3 4 0 8] (r4 0x200) []).k0 fun k => { k with iram := put32 k.iram 0x208 0xABCD }

def sBp := rs [RR 2 5 3 4 0x20] id [(8, 0x40, 8), (8, 0xA0, 0x101)]

def sH := rs [stp + 0x33000000 + 0x20] id []

def sHx := rs [RR 0x39 0 4 0 0] id []

def sI := (rs [stp + 0x36000000] (fun r => { r with wb := 100, resbase := 0, frames := [48, 52] }) []).k0 fun k =>
    { k with dtcm := put32 (put32 [] 0x100800 0x205) 0x100804 0x100A00 }

def sIe := (rs [stp + 0x3A000000] (fun r => { r with exl := true, wb := 100, resbase := 0, frames := [64, 36] }) []).k0
    fun k => { k with dtcm := put32 (put32 (put32 [] 0x100800 0x205) 0x100804 0x100A00) 0x100808 3 }

def kStack : Channel := regs [(8, 0x54, 0x100800)] (rk [] id)

def kWin : Channel := regs [(8, 0x54, 0x100000), (8, 0x58, 0x110000), (8, 0x5c, 0x110000)] (rk [] fun r =>
    { r with wb := 480, frames := [100, 100, 280] })

def sJ := rs [RR 2 5 3 4 0x20] (fun r => { r with ie := true, wb := 480, frames := [100, 100, 280] }) [(2, 0x40, 0x50),
    (8, 0x58, 0x110000)]

def sK := rs [RR 2 5 3 4 0x20] (fun r => { r with impr := some (4, 0x1000040) }) []

def sM := rs [RR 0x23 3 4 0 8] (fun r => { r with file := [(4, 0x100417)] }) []

def sD := rs [RR 0x23 3 4 0 8] (r4 0x1000010) [(3, 0x40, 0x900)]

def sT := rs [RR 0x3B 0 0 0 0x21] id []

def iss (ws : List Word) (s : State) : State := s.k0 fun k => { k with
    rook := { k.rook with issued := ws }, sram := [(0x1000018, 0xF5), (0x1000019, 0xF6)] }

def ldR := rs [RR 0x24 3 4 0 8] (r4 (regAddr pgWHISTLE 0x3C).toNat) []

def store (a : Word) (d : List Byte) : State := ldS.k0 fun k => { k with
    rook := { k.rook with sb := [⟨a, d⟩, ⟨a+8, [9]⟩] }, sram := [(0x1000018, 0xF5), (0x1000019, 0xF6)] }

def held := (store 0x1000018 [1, 2, 3, 4]).k0 fun k => { regs [(3, 0x40, 0x102)] k with handovers := [⟨0, 0, false, []⟩] }

def lk (s : State) : State := { s with dev := { s.dev with otp := { s.dev.otp with dbglock := true } } }

def hl (s : State) : State := s.k0 fun k => { k with rook := { k.rook with halted := true, why := 1 } }

def sel (n : Word) : State := (hl sA).k0 (regs [(8, 0x70, n)])

def spSel : State := sel 0x200

theorem no_impr (cause : Nat) (a : Word) : (demo.node .ch0).boundary ≠ .impr cause a := by
  rw [show (demo.node .ch0).boundary = .none by decide +kernel]; exact fun h => nomatch h


theorem witness_BundlesIssue :
    (∃ (s : State) (c : Ch) (ws : List Word) (ops : List Op), (s.node c).boundary = Turn.issue ws ops ∧ Quiet (s.ch
      c).rook ∧ (s.ch c).ecc = Ecc.reset ∧ (∀ (o : Op), o ∈ ops → o = Op.nop ∨ o = Op.fence ∨ ((s.ch c).rook.alu
      o).isSome = true)) ∧
    (∃ (s : State) (c : Ch) (ws : List Word) (ops : List Op), (s.node c).boundary = Turn.issue ws ops ∧ Quiet (s.ch
      c).rook ∧ (s.ch c).ecc = Ecc.reset ∧ (∀ (o : Op), o ∈ ops → o = Op.nop ∨ o = Op.fence ∨ ((s.ch c).rook.alu
      o).isSome = true)) ∧
    (∃ (s : State) (c : Ch) (ws : List Word) (off : Nat), (s.node c).boundary = Turn.issue ws [Op.j off] ∧ Quiet (s.ch
      c).rook ∧ (s.ch c).ecc = Ecc.reset) ∧
    (∃ (s : State) (c : Ch) (ws : List Word) (o : Op) (pc : Nat) (cm : Bool), (s.node c).boundary = Turn.issue ws [o] ∧
      Quiet (s.ch c).rook ∧ (s.ch c).ecc = Ecc.reset ∧ (∃ (rt : Nat), ∃ (off : Nat), ∃ (ra : Nat), o = Op.bz rt off ∨ o
      = Op.bnz rt off ∨ o = Op.j off ∨ o = Op.jr ra ∨ o = Op.jmpx ra) ∧ goesTo (s.ch c).rook (BitVec.toNat (s.ch
      c).rook.pc) o = some (pc, cm)) ∧
    (∃ (s : State) (c : Ch) (ws : List Word) (o : Op) (pc : Nat) (cm : Bool), (s.node c).boundary = Turn.issue ws [o] ∧
      Quiet (s.ch c).rook ∧ (s.ch c).ecc = Ecc.reset ∧ (∃ (rt : Nat), ∃ (off : Nat), ∃ (ra : Nat), o = Op.bz rt off ∨ o
      = Op.bnz rt off ∨ o = Op.j off ∨ o = Op.jr ra ∨ o = Op.jmpx ra) ∧ goesTo (s.ch c).rook (BitVec.toNat (s.ch
      c).rook.pc) o = some (pc, cm)) ∧
    (∃ (s : State) (c : Ch) (ws : List Word) (x : Special) (ra : Nat), Quiet (s.ch c).rook ∧ (s.ch c).ecc = Ecc.reset ∧
      (s.node c).boundary = Turn.issue ws [Op.mts x ra]) ∧
    (∃ (s : State) (c : Ch) (ws : List Word), Quiet (s.ch c).rook ∧ (s.ch c).ecc = Ecc.reset ∧ (s.node c).boundary =
      Turn.issue ws [Op.isync]) ∧
    (∃ (s : State) (c : Ch) (ws : List Word), Quiet (s.ch c).rook ∧ (s.ch c).ecc = Ecc.reset ∧ (s.node c).boundary =
      Turn.issue ws [Op.wait]) ∧
    (∃ (s : State) (c : Ch) (ws : List Word), Quiet (s.ch c).rook ∧ (s.ch c).ecc = Ecc.reset ∧ (s.node c).boundary =
      Turn.issue ws [Op.brk]) ∧
    (∃ (s : State) (c : Ch) (ws : List Word) (len rd ra off : Nat), (s.node c).boundary = Turn.issue ws [Op.store len rd
      ra off] ∧ Quiet (s.ch c).rook ∧ (s.ch c).ecc = Ecc.reset ∧ (s.node c).watchHit
      { addr := target (s.ch c).rook ra off, len := len, store := true, signed := false, reg := rd } = false ∧ zoneOf
      (target (s.ch c).rook ra off) = some Zone.iram) ∧
    (∃ (s : State) (c : Ch) (ws : List Word) (len rd ra off : Nat), (s.node c).boundary = Turn.issue ws [Op.store len rd
      ra off] ∧ Quiet (s.ch c).rook ∧ (s.ch c).ecc = Ecc.reset ∧ (s.node c).watchHit
      { addr := target (s.ch c).rook ra off, len := len, store := true, signed := false, reg := rd } = false ∧ len = 4 ∧
      target (s.ch c).rook ra off = markAddr) ∧
    (∃ (s : State) (c : Ch) (ws : List Word) (len rd ra off : Nat), (s.node c).boundary = Turn.issue ws [Op.store len rd
      ra off] ∧ (s.ch c).ecc = Ecc.reset ∧ (s.node c).watchHit
      { addr := target (s.ch c).rook ra off, len := len, store := true, signed := false, reg := rd } = true) ∧
    (∃ (s : State) (c : Ch) (ws : List Word) (len rd ra off : Nat), (s.node c).boundary = Turn.issue ws [Op.store len rd
      ra off] ∧ Quiet (s.ch c).rook ∧ (s.ch c).ecc = Ecc.reset ∧ (s.node c).watchHit
      { addr := ((s.ch c).rook.low ra + off) % 2 ^ 32, len := len, store := true, signed := false, reg := rd } = false ∧
      zoneOf (((s.ch c).rook.low ra + off) % 2 ^ 32) = some Zone.dtcm) ∧
    (∃ (s : State) (c : Ch) (ws : List Word) (len rd ra off : Nat), (s.node c).boundary = Turn.issue ws [Op.store len rd
      ra off] ∧ Quiet (s.ch c).rook ∧ (s.ch c).ecc = Ecc.reset ∧ (s.node c).watchHit
      { addr := ((s.ch c).rook.low ra + off) % 2 ^ 32, len := len, store := true, signed := false, reg := rd } = false ∧
      zoneOf (((s.ch c).rook.low ra + off) % 2 ^ 32) = some Zone.sram) ∧
    (∃ (s : State) (c : Ch) (ws : List Word) (len rd ra off : Nat) (sg : Bool), (s.node c).boundary = Turn.issue ws
      [Op.load len sg rd ra off] ∧ Quiet (s.ch c).rook ∧ (s.ch c).ecc = Ecc.reset ∧ (s.node c).watchHit
      { addr := ((s.ch c).rook.low ra + off) % 2 ^ 32, len := len, store := false, signed := sg, reg := rd } = false ∧
      zoneOf (((s.ch c).rook.low ra + off) % 2 ^ 32) = some Zone.dtcm) ∧
    (∃ (s : State) (c : Ch) (ws : List Word) (len rd ra off : Nat) (sg : Bool), (s.node c).boundary = Turn.issue ws
      [Op.load len sg rd ra off] ∧ Quiet (s.ch c).rook ∧ (s.ch c).ecc = Ecc.reset ∧ (s.node c).watchHit
      { addr := ((s.ch c).rook.low ra + off) % 2 ^ 32, len := len, store := false, signed := sg, reg := rd } = false ∧
      zoneOf (((s.ch c).rook.low ra + off) % 2 ^ 32) = some Zone.sram) ∧
    (∃ (s : State) (c : Ch) (ws : List Word) (len rd ra off : Nat) (sg : Bool), (s.node c).boundary = Turn.issue ws
      [Op.load len sg rd ra off] ∧ Quiet (s.ch c).rook ∧ (s.ch c).ecc = Ecc.reset ∧ (s.node c).watchHit
      { addr := ((s.ch c).rook.low ra + off) % 2 ^ 32, len := len, store := false, signed := sg, reg := rd } = false ∧
      zoneOf (target (s.ch c).rook ra off) = some Zone.iram) ∧
    (∃ (s : State) (c : Ch), (s.node c).boundary = Turn.none ∨ (s.node c).boundary = Turn.event ∨ ∃ (cause : Nat), ∃ (a
      : Word), (s.node c).boundary = Turn.impr cause a) ∧
    (∃ (s : State) (c : Ch) (why : Nat), (s.node c).boundary = Turn.stop why) :=
  ⟨⟨sA, .ch0, W sA, [.arith .add .v 5 3 4], by decide +kernel⟩,
   ⟨sB, .ch0, W sB, [.arith .add .v 3 3 4, .arith .add .s 4 3 3, .nop], by decide +kernel⟩,
   ⟨sC, .ch0, W sC, 0xFFFFFFF0, by decide +kernel⟩,
   ⟨sBz, .ch0, W sBz, .bz 3 8, 0x104, false, by decide +kernel, by decide +kernel, by decide +kernel, ⟨3, 8, 0, .inl
     rfl⟩, by decide +kernel⟩,
   ⟨sJmpx, .ch0, W sJmpx, .jmpx 4, 0x100400, false, by decide +kernel, by decide +kernel, by decide +kernel, ⟨0, 0, 4,
     .inr (.inr (.inr (.inr rfl)))⟩, by decide +kernel⟩,
   ⟨sMts, .ch0, W sMts, .sp, 4, by decide +kernel⟩,
   ⟨sIsync, .ch0, W sIsync, by decide +kernel⟩,
   ⟨sWait, .ch0, W sWait, by decide +kernel⟩,
   ⟨sBrk, .ch0, W sBrk, by decide +kernel⟩,
   ⟨stI, .ch0, W stI, 4, 3, 4, 8, by decide +kernel⟩,
   ⟨stM, .ch0, W stM, 4, 3, 4, 8, by decide +kernel⟩,
   ⟨stW, .ch0, W stW, 4, 3, 4, 8, by decide +kernel⟩,
   ⟨stD, .ch0, W stD, 4, 3, 4, 8, by decide +kernel⟩,
   ⟨stS, .ch0, W stS, 4, 3, 4, 8, by decide +kernel⟩,
   ⟨ldD, .ch0, W ldD, 2, 3, 4, 8, true, by decide +kernel⟩,
   ⟨ldS, .ch0, W ldS, 2, 3, 4, 8, true, by decide +kernel⟩,
   ⟨ldI, .ch0, W ldI, 4, 3, 4, 8, false, by decide +kernel⟩,
   ⟨demo, .ch0, .inl (by decide +kernel)⟩,
   ⟨sBp, .ch0, 3, by decide +kernel⟩⟩

theorem witness_CallsAndReturns :
    (∃ (s : State) (c : Ch) (ws : List Word) (o : Op) (pc : Nat) (cm : Bool), (s.node c).boundary = Turn.issue ws [o] ∧
      Quiet (s.ch c).rook ∧ (s.ch c).ecc = Ecc.reset ∧ (∃ (off : Nat), ∃ (ra : Nat), o = Op.call off ∨ o = Op.callr ra ∨
      o = Op.callx ra) ∧ goesTo (s.ch c).rook (BitVec.toNat (s.ch c).rook.pc) o = some (pc, cm)) ∧
    (∃ (s : State) (c : Ch) (ws : List Word) (o : Op) (pc : Nat) (cm : Bool), (s.node c).boundary = Turn.issue ws [o] ∧
      Quiet (s.ch c).rook ∧ (s.ch c).ecc = Ecc.reset ∧ (∃ (off : Nat), ∃ (ra : Nat), o = Op.call off ∨ o = Op.callr ra ∨
      o = Op.callx ra) ∧ goesTo (s.ch c).rook (BitVec.toNat (s.ch c).rook.pc) o = some (pc, cm)) ∧
    (∃ (s : State) (c : Ch) (ws : List Word) (o : Op) (size len : Nat), (s.node c).boundary = Turn.issue ws [o] ∧ Quiet
      (s.ch c).rook ∧ (s.ch c).ecc = Ecc.reset ∧ (o = Op.ret ∧ size = 48 ∧ len = 16 ∨ o = Op.rete ∧ size = 64 ∧ len =
      32)) ∧
    (∃ (s : State) (c : Ch) (ws : List Word) (o : Op) (size len : Nat), (s.node c).boundary = Turn.issue ws [o] ∧ Quiet
      (s.ch c).rook ∧ (s.ch c).ecc = Ecc.reset ∧ (o = Op.ret ∧ size = 48 ∧ len = 16 ∨ o = Op.rete ∧ size = 64 ∧ len =
      32)) ∧
    (∃ (k : Channel), BitVec.toNat (k.rook.sp - 16) < BitVec.toNat (k.reg pgROOKDBG 84) ∨ inDtcm (BitVec.toNat
      (k.rook.sp - 16)) 16 = false) ∧
    (∃ (k : Channel), BitVec.toNat (k.reg pgROOKDBG 84) ≤ BitVec.toNat (k.rook.sp - 16) ∧ inDtcm (BitVec.toNat
      (k.rook.sp - 16)) 16 = true ∧ 0 < (k.rook.toSpill 48).sum ∧ k.spillLimit < BitVec.toNat k.rook.spillPtr + 16 *
      (k.rook.toSpill 48).sum) :=
  ⟨⟨sH, .ch0, W sH, .call 0x20, 0x180, false, by decide +kernel, by decide +kernel, by decide +kernel, ⟨0x20, 0, .inl
     rfl⟩, by decide +kernel⟩,
   ⟨sHx, .ch0, W sHx, .callx 4, 0x100400, false, by decide +kernel, by decide +kernel, by decide +kernel, ⟨0, 4, .inr
     (.inr rfl)⟩, by decide +kernel⟩,
   ⟨sI, .ch0, W sI, .ret, 48, 16, by decide +kernel⟩,
   ⟨sIe, .ch0, W sIe, .rete, 64, 32, by decide +kernel⟩,
   ⟨kStack, by decide +kernel⟩,
   ⟨kWin, by decide +kernel⟩⟩

theorem witness_RookEntry :
    (∃ (s : State) (c : Ch), (s.node c).boundary = Turn.event ∧ EntryFits (s.ch c)) ∧
    (∃ (s : State) (c : Ch), (s.node c).boundary = Turn.event ∧ EntryFits (s.ch c)) ∧
    (∃ (s : State) (c : Ch) (cause : Nat) (addr : Word), (s.node c).boundary = Turn.impr cause addr ∧ (s.ch c).rook.exl
      = false ∧ EntryFits (s.ch c)) ∧
    (∃ (s : State) (c : Ch) (x : Exc), (s.node c).boundary = Turn.except x ∧ (s.ch c).rook.exl = false ∧ x.ue = none ∧
      x.cause ≠ xDENY ∧ EntryFits (s.ch c)) ∧
    (∃ (s : State) (c : Ch) (x : Exc), (s.node c).boundary = Turn.except x ∧ (s.ch c).rook.exl = true ∧ x.ue = none ∧
      x.cause ≠ xDENY ∧ x.cause ≠ xEVENT) ∧
    (∃ (s : State) (c : Ch) (x : Exc), (s.node c).boundary = Turn.except x ∧ (s.ch c).rook.exl = false ∧ x.ue = none ∧
      x.cause = xDENY ∧ EntryFits (s.ch c)) ∧
    (∃ (s : State) (c : Ch) (ws : List Word) (code : Nat), (s.node c).boundary = Turn.issue ws [Op.trap code] ∧ (s.ch
      c).rook.exl = false ∧ EntryFits (s.ch c)) ∧
    (∃ (s : State) (c : Ch), (s.node c).boundary = Turn.event ∧ inDtcm (BitVec.toNat ((s.ch c).rook.sp - 32)) 32 =
      false) ∧
    (∃ (s : State) (c : Ch), (s.node c).boundary ≠ Turn.event) ∧
    (∃ (s : State) (c : Ch), ∀ (cause : Nat) (a : Word), (s.node c).boundary ≠ Turn.impr cause a) ∧
    (∃ (s : State) (c : Ch), (s.ch c).boot = Boot.run ∧ (s.ch c).rookPend ≠ 0) ∧
    (∃ (s : State) (c : Ch), (s.ch c).boot ≠ Boot.run ∨ (s.ch c).rookPend = 0) :=
  ⟨⟨sJ, .ch0, by decide +kernel⟩,
   ⟨sJ.k0 (fun k => { k with rook := { k.rook with step := true } }), .ch0, by decide +kernel⟩,
   ⟨sK, .ch0, 4, 0x1000040, by decide +kernel⟩,
   ⟨sM, .ch0, X sM, by decide +kernel⟩,
   ⟨sM.k0 (fun k => { k with rook := { k.rook with exl := true } }), .ch0, X sM, by decide +kernel⟩,
   ⟨sD, .ch0, X sD, by decide +kernel⟩,
   ⟨sT, .ch0, W sT, 0x21, by decide +kernel⟩,
   ⟨sJ.k0 (fun k => { k with rook := { k.rook with sp := 0x100010 } }), .ch0, by decide +kernel⟩,
   ⟨demo, .ch0, by decide +kernel⟩,
   ⟨demo, .ch0, no_impr⟩,
   ⟨sJ, .ch0, by decide +kernel⟩,
   ⟨demo, .ch0, by decide +kernel⟩⟩

theorem witness_RookFabric :
    (∃ (s : State) (c : Ch) (ws : List Word) (len rd ra off : Nat) (sg : Bool), (s.ch c).boot = Boot.run ∧ (s.ch
      c).rook.running = true ∧ ws ≠ [] ∧ (s.ch c).rook.issued = ws ∧ decodeAll ws = some [Op.load len sg rd ra off] ∧
      (s.ch c).rook.sb = [] ∧ (s.ch c).rook.halted = false ∧ Quiet (s.ch c).rook ∧ (s.ch c).ecc = Ecc.reset ∧ zoneOf
      (((s.ch c).rook.low ra + off) % 2 ^ 32) = some Zone.sram ∧ ((s.ch c).rook.low ra + off) % 2 ^ 32 % 16 + len ≤ 16 ∧
      (s.ch c).canWatches Unit2.u0 = false ∧ (s.ch c).canWatches Unit2.u1 = false ∧ (s.ch c).grant mROOK (((s.ch
      c).rook.low ra + off) % 2 ^ 32) len false = Grant.ok ∧ (s.node c).watchHit
      { addr := ((s.ch c).rook.low ra + off) % 2 ^ 32, len := len, store := false, signed := sg, reg := rd } = false) ∧
    (∃ (s : State) (c : Ch) (ws : List Word) (rd ra off : Nat) (sg : Bool) (v : Word), (s.ch c).boot = Boot.run ∧ (s.ch
      c).rook.running = true ∧ ws ≠ [] ∧ (s.ch c).rook.issued = ws ∧ decodeAll ws = some [Op.load 4 sg rd ra off] ∧
      (s.ch c).rook.sb = [] ∧ (s.ch c).rook.halted = false ∧ Quiet (s.ch c).rook ∧ (s.ch c).ecc = Ecc.reset ∧ zoneOf
      (target (s.ch c).rook ra off) = some Zone.regs ∧ target (s.ch c).rook ra off % 4 = 0 ∧ (s.node c).watchHit
      { addr := target (s.ch c).rook ra off, len := 4, store := false, signed := sg, reg := rd } = false ∧ (s.node
      c).pageRead Sender.rook (regPage (target (s.ch c).rook ra off)) (regOff (target (s.ch c).rook ra off)) = (s.node
      c, v)) ∧
    (∃ (s : State) (c : Ch), (s.ch c).rook.issued = [] ∨ (s.ch c).boot ≠ Boot.run ∨ (s.ch c).rook.running = false ∨
      (s.ch c).rook.sb ≠ []) ∧
    (∃ (s : State) (c : Ch), (s.ch c).rook.sb = [] ∨ (s.ch c).boot ≠ Boot.run ∨ (s.ch c).rook.running = false ∨ ∃ (x :
      Store), ∃ (rest : List Store), (s.ch c).rook.sb = x :: rest ∧ (s.ch c).heldAt (BitVec.toNat x.addr) x.data.length
      true = true) ∧
    (∃ (s : State) (c : Ch) (x : Store) (rest : List Store), (s.ch c).boot = Boot.run ∧ (s.ch c).rook.running = true ∧
      (s.ch c).rook.sb = x :: rest ∧ zoneOf (BitVec.toNat x.addr) = some Zone.regs ∧ x.data.length = 4 ∧ BitVec.toNat
      x.addr % 4 = 0) ∧
    (∃ (s : State) (c : Ch) (x : Store) (rest : List Store), (s.ch c).boot = Boot.run ∧ (s.ch c).rook.running = true ∧
      (s.ch c).rook.sb = x :: rest ∧ zoneOf (BitVec.toNat x.addr) = some Zone.regs ∧ (x.data.length % 4 ≠ 0 ∨
      BitVec.toNat x.addr % 4 ≠ 0) ∧ regPage (BitVec.toNat x.addr) ∈ chanPages) ∧
    (∃ (s : State) (c : Ch) (x : Store) (rest : List Store), (s.ch c).boot = Boot.run ∧ (s.ch c).rook.running = true ∧
      (s.ch c).rook.sb = x :: rest ∧ (s.ch c).ecc = Ecc.reset ∧ zoneOf (BitVec.toNat x.addr) = some Zone.sram ∧ (s.ch
      c).grant mROOK (BitVec.toNat x.addr) x.data.length true = Grant.ok) ∧
    (∃ (s : State) (c : Ch) (x : Store) (rest : List Store), (s.ch c).boot = Boot.run ∧ (s.ch c).rook.running = true ∧
      (s.ch c).rook.sb = x :: rest ∧ (s.ch c).ecc = Ecc.reset ∧ zoneOf (BitVec.toNat x.addr) = some Zone.bitSet ∧ (s.ch
      c).grant mROOK (BitVec.toNat x.addr - 4194304) x.data.length true = Grant.ok) ∧
    (∃ (s : State) (c : Ch) (x : Store) (rest : List Store), (s.ch c).boot = Boot.run ∧ (s.ch c).rook.running = true ∧
      (s.ch c).rook.sb = x :: rest ∧ (s.ch c).ecc = Ecc.reset ∧ zoneOf (BitVec.toNat x.addr) = some Zone.bitClear ∧
      (s.ch c).grant mROOK (BitVec.toNat x.addr - 8388608) x.data.length true = Grant.ok) ∧
    (∃ (s : State) (c : Ch) (x : Store) (rest : List Store), (s.ch c).boot = Boot.run ∧ (s.ch c).rook.running = true ∧
      (s.ch c).rook.sb = x :: rest ∧ (s.ch c).ecc = Ecc.reset ∧ zoneOf (BitVec.toNat x.addr) = some Zone.sram ∧ (s.ch
      c).grant mROOK (BitVec.toNat x.addr) x.data.length true = Grant.refused ∧ (s.ch c).rook.impr = none) :=
  ⟨⟨iss (W ldS) ldS, .ch0, W ldS, 2, 3, 4, 8, true, by decide +kernel⟩,
   ⟨iss (W ldR) ldR, .ch0, W ldR, 3, 4, 8, false, (((iss (W ldR) ldR).node .ch0).pageRead .rook 1 0x44).2, by
     decide +kernel⟩,
   ⟨demo, .ch0, by decide +kernel⟩,
   ⟨held, .ch0, .inr (.inr (.inr ⟨_, _, rfl, by decide +kernel⟩))⟩,
   ⟨store (regAddr pgTIME 0x54) [1, 2, 3, 4], .ch0, ⟨regAddr pgTIME 0x54, [1, 2, 3, 4]⟩, [⟨regAddr pgTIME 0x5C, [9]⟩],
     by decide +kernel⟩,
   ⟨store (regAddr pgTIME 0x54) [1, 2], .ch0, ⟨regAddr pgTIME 0x54, [1, 2]⟩, [⟨regAddr pgTIME 0x5C, [9]⟩], by
     decide +kernel⟩,
   ⟨store 0x1000018 [1, 2, 3, 4], .ch0, ⟨0x1000018, [1, 2, 3, 4]⟩, [⟨0x1000020, [9]⟩], by decide +kernel⟩,
   ⟨store 0x1400018 [1, 2, 3, 4], .ch0, ⟨0x1400018, [1, 2, 3, 4]⟩, [⟨0x1400020, [9]⟩], by decide +kernel⟩,
   ⟨store 0x1800018 [1, 2, 3, 4], .ch0, ⟨0x1800018, [1, 2, 3, 4]⟩, [⟨0x1800020, [9]⟩], by decide +kernel⟩,
   ⟨(store 0x1000018 [1, 2, 3, 4]).k0 (regs [(3, 0x40, 0x900)]), .ch0, ⟨0x1000018, [1, 2, 3, 4]⟩, [⟨0x1000020, [9]⟩],
     by decide +kernel⟩⟩

theorem witness_RookDebug :
    (∃ (s : State) (c : Ch), s.reaches Sender.pf c ∧ Free s c pgROOKDBG ∧ (s.node c).lock = false ∧ (s.ch
      c).rook.running = true ∧ (s.ch c).rook.halted = false ∧ (s.ch c).rook.fatal = false ∧ (s.ch c).rook.issued = []) ∧
    (∃ (s : State) (c : Ch), s.reaches Sender.pf c ∧ Free s c pgROOKDBG ∧ (s.node c).lock = true ∧ (s.ch c).rook.halted
      = false) ∧
    (∃ (s : State) (c : Ch), s.reaches Sender.pf c ∧ Free s c pgROOKDBG ∧ (s.node c).lock = true) ∧
    (∃ (s : State) (c : Ch), s.reaches Sender.pf c ∧ Free s c pgROOKDBG ∧ (s.node c).lock = true) ∧
    (∃ (s : State) (c : Ch), s.reaches Sender.pf c ∧ Free s c pgROOKDBG ∧ (s.node c).lock = false ∧ (s.ch
      c).rook.running = true ∧ (s.ch c).rook.halted = false ∧ (s.ch c).rook.fatal = false ∧ (s.ch c).rook.issued ≠ []) ∧
    (∃ (s : State) (c : Ch), s.reaches Sender.pf c ∧ Free s c pgROOKDBG ∧ (s.node c).lock = false ∧ ((s.ch c).rook.fatal
      = true ∨ (s.ch c).rook.halted = true)) ∧
    (∃ (s : State) (c : Ch), s.reaches Sender.pf c ∧ Free s c pgROOKDBG ∧ (s.node c).lock = false ∧ ((s.ch c).rook.fatal
      = true ∨ (s.ch c).rook.halted = false)) ∧
    (∃ (s : State) (c : Ch), s.reaches Sender.pf c ∧ Free s c pgROOKDBG ∧ (s.node c).lock = false ∧ ((s.ch c).rook.fatal
      = true ∨ (s.ch c).rook.halted = false)) ∧
    (∃ (s : State) (c : Ch), (s.ch c).boot = Boot.run ∧ Free s c pgROOKDBG) ∧
    (∃ (s : State) (c : Ch), s.reaches Sender.pf c ∧ Free s c pgROOKDBG ∧ (s.ch c).rook.halted = true ∧ (s.ch
      c).rook.fatal = false) ∧
    (∃ (s : State) (c : Ch) (ws : List Word) (ops : List Op), s.reaches Sender.pf c ∧ Free s c pgROOKDBG ∧ (s.node
      c).lock = false ∧ (s.ch c).rook.halted = true ∧ (s.ch c).rook.fatal = false ∧ (s.ch c).ecc = Ecc.reset ∧
      ((((s.node c).setField pgROOKDBG 64 3 1 (((s.ch c).reg pgROOKDBG 64).field 3 1)).onRook fun r =>
      { r with halted := false, step := true, bpSkip := true }).boundary = Turn.issue ws ops) ∧ (∀ (o : Op), o ∈ ops → o
      = Op.nop ∨ o = Op.fence ∨ ((s.ch c).rook.alu o).isSome = true)) ∧
    (∃ (s : State) (c : Ch), s.reaches Sender.pf c ∧ Free s c pgROOKDBG ∧ (s.node c).lock = false ∧ (s.ch c).rook.halted
      = true ∧ (s.ch c).rselSpace = 0) ∧
    (∃ (s : State) (c : Ch), s.reaches Sender.pf c ∧ Free s c pgROOKDBG ∧ (s.node c).lock = false ∧ (s.ch c).rook.halted
      = true) ∧
    (∃ (s : State) (c : Ch) (v : Word), s.reaches Sender.pf c ∧ Free s c pgROOKDBG ∧ (s.node c).lock = false ∧ (s.ch
      c).rook.halted = true ∧ (s.ch c).rselSpace = 1 ∧ (specialOf ((s.ch c).rselIndex % 4) ≠ Special.sp ∨ BitVec.toNat v
      % 16 = 0)) ∧
    (∃ (s : State) (c : Ch) (v : Word), s.reaches Sender.pf c ∧ Free s c pgROOKDBG ∧ (s.node c).lock = false ∧ (s.ch
      c).rook.halted = true ∧ (s.ch c).rselSpace = 1 ∧ specialOf ((s.ch c).rselIndex % 4) = Special.sp ∧ BitVec.toNat v
      % 16 ≠ 0) ∧
    (∃ (s : State) (c : Ch) (j : Fin 4), s.reaches Sender.pf c ∧ Free s c pgROOKDBG ∧ (s.node c).lock = false ∧ (s.ch
      c).rook.halted = true ∧ (s.ch c).rselSpace = 1 ∧ j ≠ 0) ∧
    (∃ (s : State) (c : Ch), s.reaches Sender.pf c ∧ Free s c pgROOKDBG ∧ (s.node c).lock = false ∧ (s.ch c).rook.halted
      = true ∧ 2 ≤ (s.ch c).rselSpace) ∧
    (∃ (s : State) (c : Ch), s.reaches Sender.pf c ∧ Free s c pgROOKDBG ∧ ((s.node c).lock = true ∨ (s.ch c).rook.halted
      = false)) ∧
    (∃ (s : State) (c : Ch), s.reaches Sender.pf c ∧ Free s c pgROOKDBG ∧ ((s.node c).lock = true ∨ (s.ch c).rook.halted
      = false)) ∧
    (∃ (s : State) (c : Ch), s.reaches Sender.pf c ∧ Free s c pgROOKDBG ∧ (s.node c).lock = true) ∧
    (∃ (s : State) (c : Ch), s.reaches Sender.pf c ∧ Free s c pgROOKDBG ∧ (s.node c).lock = false ∧ (s.ch c).rook.halted
      = false) ∧
    (∃ (s : State) (snd : Sender) (c : Ch) (v : Word), s.reaches snd c ∧ Own snd ∧ Free s c pgROOKDBG ∧ ((s.ch
      c).rook.spillPtr ≠ (s.ch c).reg pgROOKDBG 88 ∨ (s.ch c).rejects pgROOKDBG 88 v = true)) ∧
    (∃ (s : State) (snd : Sender) (c : Ch) (v : Word), s.reaches snd c ∧ Own snd ∧ Free s c pgROOKDBG ∧ ((s.ch
      c).rook.spillPtr ≠ (s.ch c).reg pgROOKDBG 88 ∨ (s.ch c).rejects pgROOKDBG 88 v = true)) ∧
    (∃ (s : State) (snd : Sender) (c : Ch) (v : Word), s.reaches snd c ∧ Own snd ∧ Free s c pgROOKDBG ∧ (s.ch
      c).rook.spillPtr = (s.ch c).reg pgROOKDBG 88 ∧ (s.ch c).rejects pgROOKDBG 88 v = false) ∧
    (∃ (s : State) (snd : Sender) (c : Ch) (v : Word), s.reaches snd c ∧ Own snd ∧ Free s c pgROOKDBG ∧ (s.ch
      c).rook.spillPtr = (s.ch c).reg pgROOKDBG 88 ∧ (s.ch c).rejects pgROOKDBG 88 v = false) :=
  ⟨⟨sA, .ch0, by decide +kernel⟩,
   ⟨lk sA, .ch0, by decide +kernel⟩,
   ⟨lk (hl sA), .ch0, by decide +kernel⟩,
   ⟨lk (hl sA), .ch0, by decide +kernel⟩,
   ⟨iss (W ldS) ldS, .ch0, by decide +kernel⟩,
   ⟨hl sA, .ch0, by decide +kernel⟩,
   ⟨sA, .ch0, by decide +kernel⟩,
   ⟨sA, .ch0, by decide +kernel⟩,
   ⟨sA, .ch0, by decide +kernel⟩,
   ⟨hl sA, .ch0, by decide +kernel⟩,
   ⟨hl sA, .ch0, W sA, [.arith .add .v 5 3 4], by decide +kernel⟩,
   ⟨sel 4, .ch0, by decide +kernel⟩,
   ⟨sel 4, .ch0, by decide +kernel⟩,
   ⟨sel 0x201, .ch0, 0xABCD, by decide +kernel⟩,
   ⟨spSel, .ch0, 0xABCD, by decide +kernel⟩,
   ⟨spSel, .ch0, 2, by decide +kernel⟩,
   ⟨sel 0x405, .ch0, by decide +kernel⟩,
   ⟨lk (sel 4), .ch0, by decide +kernel⟩,
   ⟨sA, .ch0, by decide +kernel⟩,
   ⟨lk (sel 4), .ch0, by decide +kernel⟩,
   ⟨sA, .ch0, by decide +kernel⟩,
   ⟨sJ.k0 (regs [(8, 0x58, 0x120000)]), .pf, .ch0, 0x120000, by decide +kernel⟩,
   ⟨sA, .rook, .ch0, 0x200000, by decide +kernel⟩,
   ⟨sA, .pf, .ch0, 0x120000, by decide +kernel⟩,
   ⟨sA, .rook, .ch0, 0x120000, by decide +kernel⟩⟩

end RookSide

/-! ## Pawns and carry -/

namespace EngineSide

def ins2 (a b : Nat) : List (Nat × Nat × Word) :=
  [(0x10, 0x800, BitVec.ofNat 32 (a + b * 65536)), (0x10, 8, 2), (0x10, 0x60, 0x33213210)]

def pw (a b : Nat) (g : Engine → Engine) : State := demo.k0 fun k => regs (ins2 a b) { k with
    pawn := { k.pawn with eng := k.pawn.eng.set (2 : Fin 8) (g { Engine.reset with run := true, pc := 0 }) , dirL := 0x5 } }

def st1 := pw 0x6234 0 id

def dr (f : Nat) :=
  (pw 0 0 (fun g => { g with rx := [5, 6, 7] })).k0 fun k => regs [(0x10, 0x180+0x24, BitVec.ofNat 32 (0x1000400 + f)),
      (0x10, 0x180+0x28, 0x40), (0x10, 0x180+0x2c, 0x80), (0x3, 0x40, 0x1000), (0x10, 0x58, 0xFFFFFFFF)] k

def refused (f : Nat) := (dr f).k0 (regs [(0x3, 0x40, 0x900)])

def di := demo.k0 (regs [(6, 8, 2), (6, 0x100+0x44, 0x1234), (6, 0x100+0x48, 0x56), (6, 0x110+0x40, 5)])

def pr (d : Word) :=
  demo.k0 fun k => regs [(0xF0, 0x4c, 1), (3, 0x40, 0)] { k with
      sram := [(0x1000044, 7)], tagDiff := [(1, d)], carryOps := [⟨.rook, false, 1⟩] }

def idle := (pr 3).k0 fun k => { k with carryOps := [] }

theorem witness_PawnSteps :
    (∃ (s : State) (c : Ch) (e : Fin 8), (s.ch c).live pgPAWN = true ∧ ((s.ch c).eng e.val).run = true ∧ ((s.ch c).eng
      e.val).delay ≠ 0) ∧
    (∃ (s : State) (c : Ch) (e : Fin 8) (w : Nat), Executes (s.ch c) e w ∧ pawnLegal w = false) ∧
    (∃ (s : State) (c : Ch) (e : Fin 8) (w : Nat), Executes (s.ch c) e w ∧ w / 4096 = 15 ∧ w % 1024 = 256) ∧
    (∃ (s : State) (c : Ch) (e : Fin 8) (w : Nat), Executes (s.ch c) e w ∧ w / 4096 = 6 ∧ w / 256 % 4 = 2) ∧
    (∃ (s : State) (c : Ch) (e : Fin 8) (w : Nat), Executes (s.ch c) e w ∧ w / 4096 = 6 ∧ w / 256 % 4 = 2) ∧
    (∃ (s : State) (c : Ch) (e : Fin 8) (w : Nat), Executes (s.ch c) e w ∧ w / 4096 = 0 ∧ w / 128 % 8 = 0) ∧
    (∃ (s : State) (c : Ch) (e : Fin 8) (w : Nat), Executes (s.ch c) e w ∧ w / 4096 = 0 ∧ w / 128 % 8 = 2) ∧
    (∃ (s : State) (c : Ch) (e : Fin 8) (w : Nat), Executes (s.ch c) e w ∧ w / 4096 = 0 ∧ w / 128 % 8 = 2) ∧
    (∃ (s : State) (c : Ch) (e : Fin 8) (w : Nat), Executes (s.ch c) e w ∧ w / 4096 = 0 ∧ w / 128 % 8 = 7) ∧
    (∃ (s : State) (c : Ch) (e : Fin 8) (w : Nat), Executes (s.ch c) e w ∧ w / 4096 = 0 ∧ w / 128 % 8 = 7) ∧
    (∃ (s : State) (c : Ch) (e : Fin 8) (w p : Nat), Executes (s.ch c) e w ∧ w / 4096 = 10 ∧ w % 1024 = p ∧ p < 24) ∧
    (∃ (s : State) (c : Ch) (e : Fin 8) (w i : Nat), Executes (s.ch c) e w ∧ w / 4096 = 9 ∧ w % 1024 = i ∧ i < 8) ∧
    (∃ (s : State) (c : Ch) (e : Fin 8) (w p : Nat), Executes (s.ch c) e w ∧ w / 4096 = 8 ∧ w % 1024 = 256 + p ∧ p < 24) ∧
    (∃ (s : State) (c : Ch) (e : Fin 8) (w p : Nat), Executes (s.ch c) e w ∧ w / 4096 = 8 ∧ w % 1024 = 256 + p ∧ p < 24) ∧
    (∃ (s : State) (c : Ch) (e : Fin 8) (w p : Nat), Executes (s.ch c) e w ∧ w / 4096 = 8 ∧ w % 1024 = 256 + p ∧ p < 24) ∧
    (∃ (s : State) (c : Ch) (e : Fin 8) (b : List (BitVec 24)) (w p : Nat), Executes (s.ch c) e w ∧ w / 4096 = 1 ∧ w %
      1024 = 64 + p ∧ p < 24 ∧ (levels s c b).getLsbD p = false) :=
  ⟨⟨pw 0x8105 0 fun g => { g with delay := 3 }, .ch0, 2, by decide +kernel⟩,
   ⟨pw 0xB105 0 id, .ch0, 2, 0xB105, by decide +kernel⟩,
   ⟨pw 0xF500 0 id, .ch0, 2, 0xF500, by decide +kernel⟩,
   ⟨pw 0x6634 0 id, .ch0, 2, 0x6634, by decide +kernel⟩,
   ⟨pw 0 0x6A34 (fun g => { g with pc := 1, p2 := 9 }), .ch0, 2, 0x6A34, by decide +kernel⟩,
   ⟨pw 0x0C34 0 id, .ch0, 2, 0x0C34, by decide +kernel⟩,
   ⟨pw 0x0D34 0 id, .ch0, 2, 0x0D34, by decide +kernel⟩,
   ⟨pw 0x0D34 0 (fun g => { g with c0 := 2 }), .ch0, 2, 0x0D34, by decide +kernel⟩,
   ⟨pw 0x0FB4 0 id, .ch0, 2, 0x0FB4, by decide +kernel⟩,
   ⟨pw 0x0FB4 0 (fun g => { g with n := 40 }), .ch0, 2, 0x0FB4, by decide +kernel⟩,
   ⟨pw 0xA403 0 id, .ch0, 2, 0xA403, 3, by decide +kernel⟩,
   ⟨pw 0x9405 0 id, .ch0, 2, 0x9405, 5, by decide +kernel⟩,
   ⟨pw 0x8502 0 id, .ch0, 2, 0x8502, 2, by decide +kernel⟩,
   ⟨pw 0x8503 0 id, .ch0, 2, 0x8503, 3, by decide +kernel⟩,
   ⟨pw 0x8517 0 id, .ch0, 2, 0x8517, 23, by decide +kernel⟩,
   ⟨pw 0x1043 0 id, .ch0, 2, [0xFFF7, 0xFFF7, 0xFFF7], 0x1043, 3, by decide +kernel⟩⟩

theorem witness_PawnControls :
    (∃ (s : State) (snd : Sender) (c : Ch), s.reaches snd c ∧ Own snd ∧ Free s c pgPAWN ∧ (s.ch c).live pgPAWN = true) ∧
    (∃ (s : State) (snd : Sender) (c : Ch), s.reaches snd c ∧ Own snd ∧ Free s c pgPAWN ∧ (s.ch c).live pgPAWN = true) ∧
    (∃ (s : State) (snd : Sender) (c : Ch), s.reaches snd c ∧ Own snd ∧ Free s c pgPAWN ∧ (s.ch c).live pgPAWN = true) ∧
    (∃ (s : State) (snd : Sender) (c : Ch), s.reaches snd c ∧ Own snd ∧ Free s c pgPAWN ∧ (s.ch c).live pgPAWN = false) ∧
    (∃ (s : State) (snd : Sender) (c : Ch), s.reaches snd c ∧ Own snd ∧ Free s c pgPAWN ∧ (s.ch c).live pgPAWN = false) ∧
    (∃ (s : State) (snd : Sender) (c : Ch), s.reaches snd c ∧ Own snd ∧ Free s c pgPAWN) ∧
    (∃ (s : State) (snd : Sender) (c : Ch) (e : Fin 8), s.reaches snd c ∧ Own snd ∧ Free s c pgPAWN ∧ ((s.ch c).eng
      e.val).depth ≠ 1 ∧ (s.ch c).drainOn (e.val) true = false) ∧
    (∃ (s : State) (snd : Sender) (c : Ch) (e : Fin 8), s.reaches snd c ∧ Own snd ∧ Free s c pgPAWN ∧ ((s.ch c).eng
      e.val).depth ≠ 1 ∧ (s.ch c).drainOn (e.val) true = false) ∧
    (∃ (s : State) (snd : Sender) (c : Ch) (e : Fin 8), s.reaches snd c ∧ Own snd ∧ Free s c pgPAWN ∧ ((s.ch c).eng
      e.val).depth ≠ 1 ∧ (s.ch c).drainOn (e.val) true = false) ∧
    (∃ (s : State) (snd : Sender) (c : Ch) (e : Fin 8), s.reaches snd c ∧ Own snd ∧ Free s c pgPAWN ∧ ((s.ch c).eng
      e.val).depth ≠ 2 ∧ (s.ch c).drainOn (e.val) false = false) ∧
    (∃ (s : State) (snd : Sender) (c : Ch) (e : Fin 8), s.reaches snd c ∧ Own snd ∧ Free s c pgPAWN ∧ ((s.ch c).eng
      e.val).depth ≠ 2 ∧ (s.ch c).drainOn (e.val) false = false) ∧
    (∃ (s : State) (snd : Sender) (c : Ch) (e : Fin 8), s.reaches snd c ∧ Own snd ∧ Free s c pgPAWN ∧ (((s.ch c).eng
      e.val).depth = 1 ∨ (s.ch c).drainOn (e.val) true = true)) ∧
    (∃ (s : State) (snd : Sender) (c : Ch) (e : Fin 8), s.reaches snd c ∧ Own snd ∧ Free s c pgPAWN ∧ (((s.ch c).eng
      e.val).depth = 2 ∨ (s.ch c).drainOn (e.val) false = true)) ∧
    (∃ (s : State) (snd : Sender) (c : Ch), s.reaches snd c ∧ Own snd ∧ Free s c pgPAWN) ∧
    (∃ (s : State) (snd : Sender) (c : Ch), s.reaches snd c ∧ Own snd ∧ Free s c pgPAWN) ∧
    (∃ (s : State) (c : Ch) (e : Fin 8) (w : Word) (ws : List Word), (s.ch c).live pgPAWN = true ∧ (s.ch c).drainOn
      (e.val) false = true ∧ (s.ch c).drainStopped e.val = false ∧ ((s.ch c).eng e.val).rx = w :: ws ∧ ((s.ch c).drainHw
      e.val + 4) % (s.ch c).drainBytes e.val ≠ (s.ch c).drainSw e.val ∧ (s.ch c).ecc = Ecc.reset ∧ (s.ch c).settled
      mPAWN ((s.ch c).drainBase e.val + (s.ch c).drainHw e.val) 4 true ≠ Grant.refused) ∧
    (∃ (s : State) (c : Ch) (e : Fin 8) (w : Word) (ws : List Word), (s.ch c).live pgPAWN = true ∧ (s.ch c).drainOn
      (e.val) false = true ∧ (s.ch c).drainStopped e.val = false ∧ ((s.ch c).eng e.val).rx = w :: ws ∧ ((s.ch c).drainHw
      e.val + 4) % (s.ch c).drainBytes e.val ≠ (s.ch c).drainSw e.val ∧ (s.ch c).ecc = Ecc.reset ∧ (s.ch c).settled
      mPAWN ((s.ch c).drainBase e.val + (s.ch c).drainHw e.val) 4 true = Grant.refused) ∧
    (∃ (s : State) (c : Ch) (e : Fin 8), (s.ch c).live pgPAWN = true ∧ (s.ch c).drainOn (e.val) true = true ∧ (s.ch
      c).drainStopped e.val = false ∧ (s.ch c).drainHw e.val ≠ (s.ch c).drainSw e.val ∧ ((s.ch c).eng e.val).tx.length <
      ((s.ch c).eng e.val).txCap ∧ (s.ch c).ecc = Ecc.reset ∧ (s.ch c).settled mPAWN ((s.ch c).drainBase e.val + (s.ch
      c).drainHw e.val) 4 false ≠ Grant.refused ∧ (s.ch c).canWatches Unit2.u0 = false ∧ (s.ch c).canWatches Unit2.u1 =
      false) ∧
    (∃ (s : State) (c : Ch) (e : Fin 8), (s.ch c).live pgPAWN = false ∨ (s.ch c).drainOn (e.val) false = false ∨ (s.ch
      c).drainStopped e.val = true ∨ ((s.ch c).eng e.val).rx = [] ∨ ((s.ch c).drainHw e.val + 4) % (s.ch c).drainBytes
      e.val = (s.ch c).drainSw e.val) ∧
    (∃ (s : State) (c : Ch) (e : Fin 8), (s.ch c).live pgPAWN = false ∨ (s.ch c).drainOn (e.val) true = false ∨ (s.ch
      c).drainStopped e.val = true ∨ ((s.ch c).eng e.val).txCap ≤ ((s.ch c).eng e.val).tx.length ∨ (s.ch c).drainHw
      e.val = (s.ch c).drainSw e.val) ∧
    (∃ (s : State) (c : Ch) (e : Fin 8), (s.ch c).live pgPAWN = true ∧ (s.ch c).drainOn (e.val) true = true ∧ (s.ch
      c).drainStopped e.val = false ∧ (s.ch c).drainHw e.val ≠ (s.ch c).drainSw e.val ∧ ((s.ch c).eng e.val).tx.length <
      ((s.ch c).eng e.val).txCap ∧ (s.ch c).settled mPAWN ((s.ch c).drainBase e.val + (s.ch c).drainHw e.val) 4 false =
      Grant.refused) ∧
    (∃ (s : State) (snd : Sender) (c : Ch), s.reaches snd c ∧ Own snd ∧ Free s c pgPAWN) :=
  ⟨⟨st1, .pf, .ch0, by decide +kernel⟩,
   ⟨st1, .pf, .ch0, by decide +kernel⟩,
   ⟨st1, .pf, .ch0, by decide +kernel⟩,
   ⟨st1.k0 (regs [(0x10, 8, 0)]), .pf, .ch0, by decide +kernel⟩,
   ⟨st1.k0 (regs [(0x10, 8, 0)]), .pf, .ch0, by decide +kernel⟩,
   ⟨st1, .pf, .ch0, by decide +kernel⟩,
   ⟨st1, .pf, .ch0, 2, by decide +kernel⟩,
   ⟨pw 0 0 (fun g => { g with tx := List.replicate 8 1 }), .rook, .ch0, 2, by decide +kernel⟩,
   ⟨pw 0 0 (fun g => { g with tx := List.replicate 7 1 }), .rook, .ch0, 2, by decide +kernel⟩,
   ⟨st1, .pf, .ch0, 2, by decide +kernel⟩,
   ⟨pw 0 0 (fun g => { g with rx := [5, 6, 7] }), .pf, .ch0, 2, by decide +kernel⟩,
   ⟨pw 0 0 (fun g => { g with depth := 1 }), .pf, .ch0, 2, by decide +kernel⟩,
   ⟨pw 0 0 (fun g => { g with depth := 2 }), .pf, .ch0, 2, by decide +kernel⟩,
   ⟨st1.k0 (regs [(0x10, 0x58, 0xFFFF)]), .pf, .ch0, by decide +kernel⟩,
   ⟨st1.k0 (regs [(0x10, 0x4C, 0xF3)]), .pf, .ch0, by decide +kernel⟩,
   ⟨dr 1, .ch0, 2, 5, [6, 7], by decide +kernel⟩,
   ⟨refused 1, .ch0, 2, 5, [6, 7], by decide +kernel⟩,
   ⟨(dr 3).k0 fun k => { k with sram := [(0x1000440, 5), (0x1000443, 9)] }, .ch0, 2, by decide +kernel⟩,
   ⟨dr 3, .ch0, 2, by decide +kernel⟩,
   ⟨dr 1, .ch0, 2, by decide +kernel⟩,
   ⟨refused 3, .ch0, 2, by decide +kernel⟩,
   ⟨(dr 3).k0 (regs [(0x10, 0x180+0x30, 0x201)]), .pf, .ch0, by decide +kernel⟩⟩

theorem witness_DieUnits :
    (∃ (s : State) (snd : Sender) (c : Ch), s.reaches snd c ∧ Own snd ∧ Free s c pgDIE ∧ (s.ch c).enabled pgDIE = true) ∧
    (∃ (s : State) (snd : Sender) (c : Ch), s.reaches snd c ∧ Own snd ∧ Free s c pgDIE ∧ (s.ch c).enabled pgDIE = true) ∧
    (∃ (s : State) (snd : Sender) (c : Ch), s.reaches snd c ∧ Own snd ∧ Free s c pgDIE ∧ (s.ch c).enabled pgDIE = true) ∧
    (∃ (s : State) (snd : Sender) (c : Ch), s.reaches snd c ∧ Own snd ∧ Free s c pgDIE ∧ (s.ch c).enabled pgDIE = true) ∧
    (∃ (s : State) (snd : Sender) (c : Ch), s.reaches snd c ∧ Own snd ∧ Free s c pgDIE ∧ (s.ch c).enabled pgDIE = true) ∧
    (∃ (s : State) (snd : Sender) (c : Ch), s.reaches snd c ∧ Own snd ∧ Free s c pgDIE ∧ (s.ch c).enabled pgDIE = true) ∧
    (∃ (s : State) (snd : Sender) (c : Ch) (u : Fin 8) (v : Word), s.reaches snd c ∧ Own snd ∧ Free s c pgDIE ∧ (s.ch
      c).rejects pgDIE (dieU u.val + 8) v = false) ∧
    (∃ (s : State) (snd : Sender) (c : Ch) (u : Fin 8) (v : Word), s.reaches snd c ∧ Own snd ∧ Free s c pgDIE ∧ (s.ch
      c).rejects pgDIE (dieU u.val + 8) v = false) ∧
    (∃ (s : State) (snd : Sender) (c : Ch), s.reaches snd c ∧ Own snd ∧ Free s c pgDIE ∧ (s.ch c).enabled pgDIE = false) :=
  ⟨⟨di, .pf, .ch0, by decide +kernel⟩,
   ⟨di, .pf, .ch0, by decide +kernel⟩,
   ⟨di, .pf, .ch0, by decide +kernel⟩,
   ⟨di, .pf, .ch0, by decide +kernel⟩,
   ⟨di, .pf, .ch0, by decide +kernel⟩,
   ⟨di, .pf, .ch0, by decide +kernel⟩,
   ⟨di, .pf, .ch0, 1, 0x12345678, by decide +kernel⟩,
   ⟨di, .pf, .ch0, 4, 0x78, by decide +kernel⟩,
   ⟨demo, .pf, .ch0, by decide +kernel⟩⟩

theorem witness_CarryCheck :
    (∃ (s : State) (snd : Sender) (c : Ch) (v : Word), s.reaches snd c ∧ Own snd ∧ Free s c pgCARRY ∧ inSram
      (BitVec.toNat v / 64 * 64) 64 = true ∧ (s.ch c).carryOps = []) ∧
    (∃ (s : State) (c : Ch) (snd : Sender) (b : Nat), (s.ch c).boot = Boot.run ∧ (s.ch c).carryOps =
      [{ snd := snd, retag := false, block := b }] ∧ (s.ch c).ecc = Ecc.reset ∧ (s.ch c).settled (carryMaster snd)
      (SRAM0 + b * 64) 64 false ≠ Grant.refused) ∧
    (∃ (s : State) (c : Ch) (snd : Sender) (b : Nat), (s.ch c).boot = Boot.run ∧ (s.ch c).carryOps =
      [{ snd := snd, retag := false, block := b }] ∧ (s.ch c).ecc = Ecc.reset ∧ (s.ch c).settled (carryMaster snd)
      (SRAM0 + b * 64) 64 false ≠ Grant.refused) ∧
    (∃ (s : State) (snd : Sender) (c : Ch) (v : Word), s.reaches snd c ∧ Own snd ∧ Free s c pgCARRY ∧ inSram
      (BitVec.toNat v / 64 * 64) 64 = true ∧ (s.ch c).carryOps = [] ∧ (s.ch c).ecc = Ecc.reset ∧ (s.ch c).settled
      (carryMaster snd) (BitVec.toNat v / 64 * 64) 64 true ≠ Grant.refused) ∧
    (∃ (s : State) (snd : Sender) (c : Ch) (v : Word), s.reaches snd c ∧ Own snd ∧ Free s c pgCARRY ∧ inSram
      (BitVec.toNat v / 64 * 64) 64 = true ∧ (s.ch c).carryOps ≠ []) ∧
    (∃ (s : State) (snd : Sender) (c : Ch) (v : Word), s.reaches snd c ∧ Own snd ∧ Free s c pgCARRY ∧ inSram
      (BitVec.toNat v / 64 * 64) 64 = true ∧ (s.ch c).carryOps ≠ []) ∧
    (∃ (s : State) (snd : Sender) (c : Ch) (v : Word), s.reaches snd c ∧ Own snd ∧ Free s c pgCARRY ∧ inSram
      (BitVec.toNat v / 64 * 64) 64 = false) ∧
    (∃ (s : State) (snd : Sender) (c : Ch) (v : Word), s.reaches snd c ∧ Own snd ∧ Free s c pgCARRY ∧ inSram
      (BitVec.toNat v / 64 * 64) 64 = false) ∧
    (∃ (s : State) (c : Ch) (snd : Sender) (b : Nat), (s.ch c).carryOps = [{ snd := snd, retag := false, block := b }] ∧
      (s.ch c).settled (carryMaster snd) (SRAM0 + b * 64) 64 false = Grant.refused) ∧
    (∃ (s : State) (c : Ch), (s.ch c).carryOps = []) ∧
    (∃ (s : State) (c : Ch), (s.ch c).boot = Boot.run ∧ Free s c pgCARRY) ∧
    (∃ (s : State) (snd : Sender) (c : Ch), s.reaches snd c ∧ (snd = Sender.pf ∨ snd = Sender.pf4 ∧ (s.ch c).granted =
      true) ∧ Free s c pgCARRY) :=
  ⟨⟨demo, .rook, .ch0, 0x1000047, by decide +kernel⟩,
   ⟨pr 3, .ch0, .rook, 1, by decide +kernel⟩,
   ⟨pr 0, .ch0, .rook, 1, by decide +kernel⟩,
   ⟨idle, .rook, .ch0, 0x1000047, by decide +kernel⟩,
   ⟨pr 3, .rook, .ch0, 0x1000047, by decide +kernel⟩,
   ⟨pr 3, .rook, .ch0, 0x1000047, by decide +kernel⟩,
   ⟨pr 3, .rook, .ch0, 0x47, by decide +kernel⟩,
   ⟨pr 3, .rook, .ch0, 0x47, by decide +kernel⟩,
   ⟨(pr 3).k0 (regs [(3, 0x40, 0x100)]), .ch0, .rook, 1, by decide +kernel⟩,
   ⟨demo, .ch0, by decide +kernel⟩,
   ⟨demo.k0 (regs [(0xF0, 0x44, 7)]), .ch0, by decide +kernel⟩,
   ⟨demo.k0 (regs [(0xF0, 0x44, 7)]), .pf, .ch0, by decide +kernel⟩⟩

end EngineSide

/-! ## Ethernet, classifier, shaping -/

namespace NetSide

def mkF (n : Nat) : List Byte :=
  let f := [0x02, 0x34, 0x56, 0x78, 0x9A, 0xBC, 1, 2, 3, 4, 5, 6, 8, 0] ++ (List.range n).map fun i => BitVec.ofNat 8 i
  f ++ bytesLE 4 (crc32 f)

def eb (p : Nat) :=
  (en [p, 0x28, 0x30] demo).k0 fun k => regs [(p, 0x44, 5), (p, 0x48, 0x78563402), (p, 0x4C, 0xBC9A), (p, 0x58, 0x30007),
      (0x28, 0x7c, 0x1020000), (0x28, 0x80, 0x401), (3, 0x40, 0x900), (p, 0x100, 4)]
      { k with cls := { k.cls with free := [1, 5, 6, 7] } }

def ea := eb 0x20

def other := ea.k0 (regs [(0x20, 0x48, 0)])

def ring := ea.k0 (regs [(pgPRP, 0x040, 2)])

def own := ring.k0 (regs [(0x20, 0x48, 0x04030201), (0x20, 0x4C, 0x0605)])

def q1 : QFrame := ⟨.ring 0x53, 0x1020010, 60⟩

def q2 : QFrame := ⟨.ring 0x63, 7, 60⟩

def et (p : Nat) (up : Bool) (bad : Bool) (q : QFrame) :=
  (eb p).k0 fun k => regs [(p, 0x44, if up then 5 else 0), (3, 0x40, 0x900)] { k with
      queues := k.queues.setIfInBounds (8*(p%16)+3) [q, q2], tagDiff := if bad then [(0x801, 9)] else [],
      sram := [(0x1020011, 4)], gatesA := ⟨0xFF, 0, false⟩, gatesB := ⟨0xFF, 0, false⟩ ,
      txRings := k.txRings.setIfInBounds (8*(p%16)+3) ⟨[⟨5, 0x1020010, 60, false, false, none, true, none⟩], 6, []⟩ }

def fwd (tags : List Word) : QFrame := ⟨.pass .b (body (mkF 50)) tags, 0, 64⟩

def passing (tags : List Word) :=
  (et 0x20 true false (fwd tags)).k0 fun k => { k with ethB := { k.ethB with rxUsed := 500 } }

def txx : TxFrame := ⟨3, q1, mkF 50, false, false⟩

def ee := (et 0x20 true false q1).k0 fun k => { k with ethA := { k.ethA with tx := some txx, rx := some ⟨k.regs, 0⟩ } }

def fr1 : RxFrame := ⟨0x1020800, 60, .a, 55, mkF 50, false⟩

def cs := (en [0x28, 0x30] demo).k0 fun k => regs [(0x28, 0x40, 5), (0x28, 0x44, 0x1010000), (0x28, 0x48, 0x1040000), (3,
    0x40, 0xA00), (0x28, 0x7c, 0x1020000), (0x28, 0x80, 0x401), (0x28, 0x6c, 0x1030000), (0x28, 0x70, 0x41), (3, 0x44,
    0xA00)]
    { k with cls := { k.cls with free := [3], backlog := [fr1, fr1], version := 4 }, sram := [(0x1010050, 2), (0x101005E, 7)] }

def wk (r : Option WalkEnd) : Walk := ⟨fr1, 4, (cs.ch .ch0).walkCfg, ⟨5, 0, List.replicate 16 0, 3, 5, false, none⟩,
    false, r⟩

def ws (r : Option WalkEnd) := cs.k0 fun k => { k with cls := { k.cls with walk := some (wk r) } }

def wa (d : Nat) : Action := ⟨d, .b, 3, false, 0, 0, 0, 9⟩

def exn : Option WalkEnd := some (.exc 3 8 0 0)

def fw := cs.k0 fun k => { k with cls := { k.cls with fwHeld := [4, 2, 1] } }

def it0 : TxItem := ⟨5, 0x1020010, 60, false, false, some 3, true, none⟩

def tr := (en [0x30, 0x20] demo).k0 fun k => regs [(0x30, qReg .a 3+0x10, 0x1010000), (0x30, qReg .a 3 + 0x14, 0x41),
    (0x30, qReg .a 3+0x18, 9), (0x30, qReg .a 3+0x1c, 0x4), (3, 0x40, 0x900)]
  { k with
    txRings := k.txRings.set 3 ⟨[it0], 6, [(6, 2), (7, 2)]⟩, queues := k.queues.set 3 [⟨.ring 0x53, 0x1020010, 60⟩, q2],
    wh := { k.wh with count := 9 }, sram := [(0x1010062, 2), (0x1010063, 1), (0x1010064, 60), (0x1010068, 3)] }

def ent : List Byte := [0, 0, 2, 1, 60, 0, 0, 0, 3, 0, 0, 0, 0, 0, 0, 0]

def parsed (s : State) (e : List Byte) : TxItem := ((s.ch .ch0).txParse .a 3 e 2).1

def trU := tr.k0 (regs [(3, 0x40, 0x100)])

def blocked := tr.k0 fun k => regs [(0x30, qReg .a 3+0x10, 0x1010000)]
    { k with sram := (k.sram.write 0x1010068 [some 0]) }

def badEnt : List Byte := ent.set 11 1

def trBad := tr.k0 fun k => { k with sram := k.sram.write 0x101006B [some 1] }

def tc := tr.k0 fun k => { k with txRings := k.txRings.set 3 ⟨[{ it0 with outcome := some 2 }], 6, [(6, 2), (7, 2)]⟩ }

def ga := tr.k0 fun k => regs [(0x30, 0x40, 0x40000), (0x30, 0x300, 0x01000000), (0x30, 0x304, 0x55000100), (0x30, 0x308,
    0xAA000080), (1, 0x44, 100000)]
    { k with gatesA := ⟨1, 0, false⟩, wh := { k.wh with elapsed := 0x40000000000000, next := 2^80 } }

theorem witness_EthernetFrames :
    (∃ (s : State) (c : Ch) (p : Port), (s.ch c).hears p = true ∧ (s.node c).ethInput p = true) ∧
    (∃ (s : State) (c : Ch) (p : Port), (s.ch c).hears p = false ∨ (s.node c).ethInput p = false) ∧
    (∃ (s : State) (c : Ch) (p : Port), (s.ch c).hears p = false ∨ (s.node c).ethInput p = false) ∧
    (∃ (s : State) (c : Ch) (p : Port) (frame : List Byte) (err : Bool) (i : Nat) (l : List Nat), Receives s c p frame ∧
      (atFirst (s.ch c) p).rxError p frame err = none ∧ (atFirst (s.ch c) p).portMode = 0 ∧ (atFirst (s.ch c)
      p).addressed p (body frame) = true ∧ (atFirst (s.ch c) p).tsFilt p = 0 ∧ ((s.ch c).admits ((s.ch c).admitClass p
      (body frame)) (body frame).length).fst = true ∧ (s.ch c).cls.free = i :: l ∧ (s.ch c).ecc = Ecc.reset ∧ (s.ch
      c).settled mETH ((s.ch c).bufAddr i) (body frame).length true ≠ Grant.refused) ∧
    (∃ (s : State) (c : Ch) (p : Port) (frame : List Byte) (err : Bool) (i : Nat) (l : List Nat), Receives s c p frame ∧
      (atFirst (s.ch c) p).rxError p frame err = none ∧ (atFirst (s.ch c) p).portMode = 0 ∧ (atFirst (s.ch c)
      p).addressed p (body frame) = true ∧ (atFirst (s.ch c) p).tsFilt p = 0 ∧ ((s.ch c).admits ((s.ch c).admitClass p
      (body frame)) (body frame).length).fst = true ∧ (s.ch c).cls.free = i :: l ∧ (s.ch c).ecc = Ecc.reset ∧ (s.ch
      c).settled mETH ((s.ch c).bufAddr i) (body frame).length true ≠ Grant.refused) ∧
    (∃ (s : State) (c : Ch) (p : Port) (frame : List Byte) (err : Bool), Receives s c p frame ∧ (atFirst (s.ch c)
      p).rxError p frame err = none ∧ (atFirst (s.ch c) p).portMode = 0 ∧ (atFirst (s.ch c) p).addressed p (body frame)
      = true ∧ ((s.ch c).admits ((s.ch c).admitClass p (body frame)) (body frame).length).fst = false) ∧
    (∃ (s : State) (c : Ch) (p : Port) (frame : List Byte) (err : Bool), Receives s c p frame ∧ (atFirst (s.ch c)
      p).rxError p frame err = none ∧ (atFirst (s.ch c) p).portMode ≠ 2 ∧ (atFirst (s.ch c) p).addressed p (body frame)
      = false) ∧
    (∃ (s : State) (c : Ch) (p : Port) (frame : List Byte) (err : Bool) (i : Nat), Receives s c p frame ∧ (atFirst (s.ch
      c) p).rxError p frame err = some i) ∧
    (∃ (s : State) (c : Ch) (p : Port) (frame : List Byte), (s.ch c).hears p = true ∧ (s.node c).ethInput p = true ∧
      32768 < ((s.ch c).eth p).rxUsed + frame.length) ∧
    (∃ (s : State) (c : Ch) (p : Port) (frame : List Byte) (err : Bool), Receives s c p frame ∧ (atFirst (s.ch c)
      p).rxError p frame err = none ∧ (atFirst (s.ch c) p).portMode = 2 ∧ srcAddr (body frame) = (atFirst (s.ch c)
      p).nodeAddr p) ∧
    (∃ (s : State) (c : Ch) (p : Port) (frame : List Byte) (err : Bool), Receives s c p frame ∧ (atFirst (s.ch c)
      p).rxError p frame err = none ∧ (atFirst (s.ch c) p).portMode = 2 ∧ srcAddr (body frame) ≠ (atFirst (s.ch c)
      p).nodeAddr p ∧ (atFirst (s.ch c) p).addressed p (body frame) = false ∧ (s.ch c).qRoom p.other (((s.ch c).reg
      (pgEth p) 92).field 0 3) = true) ∧
    (∃ (s : State) (c : Ch) (p : Port) (cl m : Nat) (q : QFrame) (rest : List QFrame), (s.ch c).live (pgEth p) = true ∧
      (s.ch c).live pgSHAPE = true ∧ ((s.ch c).eth p).tx = none ∧ (s.ch c).pairs p = false ∧ (List.find? (fun (x : Nat)
      => (s.ch c).eligible p x) [7, 6, 5, 4, 3, 2, 1, 0] = some cl) ∧ (s.ch c).queue p cl = q :: rest ∧ q.src =
      QSrc.ring m ∧ (s.ch c).ecc = Ecc.reset ∧ (s.ch c).settled mETH q.addr q.len false ≠ Grant.refused ∧ Unwatched
      (s.ch c)) ∧
    (∃ (s : State) (c : Ch) (p : Port) (cl m : Nat) (q : QFrame) (rest : List QFrame), (s.ch c).live (pgEth p) = true ∧
      (s.ch c).live pgSHAPE = true ∧ ((s.ch c).eth p).tx = none ∧ (s.ch c).pairs p = false ∧ (List.find? (fun (x : Nat)
      => (s.ch c).eligible p x) [7, 6, 5, 4, 3, 2, 1, 0] = some cl) ∧ (s.ch c).queue p cl = q :: rest ∧ q.src =
      QSrc.ring m ∧ (s.ch c).ecc = Ecc.reset ∧ (s.ch c).settled mETH q.addr q.len false ≠ Grant.refused ∧ Unwatched
      (s.ch c)) ∧
    (∃ (s : State) (c : Ch) (p : Port) (cl m : Nat) (q : QFrame) (rest : List QFrame), (s.ch c).live (pgEth p) = true ∧
      (s.ch c).live pgSHAPE = true ∧ ((s.ch c).eth p).tx = none ∧ (s.ch c).pairs p = false ∧ (List.find? (fun (x : Nat)
      => (s.ch c).eligible p x) [7, 6, 5, 4, 3, 2, 1, 0] = some cl) ∧ (s.ch c).queue p cl = q :: rest ∧ q.src =
      QSrc.ring m ∧ (s.ch c).ecc = Ecc.reset ∧ (s.ch c).settled mETH q.addr q.len false ≠ Grant.refused ∧ Unwatched
      (s.ch c)) ∧
    (∃ (s : State) (c : Ch) (p rx : Port) (cl : Nat) (q : QFrame) (rest : List QFrame) (bytes : List Byte) (tags : List
      Word), (s.ch c).live (pgEth p) = true ∧ (s.ch c).live pgSHAPE = true ∧ ((s.ch c).eth p).tx = none ∧ (s.ch c).pairs
      p = false ∧ (List.find? (fun (x : Nat) => (s.ch c).eligible p x) [7, 6, 5, 4, 3, 2, 1, 0] = some cl) ∧ (s.ch
      c).queue p cl = q :: rest ∧ q.src = QSrc.pass rx bytes tags ∧ (s.ch c).linkUp p = true) ∧
    (∃ (s : State) (c : Ch) (p rx : Port) (cl : Nat) (q : QFrame) (rest : List QFrame) (bytes : List Byte) (tags : List
      Word), (s.ch c).live (pgEth p) = true ∧ (s.ch c).live pgSHAPE = true ∧ ((s.ch c).eth p).tx = none ∧ (s.ch c).pairs
      p = false ∧ (List.find? (fun (x : Nat) => (s.ch c).eligible p x) [7, 6, 5, 4, 3, 2, 1, 0] = some cl) ∧ (s.ch
      c).queue p cl = q :: rest ∧ q.src = QSrc.pass rx bytes tags ∧ (s.ch c).linkUp p = true) ∧
    (∃ (s : State) (c : Ch) (p : Port), (s.ch c).live (pgEth p) = false ∨ (s.ch c).live pgSHAPE = false ∨ ((s.ch c).eth
      p).tx ≠ none ∨ ∀ (x : Nat), x < 8 → (s.ch c).eligible p x = false) ∧
    (∃ (s : State) (c : Ch) (p : Port) (x : TxFrame), (s.ch c).boot = Boot.run ∧ ((s.ch c).eth p).tx = some x ∧ (s.ch
      c).prp.pair = none ∧ x.pair = false) ∧
    (∃ (s : State) (c : Ch) (p : Port), (s.ch c).boot ≠ Boot.run ∨ ((s.ch c).eth p).tx = none) :=
  ⟨⟨ea, .ch0, .a, by decide +kernel⟩,
   ⟨demo, .ch0, .a, by decide +kernel⟩,
   ⟨demo, .ch0, .a, by decide +kernel⟩,
   ⟨ea, .ch0, .a, mkF 50, false, 1, [5, 6, 7], by decide +kernel⟩,
   ⟨eb 0x21, .ch0, .b, mkF 50, false, 1, [5, 6, 7], by decide +kernel⟩,
   ⟨ea.k0 fun k => { k with cls := { k.cls with free := [] } }, .ch0, .a, mkF 50, false, by decide +kernel⟩,
   ⟨other, .ch0, .a, mkF 50, false, by decide +kernel⟩,
   ⟨ea, .ch0, .a, mkF 20, false, 3, by decide +kernel⟩,
   ⟨ea.k0 fun k => { k with ethA := { k.ethA with rxUsed := 32760 } }, .ch0, .a, mkF 50, by decide +kernel⟩,
   ⟨own, .ch0, .a, mkF 50, false, by decide +kernel⟩,
   ⟨ring.k0 (regs [(0x20, 0x48, 0)]), .ch0, .a, mkF 50, false, by decide +kernel⟩,
   ⟨et 0x20 true false q1, .ch0, .a, 3, 0x53, q1, [q2], by decide +kernel⟩,
   ⟨et 0x20 true true q1, .ch0, .a, 3, 0x53, q1, [q2], by decide +kernel⟩,
   ⟨et 0x21 false true q1, .ch0, .b, 3, 0x53, q1, [q2], by decide +kernel⟩,
   ⟨passing (frameTags (body (mkF 50))), .ch0, .a, .b, 3, fwd (frameTags (body (mkF 50))), [q2], body (mkF 50),
     frameTags (body (mkF 50)), by decide +kernel⟩,
   ⟨passing [9], .ch0, .a, .b, 3, fwd [9], [q2], body (mkF 50), [9], by decide +kernel⟩,
   ⟨demo, .ch0, .a, by decide +kernel⟩,
   ⟨ee, .ch0, .a, txx, by decide +kernel⟩,
   ⟨demo, .ch0, .a, by decide +kernel⟩⟩

theorem witness_EthernetPorts :
    (∃ (s : State) (snd : Sender) (c : Ch) (p : Port) (e : TsEntry) (l : List TsEntry), s.reaches snd c ∧ Reader s snd c
      ∧ Free s c (pgEth p) ∧ ((s.ch c).eth p).rxTs = e :: l) ∧
    (∃ (s : State) (snd : Sender) (c : Ch) (p : Port) (e : TsEntry) (l : List TsEntry), s.reaches snd c ∧ Reader s snd c
      ∧ Free s c (pgEth p) ∧ ((s.ch c).eth p).rxTs = e :: l) ∧
    (∃ (s : State) (snd : Sender) (c : Ch) (p : Port) (e : TsEntry) (l : List TsEntry), s.reaches snd c ∧ Reader s snd c
      ∧ Free s c (pgEth p) ∧ ((s.ch c).eth p).txTs = e :: l) ∧
    (∃ (s : State) (snd : Sender) (c : Ch) (p : Port), s.reaches snd c ∧ Reader s snd c ∧ Free s c (pgEth p) ∧ ((s.ch
      c).eth p).rxTs = []) ∧
    (∃ (s : State) (snd : Sender) (c : Ch) (p : Port), s.reaches snd c ∧ Reader s snd c ∧ Free s c (pgEth p) ∧ ((s.ch
      c).eth p).txTs = []) ∧
    (∃ (s : State) (c : Ch) (p : Port) (up : Bool), (s.ch c).live (pgEth p) = true ∧ (up = false ∨ (s.node c).ethInput p
      = true)) ∧
    (∃ (s : State) (c : Ch) (p : Port) (up : Bool), (s.ch c).live (pgEth p) = true ∧ (up = false ∨ (s.node c).ethInput p
      = true)) ∧
    (∃ (s : State) (c : Ch) (p : Port) (up : Bool), (s.ch c).live (pgEth p) = false ∨ up = true ∧ (s.node c).ethInput p
      = false) ∧
    (∃ (s : State) (snd : Sender) (c : Ch), s.reaches snd c ∧ Own snd ∧ Free s c pgETHA) ∧
    (∃ (s : State) (snd : Sender) (c : Ch), s.reaches snd c ∧ Own snd ∧ Free s c pgETHA) ∧
    (∃ (s : State) (c : Ch), (s.ch c).boot = Boot.run ∧ ((s.ch c).reg pgETHA 144).bit 31 = true) ∧
    (∃ (s : State) (c : Ch), (s.ch c).boot = Boot.run ∧ ((s.ch c).reg pgETHA 144).bit 31 = true) ∧
    (∃ (s : State) (c : Ch), (s.ch c).boot ≠ Boot.run ∨ ((s.ch c).reg pgETHA 144).bit 31 = false) ∧
    (∃ (s : State) (c : Ch) (p : Port), (s.ch c).boot = Boot.run ∧ ((s.ch c).reg pgPRP 68).bit p.num = true ∧ ((match p
      with | Port.a => (s.ch c).prp.lastA | Port.b => (s.ch c).prp.lastB) + (s.ch c).lanNs ≤ (s.ch c).nowNs)) ∧
    (∃ (s : State) (c : Ch) (p : Port), (s.ch c).boot ≠ Boot.run ∨ ((s.ch c).reg pgPRP 68).bit p.num = false ∨ (s.ch
      c).nowNs < (match p with | Port.a => (s.ch c).prp.lastA | Port.b => (s.ch c).prp.lastB) + (s.ch c).lanNs) :=
  ⟨⟨ea.k0 fun k => { k with ethA := { k.ethA with rxTs := [⟨0x123456789AB, 7, 2, 3⟩, ⟨3, 4, 5, 6⟩] } }, .rook, .ch0,
     .a, ⟨0x123456789AB, 7, 2, 3⟩, [⟨3, 4, 5, 6⟩], by decide +kernel⟩,
   ⟨ea.k0 fun k => { k with ethA := { k.ethA with rxTs := [⟨0x123456789AB, 7, 2, 3⟩, ⟨3, 4, 5, 6⟩] } }, .pf, .ch0, .a,
     ⟨0x123456789AB, 7, 2, 3⟩, [⟨3, 4, 5, 6⟩], by decide +kernel⟩,
   ⟨ea.k0 fun k => { k with ethB := { k.ethB with txTs := [⟨0x123456789AB, 7, 2, 3⟩, ⟨3, 4, 5, 6⟩] } }, .pf, .ch0, .b,
     ⟨0x123456789AB, 7, 2, 3⟩, [⟨3, 4, 5, 6⟩], by decide +kernel⟩,
   ⟨ea.k0 (regs [(0x20, 0x68, 7)]), .pf, .ch0, .a, by decide +kernel⟩,
   ⟨ea.k0 (regs [(0x20, 0x78, 7)]), .rook, .ch0, .a, by decide +kernel⟩,
   ⟨ee, .ch0, .a, false, by decide +kernel⟩,
   ⟨ee, .ch0, .a, true, by decide +kernel⟩,
   ⟨demo, .ch0, .a, true, by decide +kernel⟩,
   ⟨ee, .pf, .ch0, by decide +kernel⟩,
   ⟨ee.k0 (regs [(0x20, 0x90, 0x88123456)]), .pf, .ch0, by decide +kernel⟩,
   ⟨ee.k0 (regs [(0x20, 0x90, 0x88123456)]), .ch0, by decide +kernel⟩,
   ⟨ee.k0 (regs [(0x20, 0x90, 0x84123456)]), .ch0, by decide +kernel⟩,
   ⟨ee, .ch0, by decide +kernel⟩,
   ⟨ee.k0 fun k => regs [(0x22, 0x44, 3)] { k with tb := { k.tb with acc := 3000000000*16777216 } }, .ch0, .b, by
     decide +kernel⟩,
   ⟨demo, .ch0, .b, by decide +kernel⟩⟩

theorem witness_ClassifierWalks :
    (∃ (s : State) (c : Ch) (fr : RxFrame) (rest : List RxFrame), (s.ch c).live pgCLS = true ∧ (s.ch c).cls.walk = none
      ∧ (s.ch c).cls.backlog = fr :: rest) ∧
    (∃ (s : State) (c : Ch), (s.ch c).live pgCLS = false ∨ (s.ch c).cls.walk ≠ none ∨ (s.ch c).cls.backlog = []) ∧
    (∃ (w : Walk), w.pos.visits ≤ 24) ∧
    (∃ (s : State) (c : Ch) (w : Walk) (nd : List Byte), (s.ch c).boot = Boot.run ∧ (s.ch c).cls.walk = some w ∧ w.res =
      none ∧ w.pos.visits < 24 ∧ (s.ch c).ecc = Ecc.reset ∧ Unwatched (s.ch c) ∧ (s.ch c).settled mCLS (w.cfg.graph + 16
      * w.pos.node) 16 false ≠ Grant.refused ∧ (s.ch c).sram.read (w.cfg.graph + 16 * w.pos.node) 16 = nd ∧ (wordAt nd
      0).field 0 2 = 2) ∧
    (∃ (s : State) (c : Ch) (w : Walk) (a : Action) (r i : Nat), (s.ch c).boot = Boot.run ∧ (s.ch c).cls.walk = some w ∧
      w.res = some (WalkEnd.act a r) ∧ a.polen = false ∧ w.pos.store = none ∧ (s.ch c).bufIdx w.frame.buf = some i ∧
      a.dest = 0) ∧
    (∃ (s : State) (c : Ch) (w : Walk) (a : Action) (r i : Nat), (s.ch c).boot = Boot.run ∧ (s.ch c).cls.walk = some w ∧
      w.res = some (WalkEnd.act a r) ∧ a.polen = false ∧ w.pos.store = none ∧ (s.ch c).bufIdx w.frame.buf = some i ∧
      a.dest = 1 ∧ (s.ch c).qRoom a.port a.cls = true) ∧
    (∃ (s : State) (c : Ch) (w : Walk) (a : Action) (r i : Nat), (s.ch c).boot = Boot.run ∧ (s.ch c).cls.walk = some w ∧
      w.res = some (WalkEnd.act a r) ∧ a.polen = false ∧ w.pos.store = none ∧ (s.ch c).bufIdx w.frame.buf = some i ∧
      a.dest = 1 ∧ (s.ch c).qRoom a.port a.cls = false) ∧
    (∃ (s : State) (c : Ch) (w : Walk) (r code st fa : Nat), (s.ch c).boot = Boot.run ∧ (s.ch c).cls.walk = some w ∧
      w.res = some (WalkEnd.exc r code st fa) ∧ r < 5 ∧ ((s.ch c).reg pgCLS 112).bit 0 = true ∧ ((s.ch c).excProd + 1) %
      (s.ch c).excSize ≠ (s.ch c).excCons ∧ (s.ch c).cls.excused ≠ ((s.ch c).reg pgCLS 84).field 0 10 ∧ (s.ch c).ecc =
      Ecc.reset ∧ (s.ch c).settled mCLS (BitVec.toNat ((s.ch c).reg pgCLS 108) / 32 * 32 + 32 * (s.ch c).excProd) 32
      true ≠ Grant.refused) ∧
    (∃ (s : State) (c : Ch) (w : Walk) (r code st fa i : Nat), (s.ch c).boot = Boot.run ∧ (s.ch c).cls.walk = some w ∧
      w.res = some (WalkEnd.exc r code st fa) ∧ r < 5 ∧ (s.ch c).bufIdx w.frame.buf = some i ∧ (((s.ch c).reg pgCLS
      112).bit 0 = false ∨ ((s.ch c).excProd + 1) % (s.ch c).excSize = (s.ch c).excCons)) ∧
    (∃ (s : State) (c : Ch) (w : Walk) (r code st fa i : Nat), (s.ch c).boot = Boot.run ∧ (s.ch c).cls.walk = some w ∧
      w.res = some (WalkEnd.exc r code st fa) ∧ r < 5 ∧ (s.ch c).bufIdx w.frame.buf = some i ∧ ((s.ch c).reg pgCLS
      112).bit 0 = true ∧ ((s.ch c).excProd + 1) % (s.ch c).excSize ≠ (s.ch c).excCons ∧ (s.ch c).cls.excused = ((s.ch
      c).reg pgCLS 84).field 0 10) ∧
    (∃ (s : State) (c : Ch), (s.ch c).boot ≠ Boot.run ∨ (s.ch c).cls.walk = none) ∧
    (∃ (s : State) (snd : Sender) (c : Ch) (v : Word), s.reaches snd c ∧ Own snd ∧ Free s c pgCLS ∧ v.field 0 12 < (s.ch
      c).excSize ∧ (v.field 0 12 + (s.ch c).excSize - (s.ch c).excCons) % (s.ch c).excSize ≤ ((s.ch c).excProd + (s.ch
      c).excSize - (s.ch c).excCons) % (s.ch c).excSize) ∧
    (∃ (s : State) (snd : Sender) (c : Ch) (v : Word), s.reaches snd c ∧ Own snd ∧ Free s c pgCLS ∧ ((s.ch c).excSize ≤
      v.field 0 12 ∨ ((s.ch c).excProd + (s.ch c).excSize - (s.ch c).excCons) % (s.ch c).excSize < (v.field 0 12 + (s.ch
      c).excSize - (s.ch c).excCons) % (s.ch c).excSize)) ∧
    (∃ (s : State) (snd : Sender) (c : Ch) (v : Word) (i : Nat), s.reaches snd c ∧ Own snd ∧ Free s c pgCLS ∧ (s.ch
      c).bufIdx (BitVec.toNat v) = some i ∧ (s.ch c).cls.fwHeld.contains i = true) ∧
    (∃ (s : State) (snd : Sender) (c : Ch) (v : Word), s.reaches snd c ∧ Own snd ∧ Free s c pgCLS ∧ (s.ch c).fwHolds
      (BitVec.toNat v) = false) ∧
    (∃ (s : State) (snd : Sender) (c : Ch) (v : Word), s.reaches snd c ∧ Own snd ∧ Free s c pgCLS ∧ ((s.ch c).reg pgCLS
      112).bit 0 = false ∧ v.bit 0 = true ∧ (inSram (BitVec.toNat (((s.node c).writeFields snd pgCLS 112 (v.setBit 0
      false)).k.reg pgCLS 108) / 32 * 32) (excSize ((s.node c).writeFields snd pgCLS 112 (v.setBit 0 false)).k) = true ∧
      BitVec.toNat (((s.node c).writeFields snd pgCLS 112 (v.setBit 0 false)).k.reg pgCLS 108) / 32 * 32 % excSize
      ((s.node c).writeFields snd pgCLS 112 (v.setBit 0 false)).k = 0)) ∧
    (∃ (s : State) (snd : Sender) (c : Ch) (v : Word), s.reaches snd c ∧ Own snd ∧ Free s c pgCLS ∧ ((s.ch c).reg pgCLS
      112).bit 0 = false ∧ v.bit 0 = true ∧ (¬(inSram (BitVec.toNat (((s.node c).writeFields snd pgCLS 112 (v.setBit 0
      false)).k.reg pgCLS 108) / 32 * 32) (excSize ((s.node c).writeFields snd pgCLS 112 (v.setBit 0 false)).k) = true ∧
      BitVec.toNat (((s.node c).writeFields snd pgCLS 112 (v.setBit 0 false)).k.reg pgCLS 108) / 32 * 32 % excSize
      ((s.node c).writeFields snd pgCLS 112 (v.setBit 0 false)).k = 0))) ∧
    (∃ (s : State) (snd : Sender) (c : Ch) (v : Word), s.reaches snd c ∧ Own snd ∧ Free s c pgCLS ∧ ((s.ch c).reg pgCLS
      112).bit 0 = true ∧ (v ^^^ (s.ch c).reg pgCLS 112) &&& 240 ≠ 0) ∧
    (∃ (s : State) (snd : Sender) (c : Ch) (v : Word), s.reaches snd c ∧ Own snd ∧ Free s c pgCLS ∧ ((s.ch c).reg pgCLS
      112).bit 0 = true ∧ (v ^^^ (s.ch c).reg pgCLS 112) &&& 240 = 0) ∧
    (∃ (s : State) (snd : Sender) (c : Ch) (v : Word), s.reaches snd c ∧ Own snd ∧ Free s c pgCLS ∧ (s.ch c).poolEn =
      false ∧ v.bit 0 = true ∧ ((s.node c).writeFields snd pgCLS 128 (v.setBit 0 false)).k.poolFits ((((s.node
      c).writeFields snd pgCLS 128 (v.setBit 0 false)).k.reg pgCLS 128).field 8 4) ((((s.node c).writeFields snd pgCLS
      128 (v.setBit 0 false)).k.reg pgCLS 128).field 1 2) = true) ∧
    (∃ (s : State) (snd : Sender) (c : Ch) (v : Word), s.reaches snd c ∧ Own snd ∧ Free s c pgCLS ∧ (s.ch c).poolEn =
      false ∧ v.bit 0 = true ∧ ((s.node c).writeFields snd pgCLS 128 (v.setBit 0 false)).k.poolFits ((((s.node
      c).writeFields snd pgCLS 128 (v.setBit 0 false)).k.reg pgCLS 128).field 8 4) ((((s.node c).writeFields snd pgCLS
      128 (v.setBit 0 false)).k.reg pgCLS 128).field 1 2) = false) ∧
    (∃ (s : State) (snd : Sender) (c : Ch) (v : Word), s.reaches snd c ∧ Own snd ∧ Free s c pgCLS ∧ (s.ch c).poolEn =
      true ∧ ((v ^^^ (s.ch c).reg pgCLS 128) &&& 3846 ≠ 0 ∨ v.bit 0 = false ∧ (s.ch c).allFree = false)) ∧
    (∃ (s : State) (snd : Sender) (c : Ch) (v : Word), s.reaches snd c ∧ Own snd ∧ Free s c pgCLS ∧ (s.ch c).poolEn =
      true ∧ ((v ^^^ (s.ch c).reg pgCLS 128) &&& 3846 ≠ 0 ∨ v.bit 0 = false ∧ (s.ch c).allFree = false)) ∧
    (∃ (s : State) (snd : Sender) (c : Ch) (v : Word), s.reaches snd c ∧ Own snd ∧ Free s c pgCLS ∧ (s.ch c).poolEn =
      true ∧ (v ^^^ (s.ch c).reg pgCLS 128) &&& 3846 = 0 ∧ v.bit 0 = true) ∧
    (∃ (s : State) (snd : Sender) (c : Ch) (v : Word), s.reaches snd c ∧ Own snd ∧ Free s c pgCLS ∧ (s.ch c).poolEn =
      true ∧ (v ^^^ (s.ch c).reg pgCLS 128) &&& 3846 = 0 ∧ v.bit 0 = false ∧ (s.ch c).allFree = true) :=
  ⟨⟨cs, .ch0, fr1, [fr1], by decide +kernel⟩,
   ⟨demo, .ch0, by decide +kernel⟩,
   ⟨wk none, by decide +kernel⟩,
   ⟨ws none, .ch0, wk none, 2 :: List.replicate 13 0 ++ [7, 0], by decide +kernel⟩,
   ⟨ws (some (.act (wa 0) 0)), .ch0, wk (some (.act (wa 0) 0)), wa 0, 0, 1, by decide +kernel⟩,
   ⟨ws (some (.act (wa 1) 0)), .ch0, wk (some (.act (wa 1) 0)), wa 1, 0, 1, by decide +kernel⟩,
   ⟨(ws (some (.act (wa 1) 0))).k0 fun k => { k with queues := k.queues.set 11 (List.replicate 64 q1) }, .ch0, wk
     (some (.act (wa 1) 0)), wa 1, 0, 1, by decide +kernel⟩,
   ⟨ws exn, .ch0, wk exn, 3, 8, 0, 0, by decide +kernel⟩,
   ⟨(ws exn).k0 (regs [(0x28, 0x70, 0)]), .ch0, wk exn, 3, 8, 0, 0, 1, by decide +kernel⟩,
   ⟨(ws exn).k0 fun k => { k with cls := { k.cls with excused := 64 } }, .ch0, wk exn, 3, 8, 0, 0, 1, by
     decide +kernel⟩,
   ⟨demo, .ch0, by decide +kernel⟩,
   ⟨cs.k0 (regs [(0x28, 0x74, 5), (0x28, 0x78, 3)]), .pf, .ch0, 4, by decide +kernel⟩,
   ⟨cs.k0 (regs [(0x28, 0x74, 5), (0x28, 0x78, 3)]), .pf, .ch0, 19, by decide +kernel⟩,
   ⟨fw, .pf, .ch0, 0x1021000, 2, by decide +kernel⟩,
   ⟨fw, .pf, .ch0, 0x1021800, by decide +kernel⟩,
   ⟨cs.k0 (regs [(0x28, 0x70, 0x50), (0x28, 0x74, 0x50)]), .pf, .ch0, 0x61, by decide +kernel⟩,
   ⟨cs.k0 (regs [(0x28, 0x70, 0x50), (0x28, 0x6C, 0x20)]), .pf, .ch0, 0x61, by decide +kernel⟩,
   ⟨cs, .pf, .ch0, 0x61, by decide +kernel⟩,
   ⟨cs, .pf, .ch0, 0x40, by decide +kernel⟩,
   ⟨cs.k0 (regs [(0x28, 0x80, 0x400)]), .pf, .ch0, 0x501, by decide +kernel⟩,
   ⟨cs.k0 (regs [(0x28, 0x80, 0x400), (0x28, 0x7c, 0x13FF800)]), .pf, .ch0, 0x501, by decide +kernel⟩,
   ⟨cs, .pf, .ch0, 0x501, by decide +kernel⟩,
   ⟨cs, .pf, .ch0, 0x400, by decide +kernel⟩,
   ⟨cs, .pf, .ch0, 0x401, by decide +kernel⟩,
   ⟨cs.k0 fun k => { k with cls := { k.cls with free := List.range 16 } }, .pf, .ch0, 0x400, by decide +kernel⟩⟩

theorem witness_TransmitRings :
    (∃ (s : State) (snd : Sender) (c : Ch) (p : Port) (k : Fin 8) (v : Word), s.reaches snd c ∧ Own snd ∧ Free s c
      pgSHAPE ∧ v.field 0 10 < (s.ch c).txSize p k.val ∧ ((s.ch c).txProd p k.val + (s.ch c).txSize p k.val - (s.ch
      c).txCons p k.val) % (s.ch c).txSize p k.val ≤ (v.field 0 10 + (s.ch c).txSize p k.val - (s.ch c).txCons p k.val)
      % (s.ch c).txSize p k.val) ∧
    (∃ (s : State) (snd : Sender) (c : Ch) (p : Port) (k : Fin 8) (v : Word), s.reaches snd c ∧ Own snd ∧ Free s c
      pgSHAPE ∧ ((s.ch c).txSize p k.val ≤ v.field 0 10 ∨ (v.field 0 10 + (s.ch c).txSize p k.val - (s.ch c).txCons p
      k.val) % (s.ch c).txSize p k.val < ((s.ch c).txProd p k.val + (s.ch c).txSize p k.val - (s.ch c).txCons p k.val) %
      (s.ch c).txSize p k.val)) ∧
    (∃ (s : State) (c : Ch) (p : Port) (k : Fin 8) (e : List Byte) (w : Nat) (it : TxItem) (ok : Bool), (s.ch c).txReady
      p k.val = true ∧ (s.ch c).qRoom p k.val = true ∧ (s.ch c).ecc = Ecc.reset ∧ Unwatched (s.ch c) ∧ ((s.ch c).txRing
      p k.val).posted.head? = some (((s.ch c).txRing p k.val).fetch, w) ∧ (s.ch c).settled mETH ((s.ch c).txBase p k.val
      + 16 * ((s.ch c).txRing p k.val).fetch) 16 false ≠ Grant.refused ∧ (s.ch c).sram.read ((s.ch c).txBase p k.val +
      16 * ((s.ch c).txRing p k.val).fetch) 16 = e ∧ (s.ch c).txParse p (k.val) e w = (it, ok)) ∧
    (∃ (s : State) (c : Ch) (p : Port) (k : Fin 8) (e : List Byte) (w : Nat) (it : TxItem) (ok : Bool), (s.ch c).txReady
      p k.val = true ∧ (s.ch c).qRoom p k.val = true ∧ (s.ch c).ecc = Ecc.reset ∧ Unwatched (s.ch c) ∧ ((s.ch c).txRing
      p k.val).posted.head? = some (((s.ch c).txRing p k.val).fetch, w) ∧ (s.ch c).settled mETH ((s.ch c).txBase p k.val
      + 16 * ((s.ch c).txRing p k.val).fetch) 16 false ≠ Grant.refused ∧ (s.ch c).sram.read ((s.ch c).txBase p k.val +
      16 * ((s.ch c).txRing p k.val).fetch) 16 = e ∧ (s.ch c).txParse p (k.val) e w = (it, ok)) ∧
    (∃ (s : State) (c : Ch) (p : Port) (k : Fin 8) (e : List Byte) (w : Nat) (it : TxItem) (ok : Bool), (s.ch c).txReady
      p k.val = true ∧ (s.ch c).qRoom p k.val = true ∧ (s.ch c).ecc = Ecc.reset ∧ Unwatched (s.ch c) ∧ ((s.ch c).txRing
      p k.val).posted.head? = some (((s.ch c).txRing p k.val).fetch, w) ∧ (s.ch c).settled mETH ((s.ch c).txBase p k.val
      + 16 * ((s.ch c).txRing p k.val).fetch) 16 false ≠ Grant.refused ∧ (s.ch c).sram.read ((s.ch c).txBase p k.val +
      16 * ((s.ch c).txRing p k.val).fetch) 16 = e ∧ (s.ch c).txParse p (k.val) e w = (it, ok)) ∧
    (∃ (s : State) (c : Ch) (p : Port) (k : Fin 8), (s.ch c).txReady p k.val = true ∧ (s.ch c).qRoom p k.val = true ∧
      (s.ch c).settled mETH ((s.ch c).txBase p k.val + 16 * ((s.ch c).txRing p k.val).fetch) 16 false = Grant.refused) ∧
    (∃ (s : State) (c : Ch) (p : Port) (k : Fin 8), (s.ch c).txReady p k.val = false ∨ (s.ch c).qRoom p k.val = false) ∧
    (∃ (s : State) (c : Ch) (p : Port) (k : Fin 8) (it : TxItem) (rest : List TxItem) (st : Byte), (s.ch c).live pgSHAPE
      = true ∧ ((s.ch c).txRing p k.val).items = it :: rest ∧ it.outcome = some st ∧ it.free = false ∧ (s.ch c).ecc =
      Ecc.reset ∧ (s.ch c).txSize p k.val ≤ 1024 ∧ (s.ch c).settled mETH ((s.ch c).txBase p k.val + 16 * it.idx + 9) 2
      true ≠ Grant.refused) ∧
    (∃ (s : State) (c : Ch) (p : Port) (k : Fin 8) (it : TxItem) (rest : List TxItem) (st : Byte), (s.ch c).live pgSHAPE
      = true ∧ ((s.ch c).txRing p k.val).items = it :: rest ∧ it.outcome = some st ∧ it.free = false ∧ (s.ch c).ecc =
      Ecc.reset ∧ (s.ch c).txSize p k.val ≤ 1024 ∧ (s.ch c).settled mETH ((s.ch c).txBase p k.val + 16 * it.idx + 9) 2
      true = Grant.refused) ∧
    (∃ (s : State) (c : Ch) (p : Port) (k : Fin 8), (s.ch c).live pgSHAPE = false ∨ ∀ (it : TxItem), it ∈ ((s.ch
      c).txRing p k.val).items.head? → it.outcome = none) ∧
    (∃ (s : State) (c : Ch) (p : Port) (k : Fin 8) (idx : Nat) (it : TxItem), (s.ch c).boot = Boot.run ∧ (List.find?
      (fun (x : TxItem) => decide (x.idx = idx)) ((s.ch c).txRing p k.val).items = some it) ∧ it.queued = true ∧
      it.outcome = none ∧ (s.ch c).txDue it = true) ∧
    (∃ (s : State) (c : Ch) (p : Port) (k : Fin 8) (idx : Nat) (it : TxItem), (s.ch c).boot = Boot.run ∧ (List.find?
      (fun (x : TxItem) => decide (x.idx = idx)) ((s.ch c).txRing p k.val).items = some it) ∧ (it.queued = false ∨
      it.outcome ≠ none ∨ (s.ch c).txDue it = false)) ∧
    (∃ (s : State) (c : Ch) (p : Port) (k : Fin 8) (idx : Nat), (s.ch c).boot = Boot.run ∧ (List.find? (fun (x : TxItem)
      => decide (x.idx = idx)) ((s.ch c).txRing p k.val).items = none) ∧ ((s.ch c).txReady p k.val = false ∨ ((s.ch
      c).txRing p k.val).fetch ≠ idx)) ∧
    (∃ (s : State) (c : Ch) (p : Port) (k : Fin 8) (idx w : Nat) (it : TxItem), (s.ch c).boot = Boot.run ∧ (List.find?
      (fun (x : TxItem) => decide (x.idx = idx)) ((s.ch c).txRing p k.val).items = none) ∧ (s.ch c).txReady p k.val =
      true ∧ ((s.ch c).txRing p k.val).fetch = idx ∧ (s.ch c).ecc = Ecc.reset ∧ Unwatched (s.ch c) ∧ ((s.ch c).txRing p
      k.val).posted.head? = some (idx, w) ∧ (s.ch c).settled mETH ((s.ch c).txBase p k.val + 16 * idx) 16 false ≠
      Grant.refused ∧ (s.ch c).txParse p (k.val) ((s.ch c).sram.read ((s.ch c).txBase p k.val + 16 * idx) 16) w = (it,
      true) ∧ (s.ch c).txDue it = true) ∧
    (∃ (s : State) (c : Ch) (p : Port), (s.ch c).boot = Boot.run ∧ ((s.ch c).gates p).failed = false ∧ ((s.ch c).gates
      p).entry + 1 < (s.ch c).gateCnt p ∧ (s.ch c).gateAt p (((s.ch c).gates p).entry + 1) ≤ (s.ch c).wh.elapsed) ∧
    (∃ (s : State) (c : Ch) (p : Port), (s.ch c).boot = Boot.run ∧ ((s.ch c).gates p).failed = false ∧ ((s.ch c).gates
      p).entry + 1 < (s.ch c).gateCnt p ∧ (s.ch c).gateAt p (((s.ch c).gates p).entry + 1) ≤ (s.ch c).wh.elapsed) ∧
    (∃ (s : State) (c : Ch) (p : Port), (s.ch c).boot ≠ Boot.run ∨ ((s.ch c).gates p).failed = true ∨ (s.ch c).gateCnt p
      ≤ ((s.ch c).gates p).entry + 1 ∨ (s.ch c).wh.elapsed < (s.ch c).gateAt p (((s.ch c).gates p).entry + 1)) ∧
    (∃ (s : State) (snd : Sender) (c : Ch) (p : Port) (k : Fin 8) (v : Word), s.reaches snd c ∧ Own snd ∧ Free s c
      pgSHAPE ∧ (s.ch c).txEn p k.val = false ∧ (inSram (((s.node c).writeFields snd pgSHAPE (qReg p k.val + 20)
      ((v.setBit 0 true).setBit 0 false)).k.txBase p k.val) (16 * ((s.node c).writeFields snd pgSHAPE (qReg p k.val +
      20) ((v.setBit 0 true).setBit 0 false)).k.txSize p k.val) = true ∧ ((s.node c).writeFields snd pgSHAPE (qReg p
      k.val + 20) ((v.setBit 0 true).setBit 0 false)).k.txBase p k.val % (16 * ((s.node c).writeFields snd pgSHAPE (qReg
      p k.val + 20) ((v.setBit 0 true).setBit 0 false)).k.txSize p k.val) = 0)) ∧
    (∃ (s : State) (snd : Sender) (c : Ch) (p : Port) (k : Fin 8) (v : Word), s.reaches snd c ∧ Own snd ∧ Free s c
      pgSHAPE ∧ (s.ch c).txEn p k.val = false ∧ (¬(inSram (((s.node c).writeFields snd pgSHAPE (qReg p k.val + 20)
      ((v.setBit 0 true).setBit 0 false)).k.txBase p k.val) (16 * ((s.node c).writeFields snd pgSHAPE (qReg p k.val +
      20) ((v.setBit 0 true).setBit 0 false)).k.txSize p k.val) = true ∧ ((s.node c).writeFields snd pgSHAPE (qReg p
      k.val + 20) ((v.setBit 0 true).setBit 0 false)).k.txBase p k.val % (16 * ((s.node c).writeFields snd pgSHAPE (qReg
      p k.val + 20) ((v.setBit 0 true).setBit 0 false)).k.txSize p k.val) = 0))) ∧
    (∃ (s : State) (snd : Sender) (c : Ch) (p : Port) (k : Fin 8) (v : Word), s.reaches snd c ∧ Own snd ∧ Free s c
      pgSHAPE ∧ (s.ch c).txEn p k.val = true ∧ v.field 4 4 = ((s.ch c).reg pgSHAPE (qReg p k.val + 20)).field 4 4) ∧
    (∃ (s : State) (snd : Sender) (c : Ch) (p : Port) (k : Fin 8) (v : Word), s.reaches snd c ∧ Own snd ∧ Free s c
      pgSHAPE ∧ (s.ch c).txEn p k.val = true ∧ v.field 4 4 ≠ ((s.ch c).reg pgSHAPE (qReg p k.val + 20)).field 4 4) ∧
    (∃ (s : State) (snd : Sender) (c : Ch), s.reaches snd c ∧ Own snd ∧ Free s c pgSHAPE) :=
  ⟨⟨tr, .pf, .ch0, .a, 3, 11, by decide +kernel⟩,
   ⟨tr, .pf, .ch0, .a, 3, 7, by decide +kernel⟩,
   ⟨tr, .ch0, .a, 3, ent, 2, parsed tr ent, true, by decide +kernel⟩,
   ⟨blocked, .ch0, .a, 3, ent.set 8 0, 2, parsed tr (ent.set 8 0), true, by decide +kernel⟩,
   ⟨trBad, .ch0, .a, 3, badEnt, 2, parsed tr badEnt, false, by decide +kernel⟩,
   ⟨trU, .ch0, .a, 3, by decide +kernel⟩,
   ⟨demo, .ch0, .a, 3, by decide +kernel⟩,
   ⟨tc, .ch0, .a, 3, { it0 with outcome := some 2 }, [], 2, by decide +kernel⟩,
   ⟨tc.k0 (regs [(3, 0x40, 0x100)]), .ch0, .a, 3, { it0 with outcome := some 2 }, [], 2, by decide +kernel⟩,
   ⟨tr, .ch0, .a, 3, by decide +kernel⟩,
   ⟨tr.k0 (regs [(1, 0x40, 1)]), .ch0, .a, 3, 5, it0, by decide +kernel⟩,
   ⟨tc, .ch0, .a, 3, 5, { it0 with outcome := some 2 }, by decide +kernel⟩,
   ⟨tr, .ch0, .a, 3, 9, by decide +kernel⟩,
   ⟨tr.k0 (regs [(1, 0x40, 1)]), .ch0, .a, 3, 6, 2, parsed tr ent, by decide +kernel⟩,
   ⟨ga, .ch0, .a, by decide +kernel⟩,
   ⟨ga.k0 fun k => { k with gatesA := ⟨1, 1, false⟩ }, .ch0, .a, by decide +kernel⟩,
   ⟨demo, .ch0, .a, by decide +kernel⟩,
   ⟨tr.k0 (regs [(0x30, qReg .a 3 + 0x14, 0x50), (0x30, qReg .a 3+0x1c, 0x10004)]), .pf, .ch0, .a, 3, 0x40, by
     decide +kernel⟩,
   ⟨tr.k0 (regs [(0x30, qReg .a 3 + 0x14, 0x50), (0x30, qReg .a 3+0x10, 0x1010010)]), .pf, .ch0, .a, 3, 0x40, by
     decide +kernel⟩,
   ⟨tr, .pf, .ch0, .a, 3, 0x40, by decide +kernel⟩,
   ⟨tr, .pf, .ch0, .a, 3, 0x51, by decide +kernel⟩,
   ⟨tr.k0 (regs [(0x30, qReg .a 3+0x1c, 0x10004)]), .pf, .ch0, by decide +kernel⟩⟩

end NetSide

/-! ## CAN -/

namespace CanSide

def F1 : CanFrame := ⟨0, false, false, false, false, false, 3, 0, 0x123, 0, 0, [1, 2, 3]⟩

def F2 : CanFrame := { F1 with fmt := 1, dlen := 64, data := List.replicate 64 7 }

def base (l : List (Nat × Nat × Word)) (g : Can → Can) : State := (en [0x40] demo).k0 fun k => regs ([(0x40, 0x40, 0x45),
    (0x40, 0x60, 0x06400011), (0x40, 0x64, 0x1010000), (0x40, 0x68, 0x1014000), (0x40, 0x6c, 0x1018000), (0x40, 0x80,
    0x101C000), (3, 0x40, 0xB00), (0x40, 0x800, 0xC0000123)] ++ l)
    { k with can0 := g { k.can0 with state := .active, rxErr := 5 }, sram := [(0x1010000, 1)] }

def ob (l : List (Nat × Nat × Word)) (g : Can → Can) := base ((0x40, 0x60, 0x06400010) :: l) g

def both : List (Nat × Nat × Word) :=
  [(3, 0x40, 1), (pgREGION, 0x100, 0x1000007), (pgREGION, 0x104, 0x13FFFC0), (pgREGION, 0x100+0x80*mCan .u0, 0x1000007),
      (pgREGION, 0x104+0x80*mCan .u0, 0x13FFFC0)]

def locked (l : List (Nat × Nat × Word)) := ob l fun x => { x with objs := [(0, ⟨true, 0, []⟩)] }

def dsc : List Byte := [0, 0x30, 0, 0, 0x23, 1, 0, 0, 0, 0, 0, 0, 0, 0, 0, 0, 0, 0xD0, 1, 1, 1, 2, 3, 0] ++ List.replicate
    40 0

def tx (l : List (Nat × Nat × Word)) (g : Can → Can) : State := (base ((0x40, 0x40, 0x44) :: l) g).k0 fun k =>
    { k with sram := Mem.write [] 0x101C080 (dsc.map some) }

def off (s : State) : State := s.k0 (regs [(0x40, 8, 0)])

def txBad := (tx [] id).k0 fun k => { k with sram := Mem.write [] 0x101C080 [some 0, some 0xFF, some 0xFF] }

def it1 : CanItem := ⟨2, [0x3000, 0x123, 0, 0], 0x101D000, true, 3, 0, false, some 5, false, false, 0⟩

def it2 : CanItem := { it1 with slot := 7, words := [0x3000, 0x122, 0, 0] }

def ti (l : List (Nat × Nat × Word)) (g : Can → Can) := tx l fun x => g { x with items := [it1, it2] }

def refDue := ti [(0x40, 0x140, 0x01010002)] (fun x => { x with refPend := true })

def on : Can → Can := fun x => { x with bus := .slot 2, tec := 4 }

def tl := (ti [(1, 0x40, 1)] on).k0 fun k => { k with wh := { k.wh with count := 9 } }

def bo (l : List (Nat × Nat × Word)) := ti l fun x => { x with state := .busOff }

theorem witness_CanReceive :
    (∃ (s : State) (c : Ch) (u : Unit2) (f : CanFrame), CanReceives s c u f ∧ ToQueue (s.ch c) u f ∧ ((s.ch c).canPutIdx
      u + 1) % canQCount (s.ch c) (pgCan u) = (s.ch c).canAckIdx u) ∧
    (∃ (s : State) (c : Ch) (u : Unit2) (f : CanFrame), CanReceives s c u f ∧ ToQueue (s.ch c) u f ∧ ((s.ch c).canPutIdx
      u + 1) % canQCount (s.ch c) (pgCan u) ≠ (s.ch c).canAckIdx u ∧ canQCount (s.ch c) (pgCan u) ≤ 128 ∧ (queueData
      (s.ch c) u f = [] ∨ (s.ch c).settled (mCan u) (queueAt (s.ch c) u + 32) (queueData (s.ch c) u f).length true ≠
      Grant.refused) ∧ (s.ch c).settled (mCan u) (queueAt (s.ch c) u) 32 true ≠ Grant.refused) ∧
    (∃ (s : State) (c : Ch) (u : Unit2) (f : CanFrame), CanReceives s c u f ∧ ToQueue (s.ch c) u f ∧ ((s.ch c).canPutIdx
      u + 1) % canQCount (s.ch c) (pgCan u) ≠ (s.ch c).canAckIdx u ∧ canQCount (s.ch c) (pgCan u) ≤ 128 ∧ (queueData
      (s.ch c) u f = [] ∨ (s.ch c).settled (mCan u) (queueAt (s.ch c) u + 32) (queueData (s.ch c) u f).length true ≠
      Grant.refused) ∧ (s.ch c).settled (mCan u) (queueAt (s.ch c) u) 32 true ≠ Grant.refused) ∧
    (∃ (s : State) (c : Ch) (u : Unit2) (f : CanFrame), CanReceives s c u f ∧ ToQueue (s.ch c) u f ∧ ((s.ch c).canPutIdx
      u + 1) % canQCount (s.ch c) (pgCan u) ≠ (s.ch c).canAckIdx u ∧ canQCount (s.ch c) (pgCan u) ≤ 128 ∧ (queueData
      (s.ch c) u f = [] ∨ (s.ch c).settled (mCan u) (queueAt (s.ch c) u + 32) (queueData (s.ch c) u f).length true ≠
      Grant.refused) ∧ (s.ch c).settled (mCan u) (queueAt (s.ch c) u) 32 true ≠ Grant.refused) ∧
    (∃ (s : State) (c : Ch) (u : Unit2) (f : CanFrame) (i : Nat), CanReceives s c u f ∧ ToObject (s.ch c) u f i ∧ (s.ch
      c).settled (mCan u) ((s.ch c).canHdrAt u i) 32 false ≠ Grant.refused ∧ (objData (s.ch c) u f = [] ∨ (s.ch
      c).settled (mCan u) ((s.ch c).canSlotAt u i !BitVec.getLsbD (byteAt (objHeader (s.ch c) u i) 0) 2) (objData (s.ch
      c) u f).length true ≠ Grant.refused) ∧ ((s.ch c).canObj u i).lock = false ∧ (s.ch c).settled (mCan u) ((s.ch
      c).canHdrAt u i) 32 true ≠ Grant.refused) ∧
    (∃ (s : State) (c : Ch) (u : Unit2) (f : CanFrame) (i : Nat), CanReceives s c u f ∧ ToObject (s.ch c) u f i ∧ (s.ch
      c).settled (mCan u) ((s.ch c).canHdrAt u i) 32 false ≠ Grant.refused ∧ (objData (s.ch c) u f = [] ∨ (s.ch
      c).settled (mCan u) ((s.ch c).canSlotAt u i !BitVec.getLsbD (byteAt (objHeader (s.ch c) u i) 0) 2) (objData (s.ch
      c) u f).length true ≠ Grant.refused) ∧ ((s.ch c).canObj u i).lock = true) ∧
    (∃ (s : State) (c : Ch) (u : Unit2) (f : CanFrame), CanReceives s c u f ∧ ((s.ch c).reg (pgCan u) 96).field 0 2 = 0
      ∧ (s.ch c).canMatch u f = none) ∧
    (∃ (s : State) (c : Ch) (u : Unit2) (f : CanFrame), (s.ch c).canUp u = true ∧ (s.ch c).canMode u ≤ 1 ∧ (s.node
      c).fieldUp = true ∧ ((s.ch c).can u).abdRun = false ∧ ((s.ch c).can u).tec < 256 ∧ (s.ch c).ttRole u = 1 ∧ (s.ch
      c).isReference u f = true) ∧
    (∃ (s : State) (c : Ch) (u : Unit2) (f : CanFrame), (s.ch c).canUp u = true ∧ (s.ch c).canMode u ≠ 3 ∧ (s.node
      c).fieldUp = true ∧ (s.ch c).fmtOn u f.fmt = false ∧ ((s.ch c).reg (pgCan u) 64).bit 2 = true) ∧
    (∃ (s : State) (c : Ch) (u : Unit2), (s.ch c).canUp u = true ∧ (s.ch c).canMode u ≠ 3 ∧ ((s.ch c).can u).abdRun =
      false ∧ ((s.ch c).can u).tec < 256) ∧
    (∃ (s : State) (c : Ch) (u : Unit2), (s.ch c).canUp u = true ∧ (s.ch c).canMode u ≠ 3 ∧ ((s.ch c).can u).abdRun =
      false ∧ ((s.ch c).can u).tec < 256) ∧
    (∃ (s : State) (c : Ch) (u : Unit2) (r : CanRx), (s.ch c).canUp u = false ∨ (s.ch c).canMode u = 3 ∨ (∃ (f :
      CanFrame), r = CanRx.frame f) ∧ (s.node c).fieldUp = false) ∧
    (∃ (s : State) (snd : Sender) (c : Ch) (u : Unit2) (i : Nat), (s.ch c).canWatches u = true ∧ (s.ch c).canHas u i =
      true ∧ snd ≠ Sender.pf4 ∧ (s.ch c).ecc = Ecc.reset ∧ (s.ch c).settled snd.id ((s.ch c).canHdrAt u i) 4 false ≠
      Grant.refused) ∧
    (∃ (s : State) (snd : Sender) (c : Ch) (u : Unit2) (i : Nat), (s.ch c).canWatches u = true ∧ (s.ch c).canHas u i =
      true ∧ snd ≠ Sender.pf4 ∧ (s.ch c).ecc = Ecc.reset ∧ (s.ch c).settled snd.id ((s.ch c).canHdrAt u i) 4 false ≠
      Grant.refused) ∧
    (∃ (s : State) (snd : Sender) (c : Ch) (u : Unit2) (i : Nat), (s.ch c).canWatches u = false ∨ (s.ch c).canHas u i =
      false ∨ snd = Sender.pf4) ∧
    (∃ (s : State) (snd : Sender) (c : Ch) (u : Unit2) (i : Nat), (s.ch c).canWatches u = false ∨ (s.ch c).canHas u i =
      false ∨ snd = Sender.pf4) ∧
    (∃ (s : State) (snd : Sender) (c : Ch) (u : Unit2) (i : Nat), (s.ch c).canWatches u = true ∧ (s.ch c).canHas u i =
      true ∧ snd ≠ Sender.pf4 ∧ (s.ch c).settled snd.id ((s.ch c).canHdrAt u i) 4 false = Grant.refused) ∧
    (∃ (s : State) (snd : Sender) (c : Ch) (u : Unit2) (i : Nat), (s.ch c).canWatches u = true ∧ (s.ch c).canHas u i =
      true ∧ snd ≠ Sender.pf4 ∧ (s.ch c).settled snd.id ((s.ch c).lastWordAt u i) 4 false = Grant.refused) ∧
    (∃ (s : State) (snd : Sender) (c : Ch) (u : Unit2) (i : Nat), (s.ch c).canWatches u = true ∧ (s.ch c).canHas u i =
      true ∧ (s.ch c).ecc = Ecc.reset ∧ ((s.ch c).canObj u i).lock = true ∧ ((s.ch c).canObj u i).count = 0 ∧ (s.ch
      c).settled (mCan u) ((s.ch c).canHdrAt u i) 32 false ≠ Grant.refused ∧ (s.ch c).settled (mCan u) ((s.ch
      c).canHdrAt u i) 32 true ≠ Grant.refused ∧ snd ≠ Sender.pf4 ∧ (s.ch c).settled snd.id ((s.ch c).lastWordAt u i) 4
      false ≠ Grant.refused) ∧
    (∃ (s : State) (snd : Sender) (c : Ch) (u : Unit2) (i : Nat) (v : Word), (s.ch c).canWatches u = true ∧ (s.ch
      c).canHas u i = true ∧ (s.ch c).ecc = Ecc.reset ∧ ((s.ch c).canObj u i).lock = true ∧ ((s.ch c).canObj u i).count
      = 0 ∧ (s.ch c).settled (mCan u) ((s.ch c).canHdrAt u i) 32 false ≠ Grant.refused ∧ (s.ch c).settled (mCan u)
      ((s.ch c).canHdrAt u i) 32 true ≠ Grant.refused ∧ s.reaches snd c ∧ Own snd ∧ Free s c (pgCan u) ∧ v.field 0 9 =
      i) ∧
    (∃ (s : State) (snd : Sender) (c : Ch) (u : Unit2) (v : Word), s.reaches snd c ∧ Own snd ∧ Free s c (pgCan u) ∧
      ((s.ch c).canWatches u = false ∨ (s.ch c).canHas u (v.field 0 9) = false ∨ ((s.ch c).canObj u (v.field 0 9)).lock
      = false)) ∧
    (∃ (s : State) (snd : Sender) (c : Ch) (u : Unit2) (v : Word), s.reaches snd c ∧ Own snd ∧ Free s c (pgCan u) ∧
      (v.field 0 7 < canQCount (s.ch c) (pgCan u) ∧ (fun (x : Nat) => (x + canQCount (s.ch c) (pgCan u) - (s.ch
      c).canAckIdx u % canQCount (s.ch c) (pgCan u)) % canQCount (s.ch c) (pgCan u)) (v.field 0 7) ≤ (fun (x : Nat) =>
      (x + canQCount (s.ch c) (pgCan u) - (s.ch c).canAckIdx u % canQCount (s.ch c) (pgCan u)) % canQCount (s.ch c)
      (pgCan u)) ((s.ch c).canPutIdx u))) ∧
    (∃ (s : State) (snd : Sender) (c : Ch) (u : Unit2) (v : Word), s.reaches snd c ∧ Own snd ∧ Free s c (pgCan u) ∧
      (¬(v.field 0 7 < canQCount (s.ch c) (pgCan u) ∧ (fun (x : Nat) => (x + canQCount (s.ch c) (pgCan u) - (s.ch
      c).canAckIdx u % canQCount (s.ch c) (pgCan u)) % canQCount (s.ch c) (pgCan u)) (v.field 0 7) ≤ (fun (x : Nat) =>
      (x + canQCount (s.ch c) (pgCan u) - (s.ch c).canAckIdx u % canQCount (s.ch c) (pgCan u)) % canQCount (s.ch c)
      (pgCan u)) ((s.ch c).canPutIdx u)))) :=
  ⟨⟨base [(0x40, 0x70, 4), (0x40, 0x74, 5)] id, .ch0, .u0, F1, by decide +kernel⟩,
   ⟨base [] id, .ch0, .u0, F1, by decide +kernel⟩,
   ⟨base [] id, .ch0, .u0, F2, by decide +kernel⟩,
   ⟨base [(0x40, 0x70, 15), (0x40, 0x74, 1)] id, .ch0, .u0, F1, by decide +kernel⟩,
   ⟨ob [] id, .ch0, .u0, F1, 0, by decide +kernel⟩,
   ⟨locked [], .ch0, .u0, F1, 0, by decide +kernel⟩,
   ⟨ob [] id, .ch0, .u0, { F1 with id := 0x124 }, by decide +kernel⟩,
   ⟨ob [(0x40, 0x140, 1), (0x40, 0x144, 0x123), (0x40, 0x148, 0x1FFFFFFF)] id, .ch0, .u0, F1, by decide +kernel⟩,
   ⟨base [] id, .ch0, .u0, { F1 with fmt := 2 }, by decide +kernel⟩,
   ⟨base [] id, .ch0, .u0, by decide +kernel⟩,
   ⟨base [(0x40, 0x40, 0x46)] id, .ch0, .u0, by decide +kernel⟩,
   ⟨demo, .ch0, .u0, .frame F1, .inl (by decide +kernel)⟩,
   ⟨ob both id, .rook, .ch0, .u0, 0, by decide +kernel⟩,
   ⟨locked both, .rook, .ch0, .u0, 0, by decide +kernel⟩,
   ⟨demo, .pf, .ch0, .u0, 0, by decide +kernel⟩,
   ⟨demo, .pf, .ch0, .u0, 0, by decide +kernel⟩,
   ⟨ob [(3, 0x40, 0x100)] id, .rook, .ch0, .u0, 0, by decide +kernel⟩,
   ⟨ob [(3, 0x40, 0x100)] id, .rook, .ch0, .u0, 0, by decide +kernel⟩,
   ⟨locked both, .rook, .ch0, .u0, 0, by decide +kernel⟩,
   ⟨locked [], .rook, .ch0, .u0, 0, 0, by decide +kernel⟩,
   ⟨ob [] id, .pf, .ch0, .u0, 3, by decide +kernel⟩,
   ⟨base [(0x40, 0x70, 4)] id, .pf, .ch0, .u0, 3, by decide +kernel⟩,
   ⟨base [(0x40, 0x70, 4), (0x40, 0x74, 15)] id, .pf, .ch0, .u0, 5, by decide +kernel⟩⟩

theorem witness_CanTransmit :
    (∃ (s : State) (snd : Sender) (c : Ch) (u : Unit2) (slot : Fin 32), s.reaches snd c ∧ Own snd ∧ Free s c (pgCan u) ∧
      (∀ (it : CanItem), it ∈ ((s.ch c).can u).items → it.slot ≠ slot.val) ∧ (s.ch c).live (pgCan u) = false) ∧
    (∃ (s : State) (snd : Sender) (c : Ch) (u : Unit2) (slot : Fin 32), s.reaches snd c ∧ Own snd ∧ Free s c (pgCan u) ∧
      (∀ (it : CanItem), it ∈ ((s.ch c).can u).items → it.slot ≠ slot.val) ∧ (s.ch c).live (pgCan u) = true ∧ (s.ch
      c).ecc = Ecc.reset ∧ (s.ch c).canWatches (otherUnit u) = false ∧ (s.ch c).settled (mCan u) ((s.ch c).canDesc u
      slot.val) 64 false ≠ Grant.refused ∧ (s.ch c).canDescOk u (txDesc (s.ch c) u slot.val) = true ∧ ((s.ch c).can
      u).state ≠ CanErr.busOff) ∧
    (∃ (s : State) (snd : Sender) (c : Ch) (u : Unit2) (slot : Fin 32), s.reaches snd c ∧ Own snd ∧ Free s c (pgCan u) ∧
      (∀ (it : CanItem), it ∈ ((s.ch c).can u).items → it.slot ≠ slot.val) ∧ (s.ch c).live (pgCan u) = true ∧ (s.ch
      c).ecc = Ecc.reset ∧ (s.ch c).canWatches (otherUnit u) = false ∧ (s.ch c).settled (mCan u) ((s.ch c).canDesc u
      slot.val) 64 false ≠ Grant.refused ∧ (s.ch c).canDescOk u (txDesc (s.ch c) u slot.val) = true ∧ ((s.ch c).can
      u).state = CanErr.busOff) ∧
    (∃ (s : State) (snd : Sender) (c : Ch) (u : Unit2) (slot : Fin 32), s.reaches snd c ∧ Own snd ∧ Free s c (pgCan u) ∧
      (∀ (it : CanItem), it ∈ ((s.ch c).can u).items → it.slot ≠ slot.val) ∧ (s.ch c).live (pgCan u) = true ∧ (s.ch
      c).ecc = Ecc.reset ∧ (s.ch c).canWatches (otherUnit u) = false ∧ (s.ch c).settled (mCan u) ((s.ch c).canDesc u
      slot.val) 64 false ≠ Grant.refused ∧ (s.ch c).canDescOk u (txDesc (s.ch c) u slot.val) = false) ∧
    (∃ (s : State) (snd : Sender) (c : Ch) (u : Unit2) (slot : Fin 32), s.reaches snd c ∧ Own snd ∧ Free s c (pgCan u) ∧
      (∀ (it : CanItem), it ∈ ((s.ch c).can u).items → it.slot ≠ slot.val) ∧ (s.ch c).live (pgCan u) = true ∧ (s.ch
      c).settled (mCan u) ((s.ch c).canDesc u slot.val) 64 false = Grant.refused) ∧
    (∃ (s : State) (snd : Sender) (c : Ch) (u : Unit2) (slot : Fin 32) (it : CanItem), s.reaches snd c ∧ Own snd ∧ Free
      s c (pgCan u) ∧ it ∈ ((s.ch c).can u).items ∧ it.slot = slot.val) ∧
    (∃ (v : Word) (b : Fin 32), BitVec.toNat v < 2 ^ b.val) ∧
    (∃ (v : Word) (b : Fin 32), BitVec.toNat v < 2 ^ b.val) ∧
    (∃ (v : Word) (b : Fin 32), BitVec.toNat v < 2 ^ b.val) ∧
    (∃ (v : Word) (b : Fin 32), BitVec.toNat v < 2 ^ b.val) ∧
    (∃ (s : State) (c : Ch) (u : Unit2) (it : CanItem), (s.ch c).canUp u = true ∧ ((s.ch c).canMode u = 0 ∧ (s.node
      c).fieldUp = true ∨ (s.ch c).canMode u = 3) ∧ ((s.ch c).can u).bus = CanBus.quiet ∧ ((s.ch c).can u).newMode =
      none ∧ canBest ((s.ch c).canOpen u) = some it ∧ (s.ch c).refFirst u (some it) = false ∧ (s.ch c).ecc = Ecc.reset ∧
      (s.ch c).canWatches (otherUnit u) = false ∧ (s.ch c).settled (mCan u) ((s.ch c).canDesc u it.slot) 64 false ≠
      Grant.refused ∧ TagsAgree (s.ch c) ((s.ch c).canDesc u it.slot) 64 ∧ (canBytes (it.frame false []) = 0 ∨ (s.ch
      c).settled (mCan u) it.addr (canBytes (it.frame false [])) false ≠ Grant.refused) ∧ TagsAgree (s.ch c) it.addr
      (canBytes (it.frame false []))) ∧
    (∃ (s : State) (c : Ch) (u : Unit2), (s.ch c).canUp u = true ∧ ((s.ch c).canMode u = 0 ∧ (s.node c).fieldUp = true ∨
      (s.ch c).canMode u = 3) ∧ ((s.ch c).can u).bus = CanBus.quiet ∧ ((s.ch c).can u).newMode = none ∧ (s.ch
      c).refFirst u (canBest ((s.ch c).canOpen u)) = true) ∧
    (∃ (s : State) (c : Ch) (u : Unit2), (s.ch c).canUp u = true ∧ ((s.ch c).canMode u = 0 ∧ (s.node c).fieldUp = true ∨
      (s.ch c).canMode u = 3) ∧ ((s.ch c).can u).bus = CanBus.quiet ∧ ((s.ch c).can u).newMode = none ∧ canBest ((s.ch
      c).canOpen u) = none ∧ (s.ch c).refFirst u none = false) ∧
    (∃ (s : State) (c : Ch) (u : Unit2), (s.ch c).canUp u = false ∨ ((s.ch c).can u).bus ≠ CanBus.quiet ∨ ((s.ch c).can
      u).newMode ≠ none ∨ (s.ch c).canMode u = 1 ∨ (s.ch c).canMode u = 2 ∨ (s.ch c).canMode u = 0 ∧ (s.node c).fieldUp
      = false) ∧
    (∃ (n : Node) (u : Unit2), n.k.canMode u = 3) ∧
    (∃ (n : Node) (u : Unit2) (f : CanFrame) (delay : Nat), n.k.canMode u ≠ 3 ∧ n.k.dataSampled u f delay = true ∧
      n.fieldUp = true) ∧
    (∃ (n : Node) (u : Unit2) (f : CanFrame) (r : CanEnd) (delay : Nat), n.k.canMode u ≠ 3 ∧ (r = CanEnd.success ∨ r =
      CanEnd.ackErr) ∧ n.k.dataSampled u f delay = false) ∧
    (∃ (n : Node) (u : Unit2) (r : CanEnd), n.k.canMode u ≠ 3 ∧ r = CanEnd.success ∧ n.fieldUp = false) ∧
    (∃ (s : State) (c : Ch) (u : Unit2) (it : CanItem) (r : CanOver), (s.ch c).live (pgCan u) = true ∧ ((s.ch c).can
      u).bus = CanBus.slot it.slot ∧ (List.find? (fun (x : CanItem) => decide (x.slot = it.slot)) ((s.ch c).can u).items
      = some it) ∧ ((s.node c).endSeen u (it.frame (decide (((s.ch c).can u).state = CanErr.passive)) ((s.ch c).can
      u).txData) r.how r.data r.delay).fst = CanEnd.success ∧ it.slot < 32 ∧ ((s.ch c).reg (pgCan u) 64).bit 5 = false ∧
      ((s.ch c).can u).tec < 256 ∧ ((s.ch c).can u).state ≠ CanErr.busOff) ∧
    (∃ (s : State) (c : Ch) (u : Unit2) (it : CanItem) (r : CanOver) (e : CanEnd), (s.ch c).live (pgCan u) = true ∧
      ((s.ch c).can u).bus = CanBus.slot it.slot ∧ (List.find? (fun (x : CanItem) => decide (x.slot = it.slot)) ((s.ch
      c).can u).items = some it) ∧ ((s.node c).endSeen u (it.frame (decide (((s.ch c).can u).state = CanErr.passive))
      ((s.ch c).can u).txData) r.how r.data r.delay).fst = e ∧ it.fired = false ∧ it.aborted = false ∧ e =
      CanEnd.lostArbitration) ∧
    (∃ (s : State) (c : Ch) (u : Unit2) (it : CanItem) (r : CanOver) (e : CanEnd), (s.ch c).live (pgCan u) = true ∧
      ((s.ch c).can u).bus = CanBus.slot it.slot ∧ (List.find? (fun (x : CanItem) => decide (x.slot = it.slot)) ((s.ch
      c).can u).items = some it) ∧ ((s.node c).endSeen u (it.frame (decide (((s.ch c).can u).state = CanErr.passive))
      ((s.ch c).can u).txData) r.how r.data r.delay).fst = e ∧ it.fired = false ∧ it.aborted = false ∧ e ∈
      [CanEnd.bitErr, CanEnd.stuffErr, CanEnd.crcErr, CanEnd.formErr, CanEnd.ackErr] ∧ (s.ch c).canRetry u it = true ∧
      ((s.ch c).can u).state = CanErr.active ∧ ((s.ch c).can u).tec + 8 < 256) ∧
    (∃ (s : State) (c : Ch) (u : Unit2) (it : CanItem) (r : CanOver) (e : CanEnd), (s.ch c).live (pgCan u) = true ∧
      ((s.ch c).can u).bus = CanBus.slot it.slot ∧ (List.find? (fun (x : CanItem) => decide (x.slot = it.slot)) ((s.ch
      c).can u).items = some it) ∧ ((s.node c).endSeen u (it.frame (decide (((s.ch c).can u).state = CanErr.passive))
      ((s.ch c).can u).txData) r.how r.data r.delay).fst = e ∧ it.fired = false ∧ it.aborted = false ∧ e ∈
      [CanEnd.bitErr, CanEnd.stuffErr, CanEnd.crcErr, CanEnd.formErr, CanEnd.ackErr] ∧ (s.ch c).canRetry u it = true ∧
      ((s.ch c).can u).state = CanErr.active ∧ 256 ≤ ((s.ch c).can u).tec + 8 ∧ (∀ (x : CanItem), x ∈ ((s.ch c).can
      u).items → x.slot < 32)) ∧
    (∃ (s : State) (c : Ch) (u : Unit2), (s.ch c).live (pgCan u) = false ∨ ((s.ch c).can u).bus = CanBus.quiet) ∧
    (∃ (s : State) (snd : Sender) (c : Ch) (u : Unit2), s.reaches snd c ∧ Own snd ∧ Free s c (pgCan u)) ∧
    (∃ (s : State) (snd : Sender) (c : Ch) (u : Unit2), s.reaches snd c ∧ Own snd ∧ Free s c (pgCan u)) ∧
    (∃ (s : State) (snd : Sender) (c : Ch) (u : Unit2), s.reaches snd c ∧ Own snd ∧ Free s c (pgCan u)) ∧
    (∃ (s : State) (c : Ch) (u : Unit2) (slot : Fin 32) (it : CanItem), (s.ch c).live (pgCan u) = true ∧ (List.find?
      (fun (x : CanItem) => decide (x.slot = slot.val)) ((s.ch c).can u).items = some it) ∧ it.fired = false ∧ (s.ch
      c).due it.fire = true) ∧
    (∃ (s : State) (c : Ch) (u : Unit2) (slot : Fin 32) (it : CanItem), (s.ch c).live (pgCan u) = true ∧ (List.find?
      (fun (x : CanItem) => decide (x.slot = slot.val)) ((s.ch c).can u).items = some it) ∧ it.fired = false ∧ (s.ch
      c).due it.fire = true) ∧
    (∃ (s : State) (c : Ch) (u : Unit2) (slot : Fin 32), (s.ch c).live (pgCan u) = false ∨ ∀ (it : CanItem), it ∈
      List.find? (fun (x : CanItem) => decide (x.slot = slot.val)) ((s.ch c).can u).items → it.fired = true ∨ (s.ch
      c).due it.fire = false) :=
  ⟨⟨off (tx [] id), .pf, .ch0, .u0, 2, by decide +kernel⟩,
   ⟨tx [] id, .pf, .ch0, .u0, 2, by decide +kernel⟩,
   ⟨tx [] (fun x => { x with state := .busOff }), .pf, .ch0, .u0, 2, by decide +kernel⟩,
   ⟨txBad, .pf, .ch0, .u0, 2, by decide +kernel⟩,
   ⟨tx [(3, 0x40, 0x100)] id, .pf, .ch0, .u0, 31, by decide +kernel⟩,
   ⟨ti [] id, .pf, .ch0, .u0, 2, it1, by decide +kernel⟩,
   ⟨5, 9, by decide +kernel⟩,
   ⟨5, 9, by decide +kernel⟩,
   ⟨5, 9, by decide +kernel⟩,
   ⟨5, 9, by decide +kernel⟩,
   ⟨ti [] id, .ch0, .u0, it2, by decide +kernel⟩,
   ⟨refDue, .ch0, .u0, by decide +kernel⟩,
   ⟨tx [] id, .ch0, .u0, by decide +kernel⟩,
   ⟨demo, .ch0, .u0, by decide +kernel⟩,
   ⟨(ti [(0x40, 0x40, 0x47)] on).node .ch0, .u0, by decide +kernel⟩,
   ⟨(ti [] on).node .ch0, .u0, F1, 3, by decide +kernel⟩,
   ⟨(ti [] on).node .ch0, .u0, { F2 with brs := true }, .ackErr, 200, by decide +kernel⟩,
   ⟨({ ti [] on with dev := { (ti [] on).dev with dregs := [] } }).node .ch0, .u0, .success, by decide +kernel⟩,
   ⟨ti [] on, .ch0, .u0, it1, ⟨.success, false, 3⟩, by decide +kernel⟩,
   ⟨ti [] on, .ch0, .u0, it1, ⟨.lostArbitration, false, 3⟩, .lostArbitration, by decide +kernel⟩,
   ⟨ti [] on, .ch0, .u0, it1, ⟨.formErr, false, 3⟩, .formErr, by decide +kernel⟩,
   ⟨ti [] fun x => { on x with tec := 250 }, .ch0, .u0, it1, ⟨.formErr, false, 3⟩, .formErr, by decide +kernel⟩,
   ⟨demo, .ch0, .u0, by decide +kernel⟩,
   ⟨ti [] on, .pf, .ch0, .u0, by decide +kernel⟩,
   ⟨ti [] on, .pf, .ch0, .u0, by decide +kernel⟩,
   ⟨ti [] on, .pf, .ch0, .u0, by decide +kernel⟩,
   ⟨tl, .ch0, .u0, 2, it1, by decide +kernel⟩,
   ⟨tl, .ch0, .u0, 7, it2, by decide +kernel⟩,
   ⟨ti [] on, .ch0, .u0, 7, by decide +kernel⟩⟩

theorem witness_CanStates :
    (∃ (s : State) (snd : Sender) (c : Ch) (u : Unit2), s.reaches snd c ∧ Own snd ∧ Free s c (pgCan u)) ∧
    (∃ (s : State) (c : Ch) (u : Unit2), (s.ch c).live (pgCan u) = true ∧ ((s.ch c).can u).state = CanErr.busOff ∧
      (s.node c).fieldUp = true ∧ (((s.ch c).can u).recover = true ∨ ((s.ch c).reg (pgCan u) 64).bit 4 = true)) ∧
    (∃ (s : State) (c : Ch) (u : Unit2), (s.ch c).live (pgCan u) = false ∨ ((s.ch c).can u).state ≠ CanErr.busOff ∨
      (s.node c).fieldUp = false ∨ ((s.ch c).can u).recover = false ∧ ((s.ch c).reg (pgCan u) 64).bit 4 = false) ∧
    (∃ (s : State) (c : Ch) (u : Unit2), (s.ch c).live (pgCan u) = true ∧ ((s.ch c).can u).state = CanErr.integrating ∧
      ((s.node c).fieldUp = true ∨ (s.ch c).canMode u = 3)) ∧
    (∃ (s : State) (c : Ch) (u : Unit2), (s.ch c).live (pgCan u) = false ∨ ((s.ch c).can u).state ≠ CanErr.integrating ∨
      (s.node c).fieldUp = false ∧ (s.ch c).canMode u ≠ 3) ∧
    (∃ (s : State) (c : Ch) (u : Unit2) (m : Nat), (s.ch c).boot = Boot.run ∧ ((s.ch c).can u).bus = CanBus.quiet ∧
      ((s.ch c).can u).newMode = some m ∧ m < 4) ∧
    (∃ (s : State) (c : Ch) (u : Unit2), (s.ch c).boot ≠ Boot.run ∨ ((s.ch c).can u).bus ≠ CanBus.quiet ∨ ((s.ch c).can
      u).newMode = none) ∧
    (∃ (s : State) (snd : Sender) (c : Ch) (u : Unit2), s.reaches snd c ∧ Own snd ∧ (s.ch c).live (pgCan u) = true ∧
      (s.ch c).canMode u = 1) ∧
    (∃ (s : State) (snd : Sender) (c : Ch) (u : Unit2), s.reaches snd c ∧ Own snd ∧ (s.ch c).live (pgCan u) = true ∧
      (s.ch c).canMode u = 1) ∧
    (∃ (s : State) (snd : Sender) (c : Ch) (u : Unit2), s.reaches snd c ∧ Own snd ∧ Free s c (pgCan u) ∧ ((s.ch c).live
      (pgCan u) = false ∨ (s.ch c).canMode u ≠ 1)) ∧
    (∃ (s : State) (c : Ch) (u : Unit2), (s.ch c).live (pgCan u) = true ∧ ((s.ch c).can u).abdRun = true) ∧
    (∃ (s : State) (c : Ch) (u : Unit2), (s.ch c).live (pgCan u) = true ∧ ((s.ch c).can u).abdRun = true) ∧
    (∃ (s : State) (c : Ch) (u : Unit2), (s.ch c).live (pgCan u) = false ∨ ((s.ch c).can u).abdRun = false) ∧
    (∃ (s : State) (c : Ch) (u : Unit2), (s.ch c).live (pgCan u) = true ∧ (s.ch c).ttRole u = 2 ∧ ((s.ch c).can
      u).refArm = true) ∧
    (∃ (s : State) (c : Ch) (u : Unit2), (s.ch c).live (pgCan u) = true ∧ (s.ch c).ttRole u = 2 ∧ ((s.ch c).can
      u).refArm = true) ∧
    (∃ (s : State) (c : Ch) (u : Unit2), (s.ch c).live (pgCan u) = false ∨ (s.ch c).ttRole u ≠ 2 ∨ ((s.ch c).can
      u).refArm = false) :=
  ⟨⟨bo [], .pf, .ch0, .u0, by decide +kernel⟩,
   ⟨ti [] fun x => { x with state := .busOff, recover := true }, .ch0, .u0, by decide +kernel⟩,
   ⟨bo [], .ch0, .u0, by decide +kernel⟩,
   ⟨ti [] fun x => { x with state := .integrating, tec := 200 }, .ch0, .u0, by decide +kernel⟩,
   ⟨demo, .ch0, .u0, by decide +kernel⟩,
   ⟨ti [] fun x => { x with newMode := some 3 }, .ch0, .u0, 3, by decide +kernel⟩,
   ⟨demo, .ch0, .u0, by decide +kernel⟩,
   ⟨base [] id, .pf, .ch0, .u0, by decide +kernel⟩,
   ⟨base [] id, .pf, .ch0, .u0, by decide +kernel⟩,
   ⟨demo, .pf, .ch0, .u0, by decide +kernel⟩,
   ⟨base [(0x40, 0xA0, 0x13400)] fun x => { x with abdRun := true, abdIdx := 2 }, .ch0, .u0, by decide +kernel⟩,
   ⟨base [(0x40, 0xA0, 0x13400)] fun x => { x with abdRun := true, abdIdx := 5 }, .ch0, .u0, by decide +kernel⟩,
   ⟨demo, .ch0, .u0, by decide +kernel⟩,
   ⟨base [(0x40, 0x140, 0x01010002)] fun x => { x with refArm := true, refPend := true }, .ch0, .u0, by
     decide +kernel⟩,
   ⟨base [(0x40, 0x140, 0x01010002)] fun x => { x with refArm := true, refOld := true }, .ch0, .u0, by decide +kernel⟩,
   ⟨base [] id, .ch0, .u0, by decide +kernel⟩⟩

end CanSide

/-! ## Token bus -/

namespace TokenSide

def tb (mode : Nat) (g : Tpb → Tpb) : State := (en [0x48] demo).k0 fun k => regs [(0x48, 0x40, BitVec.ofNat 32 (mode +
    5*64 + 2*8192)), (0x48, 0x44, 0x10), (0x48, 0xA0, 0x1010000), (0x48, 0xA4, 0x541), (0x48, 0xA8, 15), (0x48, 0xAC, 3),
    (3, 0x40, 0xD00), (0x48, 0x80, 0x1012000), (0x48, 0x84, 0x41), (0x48, 0x88, 4), (0x48, 0x8c, 3), (0x48, 0x94, 0x41),
    (0x48, 0x90, 0x1014000), (0x48, 0x4c, 100000)] { k with tpb0 := g k.tpb0 }

def chr (b : Byte) (stop : Bool) : List Bool :=
  let bits := (List.range 8).map fun i => b.getLsbD i
  bitOf false ++ (bits ++ [decide ((bits.map Bool.toNat).sum % 2 = 1)]).flatMap bitOf ++ bitOf stop

def samples (bs : List Byte) : TpbRx := ⟨true :: bs.flatMap fun b => chr b true, 88⟩

def fr (d : Byte) (b : List Byte) : List Byte := ((tb 1 id).ch .ch0).tpbFrame .u0 d b

def f1 := fr 0x9C [5, 9, 0, 3, 7, 8, 9]

def it1 : TpbItem := ⟨3, 9, 1, 4, 0x1016000, 0, 0, false, true, some 5, false, false, false, 0, 0⟩

def rawFull := (tb 0 fun x => { x with raw := List.replicate 15 1 })

def q1 (v : Bool) (len : Nat) : TpbReq := ⟨9, 5, 0x1015000, len, v⟩

def ans (v : Bool) (len : Nat) (j : Bool) : Tpb → Tpb := fun x => { x with answer := some (q1 v len), joined := j }

def fetchable (g : Tpb → Tpb) :=
  (tb 1 fun x => g { x with posted0 := [(3, 2)] }).k0 fun k => { k with
      sram := k.sram.write 0x1012060 ([9, 1, 4, 0, 0, 0x60, 1, 1].map some) }

def holds : Tpb → Tpb := fun x => { x with hold := true, ring0 := some it1 }

def again : TpbItem := { it1 with again := true }

def sent (it : TpbItem) : Tpb → Tpb := fun x => { x with
    ring0 := some it, phase := .sending, out := .frame, wire := [1, 2, 3] }

def mono : TpbItem := { it1 with fc := 4 }

def echoes (g : Tpb → Tpb) := (tb 1 g).k0 (regs [(0x48, 0x40, BitVec.ofNat 32 (1 + 5*64 + 2*8192 + 2^17))])

def spent : TpbItem := { it1 with retries := 2 }

def due (s : State) := s.k0 fun k => regs [(1, 0x40, 1)] { k with wh := { k.wh with count := 9 } }

def resumed := (fetchable id).k0 (regs [(0x48, 0x8c, 0x10003)])

theorem witness_TokenBusReceive :
    (∃ (s : TpbSamp) (fmt : Nat) (bits : List Bool), s.pos = 0 ∧ s.prev = true ∧ s.deaf = false ∧ bits.length + 1 =
      stopBit fmt) ∧
    (∃ (s : TpbSamp) (fmt : Nat) (bits : List Bool), s.pos = 0 ∧ s.prev = true ∧ s.deaf = false ∧ bits.length + 1 =
      stopBit fmt) ∧
    (∃ (s : TpbSamp) (fmt : Nat) (bits : List Bool), s.pos = 0 ∧ s.prev = true ∧ s.deaf = false ∧ bits.length + 1 =
      stopBit fmt) ∧
    (∃ (s : TpbSamp) (fmt : Nat) (bits : List Bool), s.pos = 0 ∧ s.prev = true ∧ s.deaf = false ∧ bits.length + 1 =
      stopBit fmt) ∧
    (∃ (s : State) (c : Ch) (u : Unit2) (f : TpbRx), Listens (s.ch c) u ∧ Good s c u f ∧ byteAt (heard s c u f).chars 0
      = 156 ∧ tpbFc (heard s c u f) / 2 % 2 = 0 ∧ ((s.ch c).tpbMode u = 2 ∨ tpbDa (heard s c u f) = (s.ch c).tpbAddr u ∨
      tpbDa (heard s c u f) = 127) ∧ QueueOpen (s.ch c) u (tpbBody (heard s c u f)).length) ∧
    (∃ (s : State) (c : Ch) (u : Unit2) (f : TpbRx), Listens (s.ch c) u ∧ Good s c u f ∧ byteAt (heard s c u f).chars 0
      = 156 ∧ tpbFc (heard s c u f) / 2 % 2 = 0 ∧ ((s.ch c).tpbMode u = 2 ∨ tpbDa (heard s c u f) = (s.ch c).tpbAddr u ∨
      tpbDa (heard s c u f) = 127) ∧ QueueOpen (s.ch c) u (tpbBody (heard s c u f)).length) ∧
    (∃ (s : State) (c : Ch) (u : Unit2) (f : TpbRx), Listens (s.ch c) u ∧ Good s c u f ∧ byteAt (heard s c u f).chars 0
      = 156 ∧ tpbFc (heard s c u f) / 2 % 2 = 0 ∧ (s.ch c).tpbMode u ≠ 2 ∧ tpbDa (heard s c u f) ≠ (s.ch c).tpbAddr u ∧
      tpbDa (heard s c u f) ≠ 127) ∧
    (∃ (s : State) (c : Ch) (u : Unit2) (f : TpbRx), Listens (s.ch c) u ∧ Good s c u f ∧ byteAt (heard s c u f).chars 0
      = 225 ∧ (s.ch c).tpbMode u = 1 ∧ tpbDa (heard s c u f) = (s.ch c).tpbAddr u) ∧
    (∃ (s : State) (c : Ch) (u : Unit2) (f : TpbRx), Listens (s.ch c) u ∧ Good s c u f ∧ byteAt (heard s c u f).chars 0
      = 225 ∧ ((s.ch c).tpbMode u ≠ 1 ∨ tpbDa (heard s c u f) ≠ (s.ch c).tpbAddr u)) ∧
    (∃ (s : State) (c : Ch) (u : Unit2) (f : TpbRx) (i : Nat), Listens (s.ch c) u ∧ heardChars s c u f.samples ≠ [] ∧
      (s.ch c).tpbBad u (heard s c u f) = some i) ∧
    (∃ (s : State) (c : Ch) (u : Unit2) (f : TpbRx) (i : Nat), Listens (s.ch c) u ∧ heardChars s c u f.samples ≠ [] ∧
      (s.ch c).tpbBad u (heard s c u f) = some i) ∧
    (∃ (s : State) (c : Ch) (u : Unit2) (f : TpbRx) (it : TpbItem), (s.ch c).live (pgTpb u) = true ∧ (s.ch c).tpbMode u
      ≠ 0 ∧ ((s.ch c).tpb u).phase = TpbPhase.slotWait ∧ ((s.ch c).tpb u).curItem = some it ∧ Good s c u f ∧ LastItem
      (s.ch c) u ((s.ch c).tpb u).cur it ∧ (byteAt (heard s c u f).chars 0 = 62 ∨ byteAt (heard s c u f).chars 0 = 156 ∧
      tpbFc (heard s c u f) % 4 = 2 ∧ tpbSa (heard s c u f) = it.da ∧ (s.ch c).tpbMode u ≠ 2 ∧ it.rsp = 0)) ∧
    (∃ (s : State) (c : Ch) (u : Unit2) (f : TpbRx) (it : TpbItem), (s.ch c).live (pgTpb u) = true ∧ (s.ch c).tpbMode u
      ≠ 0 ∧ ((s.ch c).tpb u).phase = TpbPhase.slotWait ∧ ((s.ch c).tpb u).curItem = some it ∧ Good s c u f ∧ LastItem
      (s.ch c) u ((s.ch c).tpb u).cur it ∧ (byteAt (heard s c u f).chars 0 = 62 ∨ byteAt (heard s c u f).chars 0 = 156 ∧
      tpbFc (heard s c u f) % 4 = 2 ∧ tpbSa (heard s c u f) = it.da ∧ (s.ch c).tpbMode u ≠ 2 ∧ it.rsp = 0)) ∧
    (∃ (s : State) (c : Ch) (u : Unit2), (s.ch c).live (pgTpb u) = false ∨ (s.ch c).tpbMode u = 0) ∧
    (∃ (s : State) (c : Ch) (u : Unit2), (s.ch c).live (pgTpb u) = false ∨ (s.ch c).tpbMode u ≠ 0) ∧
    (∃ (s : State) (c : Ch) (u : Unit2) (before bits stop : List Bool) (cs : List TpbChar), (s.ch c).live (pgTpb u) =
      true ∧ (s.ch c).tpbMode u = 0 ∧ heardChars s c u (before ++ bits ++ stop) = cs ∧ ((s.ch c).reg (pgTpb u) 104).bit
      8 = false ∧ ((s.ch c).tpb u).raw.length + cs.length < tpbRoom (s.ch c) u) ∧
    (∃ (s : State) (c : Ch) (u : Unit2) (before bits stop : List Bool) (cs : List TpbChar) (x : TpbChar), (s.ch c).live
      (pgTpb u) = true ∧ (s.ch c).tpbMode u = 0 ∧ heardChars s c u (before ++ bits ++ stop) = cs ∧ cs = [x] ∧ QueueOpen
      (s.ch c) u (((s.ch c).tpb u).raw.length + 1) ∧ (((s.ch c).reg (pgTpb u) 104).bit 8 = true ∧ BitVec.toNat x.byte =
      ((s.ch c).reg (pgTpb u) 104).field 0 8 ∨ tpbRoom (s.ch c) u ≤ ((s.ch c).tpb u).raw.length + 1)) ∧
    (∃ (s : State) (c : Ch) (u : Unit2), (s.ch c).live (pgTpb u) = true ∧ ((s.ch c).tpb u).raw ≠ [] ∧ QueueOpen (s.ch c)
      u ((s.ch c).tpb u).raw.length) ∧
    (∃ (s : State) (c : Ch) (u : Unit2), (s.ch c).live (pgTpb u) = false ∨ ((s.ch c).tpb u).raw = []) ∧
    (∃ (s : State) (c : Ch) (u : Unit2) (q : TpbReq), (s.ch c).live (pgTpb u) = true ∧ ((s.ch c).tpbMode u = 1 ∨ (s.ch
      c).tpbMode u = 3) ∧ ((s.ch c).tpb u).answer = some q ∧ (s.ch c).tpbMode u = 1 ∧ ((s.ch c).tpb u).joined = false) ∧
    (∃ (s : State) (c : Ch) (u : Unit2) (q : TpbReq), (s.ch c).live (pgTpb u) = true ∧ ((s.ch c).tpbMode u = 1 ∨ (s.ch
      c).tpbMode u = 3) ∧ ((s.ch c).tpb u).answer = some q ∧ ((s.ch c).tpbMode u = 3 ∨ ((s.ch c).tpb u).joined = true) ∧
      q.valid = false) ∧
    (∃ (s : State) (c : Ch) (u : Unit2) (q : TpbReq), (s.ch c).live (pgTpb u) = true ∧ ((s.ch c).tpbMode u = 1 ∨ (s.ch
      c).tpbMode u = 3) ∧ ((s.ch c).tpb u).answer = some q ∧ ((s.ch c).tpbMode u = 3 ∨ ((s.ch c).tpb u).joined = true) ∧
      q.valid = true ∧ (s.ch c).ecc = Ecc.reset ∧ Unwatched (s.ch c) ∧ (q.len = 0 ∨ (s.ch c).settled (mTpb u) q.base
      q.len false ≠ Grant.refused)) ∧
    (∃ (s : State) (c : Ch) (u : Unit2) (q : TpbReq), (s.ch c).live (pgTpb u) = true ∧ ((s.ch c).tpbMode u = 1 ∨ (s.ch
      c).tpbMode u = 3) ∧ ((s.ch c).tpb u).answer = some q ∧ ((s.ch c).tpbMode u = 3 ∨ ((s.ch c).tpb u).joined = true) ∧
      q.valid = true ∧ q.len ≠ 0 ∧ (s.ch c).settled (mTpb u) q.base q.len false = Grant.refused) ∧
    (∃ (s : State) (c : Ch) (u : Unit2), (s.ch c).live (pgTpb u) = false ∨ (s.ch c).tpbMode u = 0 ∨ (s.ch c).tpbMode u =
      2 ∨ ((s.ch c).tpb u).answer = none) ∧
    (∃ (s : State) (c : Ch) (u : Unit2), (s.ch c).live (pgTpb u) = true ∧ ((s.ch c).tpb u).inBreak = false) ∧
    (∃ (s : State) (c : Ch) (u : Unit2), (s.ch c).live (pgTpb u) = true ∧ ((s.ch c).tpb u).inBreak = false) ∧
    (∃ (s : State) (c : Ch) (u : Unit2), (s.ch c).live (pgTpb u) = true ∧ ((s.ch c).tpb u).inBreak = false) ∧
    (∃ (s : State) (c : Ch) (u : Unit2), (s.ch c).live (pgTpb u) = false ∨ ((s.ch c).tpb u).inBreak = true) ∧
    (∃ (s : State) (snd : Sender) (c : Ch) (u : Unit2) (v : Word), s.reaches snd c ∧ Own snd ∧ Free s c (pgTpb u) ∧
      (v.field 0 10 < (s.ch c).tpbRqSize u ∧ (fun (x : Nat) => (x + (s.ch c).tpbRqSize u - (s.ch c).tpbRqAck u % (s.ch
      c).tpbRqSize u) % (s.ch c).tpbRqSize u) (v.field 0 10) ≤ (fun (x : Nat) => (x + (s.ch c).tpbRqSize u - (s.ch
      c).tpbRqAck u % (s.ch c).tpbRqSize u) % (s.ch c).tpbRqSize u) ((s.ch c).tpbRqPut u))) ∧
    (∃ (s : State) (snd : Sender) (c : Ch) (u : Unit2) (v : Word), s.reaches snd c ∧ Own snd ∧ Free s c (pgTpb u) ∧
      (¬(v.field 0 10 < (s.ch c).tpbRqSize u ∧ (fun (x : Nat) => (x + (s.ch c).tpbRqSize u - (s.ch c).tpbRqAck u % (s.ch
      c).tpbRqSize u) % (s.ch c).tpbRqSize u) (v.field 0 10) ≤ (fun (x : Nat) => (x + (s.ch c).tpbRqSize u - (s.ch
      c).tpbRqAck u % (s.ch c).tpbRqSize u) % (s.ch c).tpbRqSize u) ((s.ch c).tpbRqPut u)))) :=
  ⟨⟨{ TpbSamp.reset with prev := true, gap := 9 }, 0, [true, false, true, true, false, false, false, false, true], by
     decide +kernel⟩,
   ⟨{ TpbSamp.reset with prev := true, gap := 9 }, 0, [true, false, true, true, false, false, false, false, true], by
     decide +kernel⟩,
   ⟨{ TpbSamp.reset with prev := true, gap := 9 }, 1, [true, false, true, true, false, false, false, false], by
     decide +kernel⟩,
   ⟨{ TpbSamp.reset with prev := true, gap := 9 }, 2, [true, false, true, true, false, false, false, false], by
     decide +kernel⟩,
   ⟨tb 1 id, .ch0, .u0, samples f1, by decide +kernel⟩,
   ⟨tb 1 id, .ch0, .u0, samples (fr 0x9C ([5, 9, 1, 2, 3, 3])), by decide +kernel⟩,
   ⟨tb 1 id, .ch0, .u0, samples (fr 0x9C [6, 9, 0, 1, 3]), by decide +kernel⟩,
   ⟨tb 1 id, .ch0, .u0, samples (fr 0xE1 [5, 9]), by decide +kernel⟩,
   ⟨tb 1 id, .ch0, .u0, samples (fr 0xE1 [6, 9]), by decide +kernel⟩,
   ⟨tb 1 id, .ch0, .u0, samples (f1 ++ [4]), 4, by decide +kernel⟩,
   ⟨tb 1 id, .ch0, .u0, ⟨true :: chr 0x3E false, 7⟩, 2, by decide +kernel⟩,
   ⟨tb 1 fun x => { x with phase := .slotWait, ring0 := some it1 }, .ch0, .u0, samples [0x3E], it1, by decide +kernel⟩,
   ⟨tb 1 fun x => { x with phase := .slotWait, ring0 := some it1 }, .ch0, .u0, samples (fr 0x9C [5, 9, 2, 0]), it1, by
     decide +kernel⟩,
   ⟨demo, .ch0, .u0, by decide +kernel⟩,
   ⟨tb 1 id, .ch0, .u0, by decide +kernel⟩,
   ⟨tb 0 fun x => { x with raw := [1] }, .ch0, .u0, [true], chr 0x35 true, [true], heardChars (tb 0 fun x =>
     { x with raw := [1] }) .ch0 .u0 ([true] ++ chr 0x35 true ++ [true]), by decide +kernel⟩,
   ⟨rawFull, .ch0, .u0, [true], chr 0x35 true, [true], [⟨0x35, false, false, 1⟩], ⟨0x35, false, false, 1⟩, by
     decide +kernel⟩,
   ⟨tb 0 fun x => { x with raw := [1, 2, 3], rawErr := true, rawTs := 77 }, .ch0, .u0, by decide +kernel⟩,
   ⟨demo, .ch0, .u0, by decide +kernel⟩,
   ⟨tb 1 (ans false 0 false), .ch0, .u0, q1 false 0, by decide +kernel⟩,
   ⟨tb 1 (ans false 0 true), .ch0, .u0, q1 false 0, by decide +kernel⟩,
   ⟨tb 3 (ans true 5 false), .ch0, .u0, q1 true 5, by decide +kernel⟩,
   ⟨(tb 1 (ans true 5 true)).k0 (regs [(3, 0x40, 0x100)]), .ch0, .u0, q1 true 5, by decide +kernel⟩,
   ⟨tb 1 id, .ch0, .u0, by decide +kernel⟩,
   ⟨tb 1 id, .ch0, .u0, by decide +kernel⟩,
   ⟨tb 1 fun x => { x with phase := .backoff, hold := true }, .ch0, .u0, by decide +kernel⟩,
   ⟨tb 1 fun x => { x with fresh := true, hold := true }, .ch0, .u0, by decide +kernel⟩,
   ⟨tb 1 fun x => { x with inBreak := true }, .ch0, .u0, by decide +kernel⟩,
   ⟨tb 1 id, .pf, .ch0, .u0, 9, by decide +kernel⟩,
   ⟨tb 1 id, .pf, .ch0, .u0, 35, by decide +kernel⟩⟩

theorem witness_TokenBusTransmit :
    (∃ (s : State) (snd : Sender) (c : Ch) (u : Unit2) (r : Fin 2) (v : Word), s.reaches snd c ∧ Own snd ∧ Free s c
      (pgTpb u) ∧ (v.field 0 10 < (s.ch c).tpbSize u r.val ∧ (fun (x : Nat) => (x + (s.ch c).tpbSize u r.val - (s.ch
      c).tpbCons u r.val) % (s.ch c).tpbSize u r.val) ((s.ch c).tpbProd u r.val) ≤ (fun (x : Nat) => (x + (s.ch
      c).tpbSize u r.val - (s.ch c).tpbCons u r.val) % (s.ch c).tpbSize u r.val) (v.field 0 10))) ∧
    (∃ (s : State) (snd : Sender) (c : Ch) (u : Unit2) (r : Fin 2) (v : Word), s.reaches snd c ∧ Own snd ∧ Free s c
      (pgTpb u) ∧ (¬(v.field 0 10 < (s.ch c).tpbSize u r.val ∧ (fun (x : Nat) => (x + (s.ch c).tpbSize u r.val - (s.ch
      c).tpbCons u r.val) % (s.ch c).tpbSize u r.val) ((s.ch c).tpbProd u r.val) ≤ (fun (x : Nat) => (x + (s.ch
      c).tpbSize u r.val - (s.ch c).tpbCons u r.val) % (s.ch c).tpbSize u r.val) (v.field 0 10)))) ∧
    (∃ (s : State) (c : Ch) (u : Unit2) (it : TpbItem), MaySend (s.ch c) u ∧ (s.ch c).tpbMode u = 1 ∧ ((s.ch c).tpb
      u).hold = true ∧ ((s.ch c).tpb u).served = false ∧ ((s.ch c).tpb u).redo = false ∧ (((s.ch c).tpb u).fresh = false
      ∨ (s.node c).tpbIdle u = true) ∧ ((s.ch c).tpb u).ring0 = some it ∧ it.again = false ∧ (s.ch c).ecc = Ecc.reset ∧
      Unwatched (s.ch c) ∧ (it.len = 0 ∨ (s.ch c).settled (mTpb u) it.addr it.len false ≠ Grant.refused)) ∧
    (∃ (s : State) (c : Ch) (u : Unit2) (it : TpbItem), MaySend (s.ch c) u ∧ (s.ch c).tpbMode u = 1 ∧ ((s.ch c).tpb
      u).hold = true ∧ ((s.ch c).tpb u).served = false ∧ ((s.ch c).tpb u).redo = false ∧ (((s.ch c).tpb u).fresh = false
      ∨ (s.node c).tpbIdle u = true) ∧ ((s.ch c).tpb u).ring0 = some it ∧ it.again = false ∧ it.len ≠ 0 ∧ (s.ch
      c).settled (mTpb u) it.addr it.len false = Grant.refused ∧ LastItem (s.ch c) u 0 it) ∧
    (∃ (s : State) (c : Ch) (u : Unit2) (r : Nat) (it : TpbItem), MaySend (s.ch c) u ∧ (s.ch c).tpbMode u ≠ 3 ∧ ((s.ch
      c).tpbMode u = 1 → ((s.ch c).tpb u).hold = true) ∧ ((s.ch c).tpb u).redo = true ∧ ((s.ch c).tpb u).cur = r ∧
      ((s.ch c).tpb u).item r = some it ∧ it.again = true ∧ (s.node c).tpbIdle u = true ∧ (s.ch c).ecc = Ecc.reset ∧
      Unwatched (s.ch c) ∧ (it.len = 0 ∨ (s.ch c).settled (mTpb u) it.addr it.len false ≠ Grant.refused)) ∧
    (∃ (s : State) (c : Ch) (u : Unit2), (s.ch c).live (pgTpb u) = false ∨ ((s.ch c).tpb u).phase ≠ TpbPhase.quiet ∨
      ((s.ch c).tpb u).answer ≠ none ∨ ((s.ch c).tpb u).out ≠ TpbWire.quiet ∨ (s.ch c).tpbMode u = 3 ∨ (s.ch c).tpbMode
      u = 1 ∧ ((s.ch c).tpb u).hold = false ∨ (((s.ch c).tpb u).fresh = true ∨ ((s.ch c).tpb u).retryRing ≠ none) ∧
      (s.node c).tpbIdle u = false ∨ ((s.ch c).tpb u).ring0 = none ∧ ((s.ch c).tpb u).ring1 = none) ∧
    (∃ (s : State) (c : Ch) (u : Unit2), (s.ch c).live (pgTpb u) = false ∨ ((s.ch c).tpb u).phase ≠ TpbPhase.quiet ∨
      ((s.ch c).tpb u).answer ≠ none ∨ ((s.ch c).tpb u).out ≠ TpbWire.quiet ∨ (s.ch c).tpbMode u = 3 ∨ (s.ch c).tpbMode
      u = 1 ∧ ((s.ch c).tpb u).hold = false ∨ (((s.ch c).tpb u).fresh = true ∨ ((s.ch c).tpb u).retryRing ≠ none) ∧
      (s.node c).tpbIdle u = false ∨ ((s.ch c).tpb u).ring0 = none ∧ ((s.ch c).tpb u).ring1 = none) ∧
    (∃ (s : State) (c : Ch) (u : Unit2) (it : TpbItem) (echo : Option Nat), (s.ch c).live (pgTpb u) = true ∧ ((s.ch
      c).tpb u).out = TpbWire.frame ∧ ((s.ch c).tpb u).phase = TpbPhase.sending ∧ ((s.ch c).tpb u).curItem = some it ∧
      EchoRight s c u echo ∧ it.fc % 2 = 1 ∧ it.da ≠ 127 ∧ (s.ch c).tpbMode u ≠ 0) ∧
    (∃ (s : State) (c : Ch) (u : Unit2) (it : TpbItem) (echo : Option Nat), (s.ch c).live (pgTpb u) = true ∧ ((s.ch
      c).tpb u).out = TpbWire.frame ∧ ((s.ch c).tpb u).phase = TpbPhase.sending ∧ ((s.ch c).tpb u).curItem = some it ∧
      EchoRight s c u echo ∧ (it.fc % 2 = 0 ∨ it.da = 127 ∨ (s.ch c).tpbMode u = 0) ∧ LastItem (s.ch c) u ((s.ch c).tpb
      u).cur it) ∧
    (∃ (s : State) (c : Ch) (u : Unit2) (echo : Option Nat) (i : Nat) (it : TpbItem), (s.ch c).live (pgTpb u) = true ∧
      EchoWrong s c u echo i ∧ ((s.ch c).tpb u).out = TpbWire.frame ∧ ((s.ch c).tpb u).phase = TpbPhase.sending ∧ ((s.ch
      c).tpb u).curItem = some it ∧ it.fired = false ∧ it.retries < (s.ch c).tpbMaxRetry u) ∧
    (∃ (s : State) (c : Ch) (u : Unit2) (echo : Option Nat) (i : Nat), (s.ch c).live (pgTpb u) = true ∧ EchoWrong s c u
      echo i ∧ ((s.ch c).tpb u).out = TpbWire.answer) ∧
    (∃ (s : State) (c : Ch) (u : Unit2) (echo : Option Nat), (s.ch c).live (pgTpb u) = true ∧ EchoRight s c u echo ∧
      (((s.ch c).tpb u).out = TpbWire.answer ∨ ((s.ch c).tpb u).out = TpbWire.frame ∧ ∃ (tgt : Nat), ∃ (n : Nat), ∃ (p :
      Bool), ((s.ch c).tpb u).phase = TpbPhase.passing tgt n p)) ∧
    (∃ (s : State) (c : Ch) (u : Unit2), (s.ch c).live (pgTpb u) = false ∨ ((s.ch c).tpb u).out = TpbWire.quiet) ∧
    (∃ (s : State) (c : Ch) (u : Unit2) (it : TpbItem), (s.ch c).live (pgTpb u) = true ∧ ((s.ch c).tpb u).out =
      TpbWire.quiet ∧ ((s.ch c).tpb u).phase = TpbPhase.slotWait ∧ ((s.ch c).tpb u).curItem = some it ∧ LastItem (s.ch
      c) u ((s.ch c).tpb u).cur it) ∧
    (∃ (s : State) (c : Ch) (u : Unit2) (it : TpbItem), (s.ch c).live (pgTpb u) = true ∧ ((s.ch c).tpb u).out =
      TpbWire.quiet ∧ ((s.ch c).tpb u).phase = TpbPhase.slotWait ∧ ((s.ch c).tpb u).curItem = some it ∧ LastItem (s.ch
      c) u ((s.ch c).tpb u).cur it) ∧
    (∃ (s : State) (c : Ch) (u : Unit2) (tgt : Nat), (s.ch c).live (pgTpb u) = true ∧ ((s.ch c).tpb u).out =
      TpbWire.quiet ∧ ((s.ch c).tpb u).phase = TpbPhase.passing tgt 0 false) ∧
    (∃ (s : State) (c : Ch) (u : Unit2) (tgt : Nat), (s.ch c).live (pgTpb u) = true ∧ ((s.ch c).tpb u).out =
      TpbWire.quiet ∧ ((s.ch c).tpb u).phase = TpbPhase.passing tgt 1 false ∧ tgt < 126) ∧
    (∃ (s : State) (c : Ch) (u : Unit2), (s.ch c).live (pgTpb u) = false ∨ ((s.ch c).tpb u).out ≠ TpbWire.quiet ∨ ((s.ch
      c).tpb u).phase = TpbPhase.quiet ∨ ((s.ch c).tpb u).phase = TpbPhase.sending ∨ ((s.ch c).tpb u).phase =
      TpbPhase.backoff) ∧
    (∃ (s : State) (c : Ch) (u : Unit2) (r : Fin 2) (it : TpbItem), (s.ch c).live (pgTpb u) = true ∧ ((s.ch c).tpb
      u).item r.val = some it ∧ it.fired = false ∧ (s.ch c).due it.fire = true ∧ (((s.ch c).tpb u).cur = r.val ∧ (((s.ch
      c).tpb u).phase = TpbPhase.sending ∨ ((s.ch c).tpb u).phase = TpbPhase.slotWait))) ∧
    (∃ (s : State) (c : Ch) (u : Unit2) (r : Fin 2) (it : TpbItem), (s.ch c).live (pgTpb u) = true ∧ ((s.ch c).tpb
      u).item r.val = some it ∧ it.fired = false ∧ (s.ch c).due it.fire = true ∧ (¬(((s.ch c).tpb u).cur = r.val ∧
      (((s.ch c).tpb u).phase = TpbPhase.sending ∨ ((s.ch c).tpb u).phase = TpbPhase.slotWait))) ∧ LastItem (s.ch c) u
      (r.val) it) ∧
    (∃ (s : State) (c : Ch) (u : Unit2) (r : Fin 2), (s.ch c).live (pgTpb u) = false ∨ ∀ (it : TpbItem), it ∈ ((s.ch
      c).tpb u).item r.val → it.fired = true ∨ (s.ch c).due it.fire = false) ∧
    (∃ (s : State) (c : Ch) (u : Unit2), (s.ch c).visitOver u = true ∧ (((s.ch c).tpb u).fresh = false ∨ (s.node
      c).tpbIdle u = true) ∧ ((s.ch c).reg (pgTpb u) 80).field 8 8 = 0 ∧ (s.ch c).tpbNs u ≠ (s.ch c).tpbAddr u) ∧
    (∃ (s : State) (c : Ch) (u : Unit2), (s.ch c).visitOver u = true ∧ (((s.ch c).tpb u).fresh = false ∨ (s.node
      c).tpbIdle u = true) ∧ ((s.ch c).reg (pgTpb u) 80).field 8 8 = 0 ∧ (s.ch c).tpbNs u = (s.ch c).tpbAddr u) ∧
    (∃ (s : State) (c : Ch) (u : Unit2), (s.ch c).visitOver u = false ∨ ((s.ch c).tpb u).fresh = true ∧ (s.node
      c).tpbIdle u = false) ∧
    (∃ (s : State) (c : Ch) (u : Unit2), Listens (s.ch c) u ∧ (s.ch c).tpbMode u = 1 ∧ (s.node c).tpbIdle u = true) ∧
    (∃ (s : State) (c : Ch) (u : Unit2), (s.ch c).live (pgTpb u) = false ∨ (s.ch c).tpbMode u ≠ 1 ∨ (s.node c).tpbIdle u
      = false ∨ ((s.ch c).tpb u).hold = true ∨ ((s.ch c).tpb u).phase ≠ TpbPhase.quiet) ∧
    (∃ (s : State) (c : Ch) (u : Unit2) (silent : Bool), (s.ch c).live (pgTpb u) = true ∧ ((s.ch c).tpb u).phase =
      TpbPhase.backoff ∧ (silent = false ∨ (s.node c).tpbIdle u = true)) ∧
    (∃ (s : State) (c : Ch) (u : Unit2) (silent : Bool), (s.ch c).live (pgTpb u) = true ∧ ((s.ch c).tpb u).phase =
      TpbPhase.backoff ∧ (silent = false ∨ (s.node c).tpbIdle u = true)) ∧
    (∃ (s : State) (c : Ch) (u : Unit2) (silent : Bool), (s.ch c).live (pgTpb u) = false ∨ ((s.ch c).tpb u).phase ≠
      TpbPhase.backoff ∨ silent = true ∧ (s.node c).tpbIdle u = false) ∧
    (∃ (s : State) (snd : Sender) (c : Ch) (u : Unit2) (r : Fin 2), s.reaches snd c ∧ Own snd ∧ Free s c (pgTpb u) ∧
      ((s.ch c).tpbCons u r.val = (s.ch c).tpbProd u r.val ∨ (s.ch c).live (pgTpb u) = false ∨ (s.ch c).tpbEn u r.val =
      false ∨ ((s.ch c).tpb u).item r.val ≠ none)) ∧
    (∃ (s : State) (snd : Sender) (c : Ch) (u : Unit2) (r : Fin 2) (it : TpbItem), s.reaches snd c ∧ Own snd ∧ Free s c
      (pgTpb u) ∧ NextItem (s.ch c) u (r.val) it ∧ (s.ch c).tpbCons u r.val ≠ (s.ch c).tpbProd u r.val) :=
  ⟨⟨fetchable id, .pf, .ch0, .u0, 0, 9, by decide +kernel⟩,
   ⟨fetchable id, .pf, .ch0, .u0, 0, 19, by decide +kernel⟩,
   ⟨tb 1 holds, .ch0, .u0, it1, by decide +kernel⟩,
   ⟨(tb 1 holds).k0 (regs [(3, 0x40, 0x100)]), .ch0, .u0, it1, by decide +kernel⟩,
   ⟨tb 1 fun x => { x with hold := true, ring0 := some again, redo := true }, .ch0, .u0, 0, again, by decide +kernel⟩,
   ⟨demo, .ch0, .u0, by decide +kernel⟩,
   ⟨tb 1 fun x => { x with ring0 := some it1 }, .ch0, .u0, by decide +kernel⟩,
   ⟨tb 1 (sent it1), .ch0, .u0, it1, none, by decide +kernel⟩,
   ⟨tb 1 (sent mono), .ch0, .u0, mono, none, by decide +kernel⟩,
   ⟨echoes (sent it1), .ch0, .u0, some 1, 1, it1, by decide +kernel⟩,
   ⟨echoes fun x => { x with out := .answer, wire := [1, 2, 3] }, .ch0, .u0, some 1, 1, by decide +kernel⟩,
   ⟨tb 1 fun x => { x with out := .answer }, .ch0, .u0, none, by decide +kernel, by decide +kernel, .inl (by
     decide +kernel)⟩,
   ⟨demo, .ch0, .u0, by decide +kernel⟩,
   ⟨tb 1 fun x => { x with ring0 := some it1, phase := .slotWait }, .ch0, .u0, it1, by decide +kernel⟩,
   ⟨tb 1 fun x => { x with ring0 := some spent, phase := .slotWait }, .ch0, .u0, spent, by decide +kernel⟩,
   ⟨tb 1 fun x => { x with hold := true, phase := .passing 8 0 false }, .ch0, .u0, 8, by decide +kernel⟩,
   ⟨(tb 1 fun x => { x with hold := true, phase := .passing 8 1 false }).k0 (regs [(0x48, 0x54, 0x100)]), .ch0, .u0,
     8, by decide +kernel⟩,
   ⟨demo, .ch0, .u0, by decide +kernel⟩,
   ⟨due (tb 1 fun x => { x with ring0 := some it1, phase := .slotWait }), .ch0, .u0, 0, it1, by decide +kernel⟩,
   ⟨due (tb 1 fun x => { x with ring0 := some it1 }), .ch0, .u0, 0, it1, by decide +kernel⟩,
   ⟨demo, .ch0, .u0, 0, by decide +kernel⟩,
   ⟨(tb 1 fun x => { x with hold := true }).k0 (regs [(0x48, 0x54, 0x100)]), .ch0, .u0, by decide +kernel⟩,
   ⟨tb 1 fun x => { x with hold := true }, .ch0, .u0, by decide +kernel⟩,
   ⟨demo, .ch0, .u0, by decide +kernel⟩,
   ⟨tb 1 id, .ch0, .u0, by decide +kernel⟩,
   ⟨demo, .ch0, .u0, by decide +kernel⟩,
   ⟨tb 1 fun x => { x with hold := true, phase := .backoff }, .ch0, .u0, false, by decide +kernel⟩,
   ⟨tb 1 fun x => { x with hold := true, phase := .backoff }, .ch0, .u0, true, by decide +kernel⟩,
   ⟨demo, .ch0, .u0, true, by decide +kernel⟩,
   ⟨(tb 1 id).k0 (regs [(0x48, 0x8c, 0x10004)]), .pf, .ch0, .u0, 0, by decide +kernel⟩,
   ⟨resumed, .pf, .ch0, .u0, 0, ((resumed.ch .ch0).tpbParse .u0 3 2 ((resumed.ch .ch0).sram.read 0x1012060 32)).1, by
     decide +kernel⟩⟩

end TokenSide

/-! ## Slotted bus -/

namespace SlotSide

/-- The receiver of a line, its place in the samples looked at before every next one: the kernel then evaluates a long frame. -/
def runF (t : Nat) : SlbLine → List Bool → SlbLine
  | l, [] => l
  | l, b :: bs => if (l.step t b).pos = 0 then runF t (l.step t b) bs else runF t (l.step t b) bs

theorem run_eq (t : Nat) (bs : List Bool) : SlbLine.run t bs = runF t SlbLine.start bs := by
  suffices ∀ l, bs.foldl (SlbLine.step t) l = runF t l bs from this _
  induction bs with
  | nil => exact fun _ => rfl
  | cons b bs ih => exact fun l => by simp [runF, ih]

def slbInF (k : Channel) (bs : List Bool) (at0 : Int) (stamp : DWord) : Option SlbIn :=
  let l := runF k.tssLen SlbLine.start bs
  let dly : Int := k.sl 0x054 16 16
  let t := fun (i : Nat) => at0 + (i * k.slSample : Nat) - dly
  if l.ph = .idle then none
  else some ⟨l.ph = .done, l.bytes, t l.first, t l.fin, stamp + tickNs ((l.first * k.slSample : Nat) - dly)⟩

theorem slbIn_eq (k : Channel) (bs : List Bool) (at0 : Int) (stamp : DWord) : k.slbIn bs at0 stamp = slbInF k bs at0 stamp := by
  simp only [Channel.slbIn, slbInF, run_eq]


def sb (l : List (Nat × Nat × Word)) (g : Slb → Slb) : State := (en [0x50] demo).k0 fun k => regs ([(0x50, 0x40,
    BitVec.ofNat 32 (0xC+0x30+1*64+5*65536)), (0x50, 0x44, BitVec.ofNat 32 (40+65536)), (0x50, 0x48, BitVec.ofNat 32
    (2+100*65536)), (0x50, 0x4c, BitVec.ofNat 32 (60+4*65536+0x1000000)), (0x50, 0x50, BitVec.ofNat 32 (1000+2*65536)),
    (0x50, 0x54, 10), (0x50, 0x58, BitVec.ofNat 32 (30+20*65536)), (0x50, 0x60, 0x108), (0x50, 0xB4, 0x1010000), (3, 0x40,
    0xF00)] ++ l) { k with slb := g k.slb }

def conf := sb [] id

def lis := sb [] fun x => { x with state := .listen }

def act (g : Slb → Slb) :=
  sb [] fun x => g { x with
      state := .active, sched := true, medA := { x.medA with slot := 1 }, medB := { x.medB with slot := 1 }, cycle := 5 }

def asleep := sb [(0x50, 0x40, 0x15000C)] fun x => { x with state := .sleep }

def bcf (b : Nat) (s : State) :=
  s.k0 (regs [(0x50, 0x400+8*b, BitVec.ofNat 32 (0x80000000+0x3000+0x800+1)), (0x50, 0x404+8*b, 0x302)])

def rdy (b : Nat) := bcf b (act fun x => { x with bufs := [(b, { slbBufBlank with ready := true, fire := some 9 })] })

def late := (rdy 33).k0 fun k => regs [(1, 0x40, 1)] { k with wh := { k.wh with count := 9 } }

def rx (fr : List Byte) : SlbRx := ⟨lineSamples 4 5 fr, 36, 77⟩

def fr (m : Port) (sy : Bool) (id : Nat) : SlbRx := rx (slbFrame m sy false false id 5 [1, 2])

def seen (s : State) (f : SlbRx) : SlbIn := (slbInF (s.ch .ch0) ((s.node .ch0).rxd f.samples) f.at0 f.stamp).getD ⟨false,
    [], 0, 0, 0⟩

def free := sb [] fun x => { x with
    state := .sleep, sched := true, freeRun := true, cycle := 5, medA := { x.medA with slot := 1 } }

def cut : SlbRx := ⟨(lineSamples 4 5 (slbFrame .a true false false 1 5 [1, 2])).take 500, 36, 77⟩

def bent (i : Nat) : SlbRx := rx ((slbFrame .b true false false 1 5 [1, 2]).set i 0x55)

def drift := sb [] fun x => { x with
    state := .listen, sched := true, freeRun := true, cycle := 5, medA := { x.medA with slot := 1 } }

def cold (g : Slb → Slb) :=
  (sb [] fun x => g { x with state := .coldstart, sched := true, cycle := 0, medA := { x.medA with slot := 1 } }).k0
    (regs [(0x50, 0x40, BitVec.ofNat 32 (0xC+0x30+2*64+5*65536))])

def start1 : SlbRx := rx (slbFrame .a true true false 1 5 [1, 2])

def own (l : List Byte) : Slb → Slb := fun x => { x with medA := { x.medA with tx := l } }

def rcv (slot : Nat) (g : Slb → Slb) :=
  (act g).k0 (regs [(0x50, 0x418, BitVec.ofNat 32 (0x80000000+0x3000+slot)), (0x50, 0x41C, 2)])

def sn (p : List Byte) : SlbSeen := ⟨true, false, false, 100, 5, p, 77⟩

def both : Slb → Slb := fun x => { x with
    medA := { x.medA with seen := sn [1, 2] }, medB := { x.medB with seen := sn [1, 3] } }

def dynm (g : Slb → Slb) : Slb → Slb := fun x => g { x with
    dynamic := true, medA := { x.medA with slot := 9 }, medB := { x.medB with slot := 9 } }

def sentA (b : Nat) :=
  bcf b (act fun x => { x with
      medA := { x.medA with pend := some b, tx := [1] }, medB := { x.medB with pend := some b, tx := [1] },
      bufs := [(b, { slbBufBlank with ready := true, taken := true })] })

def tbuf (slot : Nat) (g : Slb → Slb) :=
  (act fun x => g { x with bufs := [(0, { slbBufBlank with ready := true })] }).k0 fun k => regs [(0x50, 0x40, BitVec.ofNat
      32 (0xC+5*65536)), (0x50, 0x400, BitVec.ofNat 32 (0x80000000+0x3000+0x800+slot)), (0x50, 0x404, 2)]
      { k with sram := [(0x1010010, 5), (0x1010011, 6)] }

def meas (g : Slb → Slb) : Slb → Slb := fun x => g { x with
    measEven := [⟨1, some 4, some 5⟩, ⟨2, some 8, none⟩], measOdd := [⟨1, some 4, some 6⟩, ⟨2, some 9, none⟩] }

def waiting := sb [] fun x => { x with state := .listen, cold := true }

theorem tbuf_ready (b : Nat) (h : (((tbuf 2 id).ch .ch0).slbBuf b).ready = true) : b = 0 := by
  cases b with
  | zero => rfl
  | succ _ => exact absurd (show false = true from h) Bool.noConfusion


theorem witness_SlottedBusControl :
    (∃ (s : State) (snd : Sender) (c : Ch) (v : Word), s.reaches snd c ∧ Own snd ∧ Free s c pgSLB ∧ v.field 1 3 = 0 ∧
      (s.ch c).live pgSLB = true ∧ (s.ch c).slb.state = SlbSt.config ∧ (s.ch c).slbCfgOk = true) ∧
    (∃ (s : State) (snd : Sender) (c : Ch) (v : Word), s.reaches snd c ∧ Own snd ∧ Free s c pgSLB ∧ v.field 1 3 = 0 ∧
      (s.ch c).live pgSLB = true ∧ (s.ch c).slb.state = SlbSt.config ∧ (s.ch c).slbCfgOk = false) ∧
    (∃ (s : State) (snd : Sender) (c : Ch) (v : Word), s.reaches snd c ∧ Own snd ∧ Free s c pgSLB ∧ v.field 1 3 = 0 ∧
      (s.ch c).live pgSLB = true ∧ (s.ch c).slb.state = SlbSt.sleep) ∧
    (∃ (s : State) (snd : Sender) (c : Ch) (v : Word), s.reaches snd c ∧ Own snd ∧ Free s c pgSLB ∧ v.field 1 3 = 0 ∧
      ((s.ch c).live pgSLB = false ∨ (s.ch c).slb.state ≠ SlbSt.config ∧ (s.ch c).slb.state ≠ SlbSt.sleep)) ∧
    (∃ (s : State) (snd : Sender) (c : Ch) (v : Word), s.reaches snd c ∧ Own snd ∧ Free s c pgSLB ∧ v.field 2 2 = 0 ∧
      v.bit 0 = false ∧ (s.ch c).live pgSLB = true ∧ ((s.ch c).slb.state = SlbSt.config ∨ (s.ch c).slb.state =
      SlbSt.listen)) ∧
    (∃ (s : State) (snd : Sender) (c : Ch) (v : Word), s.reaches snd c ∧ Own snd ∧ Free s c pgSLB ∧ v.field 2 2 = 0 ∧
      v.bit 0 = false ∧ (s.ch c).live pgSLB = true ∧ ((s.ch c).slb.state = SlbSt.config ∨ (s.ch c).slb.state =
      SlbSt.listen)) ∧
    (∃ (s : State) (snd : Sender) (c : Ch) (v : Word), s.reaches snd c ∧ Own snd ∧ Free s c pgSLB ∧ v.field 2 2 = 0 ∧
      v.bit 0 = false ∧ (s.ch c).live pgSLB = true ∧ (s.ch c).slb.state.timed = true) ∧
    (∃ (s : State) (snd : Sender) (c : Ch) (v : Word), s.reaches snd c ∧ Own snd ∧ Free s c pgSLB ∧ v.field 2 2 = 0 ∧
      v.bit 0 = false ∧ ((s.ch c).live pgSLB = false ∨ (s.ch c).slb.state = SlbSt.sleep)) ∧
    (∃ (s : State) (snd : Sender) (c : Ch) (v : Word), s.reaches snd c ∧ Own snd ∧ Free s c pgSLB ∧ v.field 0 2 = 0 ∧
      v.bit 3 = false ∧ (s.ch c).live pgSLB = true ∧ (s.ch c).slb.state = SlbSt.listen) ∧
    (∃ (s : State) (snd : Sender) (c : Ch) (v : Word), s.reaches snd c ∧ Own snd ∧ Free s c pgSLB ∧ v.field 0 2 = 0 ∧
      v.bit 3 = false ∧ ((s.ch c).live pgSLB = false ∨ (s.ch c).slb.state ≠ SlbSt.listen)) ∧
    (∃ (s : State) (snd : Sender) (c : Ch) (v : Word), s.reaches snd c ∧ Own snd ∧ Free s c pgSLB ∧ v.field 0 3 = 0 ∧
      (s.ch c).slb.state = SlbSt.config) ∧
    (∃ (s : State) (snd : Sender) (c : Ch) (v : Word), s.reaches snd c ∧ Own snd ∧ Free s c pgSLB ∧ v.field 0 3 = 0 ∧
      (s.ch c).slb.state ≠ SlbSt.config) ∧
    (∃ (s : State) (w : SlbPlace), (s.ch w.chan).running = true) ∧
    (∃ (s : State) (w : SlbPlace), (s.ch w.chan).running = false) ∧
    (∃ (s : State) (c : Ch), (s.node c).fieldUp = true ∧ (s.ch c).live pgSLB = true ∧ (s.ch c).slb.state = SlbSt.sleep ∧
      ((s.ch c).reg pgSLB 64).bit 20 = true) ∧
    (∃ (s : State) (c : Ch), ¬((s.node c).fieldUp = true ∧ (s.ch c).live pgSLB = true ∧ (s.ch c).slb.state = SlbSt.sleep
      ∧ ((s.ch c).reg pgSLB 64).bit 20 = true)) ∧
    (∃ (s : State) (snd : Sender) (c : Ch), s.reaches snd c ∧ Own snd ∧ Free s c pgSLB) ∧
    (∃ (s : State) (snd : Sender) (c : Ch), s.reaches snd c ∧ Own snd ∧ Free s c pgSLB) ∧
    (∃ (s : State) (snd : Sender) (c : Ch), s.reaches snd c ∧ Own snd ∧ Free s c pgSLB) ∧
    (∃ (s : State) (c : Ch) (b : Fin 128), (s.ch c).live pgSLB = true ∧ (s.ch c).due ((s.ch c).slbBuf b.val).fire = true
      ∧ ((s.ch c).slbBuf b.val).ready = true ∧ ((s.ch c).slbBuf b.val).taken = false) ∧
    (∃ (s : State) (c : Ch) (b : Fin 128), ¬((s.ch c).live pgSLB = true ∧ (s.ch c).due ((s.ch c).slbBuf b.val).fire =
      true ∧ ((s.ch c).slbBuf b.val).ready = true ∧ ((s.ch c).slbBuf b.val).taken = false)) ∧
    (∃ (s : State) (snd : Sender) (c : Ch), s.reaches snd c ∧ Reader s snd c ∧ Free s c pgSLB) :=
  ⟨⟨conf, .pf, .ch0, 1, by decide +kernel⟩,
   ⟨sb [(0x50, 0x44, 1)] id, .pf, .ch0, 1, by decide +kernel⟩,
   ⟨asleep, .pf, .ch0, 1, by decide +kernel⟩,
   ⟨lis, .pf, .ch0, 1, by decide +kernel⟩,
   ⟨lis, .pf, .ch0, 2, by decide +kernel⟩,
   ⟨conf, .pf, .ch0, 0xFFFFFFF2, by decide +kernel⟩,
   ⟨act id, .pf, .ch0, 2, by decide +kernel⟩,
   ⟨asleep, .pf, .ch0, 2, by decide +kernel⟩,
   ⟨lis, .pf, .ch0, 4, by decide +kernel⟩,
   ⟨act id, .pf, .ch0, 4, by decide +kernel⟩,
   ⟨conf, .pf, .ch0, 8, by decide +kernel⟩,
   ⟨act id, .pf, .ch0, 8, by decide +kernel⟩,
   ⟨lis, ⟨.ch0, .b⟩, by decide +kernel⟩,
   ⟨State.reset, ⟨.ch0, .b⟩, by decide +kernel⟩,
   ⟨asleep, .ch0, by decide +kernel⟩,
   ⟨demo, .ch0, by decide +kernel⟩,
   ⟨bcf 33 (act id), .pf, .ch0, by decide +kernel⟩,
   ⟨act id, .pf, .ch0, by decide +kernel⟩,
   ⟨rdy 33, .pf, .ch0, by decide +kernel⟩,
   ⟨late, .ch0, 33, by decide +kernel⟩,
   ⟨late, .ch0, 34, by decide +kernel⟩,
   ⟨(rdy 33).k0 (regs [(0x50, 0x808, 7)]), .pf, .ch0, by decide +kernel⟩⟩

theorem witness_SlottedBusSchedule :
    (∃ (tssLen n : Nat) (bs : List Byte), 2 ≤ n ∧ n ≤ tssLen + 1 ∧ bs ≠ []) ∧
    (∃ (tssLen n : Nat) (bs : List Byte), 2 ≤ n ∧ n ≤ tssLen + 1 ∧ bs ≠ []) ∧
    (∃ (tssLen n : Nat) (bs : List Byte), 2 ≤ n ∧ n ≤ tssLen + 1 ∧ bs ≠ []) ∧
    (∃ (tssLen n : Nat) (bs : List Byte), 2 ≤ n ∧ n ≤ tssLen + 1 ∧ bs ≠ []) ∧
    (∃ (tssLen n : Nat) (bs : List Byte), 2 ≤ n ∧ n ≤ tssLen + 1 ∧ bs ≠ []) ∧
    (∃ (s : State) (c : Ch) (m : Port) (f : SlbRx) (x : SlbIn), Brings s c m f x ∧ Judged (s.ch c) m x ∧ slbRules13 m x
      = none ∧ (s.ch c).slb.sched = true ∧ (s.ch c).slbRules46 m x = true ∧ (s.ch c).slb.state ≠ SlbSt.config ∧ (s.ch
      c).slb.state ≠ SlbSt.listen) ∧
    (∃ (s : State) (c : Ch) (m : Port) (f : SlbRx) (x : SlbIn), Brings s c m f x ∧ Judged (s.ch c) m x ∧ slbRules13 m x
      = none ∧ (s.ch c).slb.sched = true ∧ (s.ch c).slbRules46 m x = true ∧ (s.ch c).slb.state ≠ SlbSt.config ∧ (s.ch
      c).slb.state ≠ SlbSt.listen) ∧
    (∃ (s : State) (c : Ch) (m : Port) (f : SlbRx) (x : SlbIn), Brings s c m f x ∧ Judged (s.ch c) m x ∧ slbRules13 m x
      = none ∧ (s.ch c).slb.sched = true ∧ (s.ch c).slbRules46 m x = true ∧ (s.ch c).slb.state ≠ SlbSt.config ∧ (s.ch
      c).slb.state ≠ SlbSt.listen) ∧
    (∃ (s : State) (c : Ch) (m : Port) (f : SlbRx) (x : SlbIn) (i : Nat), Brings s c m f x ∧ Judged (s.ch c) m x ∧ (s.ch
      c).slb.state ≠ SlbSt.config ∧ (slbRules13 m x = some i ∨ i = 8 ∧ slbRules13 m x = none ∧ (s.ch c).slb.sched = true
      ∧ (s.ch c).slbRules46 m x = false ∧ ((s.ch c).slb.state = SlbSt.listen → (slbFields x.bytes).sync = false))) ∧
    (∃ (s : State) (c : Ch) (m : Port) (f : SlbRx) (x : SlbIn) (i : Nat), Brings s c m f x ∧ Judged (s.ch c) m x ∧ (s.ch
      c).slb.state ≠ SlbSt.config ∧ (slbRules13 m x = some i ∨ i = 8 ∧ slbRules13 m x = none ∧ (s.ch c).slb.sched = true
      ∧ (s.ch c).slbRules46 m x = false ∧ ((s.ch c).slb.state = SlbSt.listen → (slbFields x.bytes).sync = false))) ∧
    (∃ (s : State) (c : Ch) (m : Port) (f : SlbRx) (x : SlbIn) (i : Nat), Brings s c m f x ∧ Judged (s.ch c) m x ∧ (s.ch
      c).slb.state ≠ SlbSt.config ∧ (slbRules13 m x = some i ∨ i = 8 ∧ slbRules13 m x = none ∧ (s.ch c).slb.sched = true
      ∧ (s.ch c).slbRules46 m x = false ∧ ((s.ch c).slb.state = SlbSt.listen → (slbFields x.bytes).sync = false))) ∧
    (∃ (s : State) (c : Ch) (m : Port) (f : SlbRx) (x : SlbIn), Brings s c m f x ∧ (s.ch c).slb.sched = false ∧
      slbRules13 m x = none ∧ ((s.ch c).slb.state = SlbSt.sleep ∨ (s.ch c).slb.state = SlbSt.listen ∧ (slbFields
      x.bytes).sync = false)) ∧
    (∃ (s : State) (c : Ch) (m : Port) (f : SlbRx) (x : SlbIn), Brings s c m f x ∧ (s.ch c).slb.sched = false ∧
      slbRules13 m x = none ∧ ((s.ch c).slb.state = SlbSt.sleep ∨ (s.ch c).slb.state = SlbSt.listen ∧ (slbFields
      x.bytes).sync = false)) ∧
    (∃ (s : State) (c : Ch) (m : Port) (f : SlbRx) (x : SlbIn), Brings s c m f x ∧ slbRules13 m x = none ∧ (slbFields
      x.bytes).sync = true ∧ (s.ch c).slb.state = SlbSt.listen) ∧
    (∃ (s : State) (c : Ch) (m : Port) (f : SlbRx) (x : SlbIn), Brings s c m f x ∧ slbRules13 m x = none ∧ (slbFields
      x.bytes).sync = true ∧ (s.ch c).slb.state = SlbSt.listen) ∧
    (∃ (s : State) (c : Ch) (m : Port) (f : SlbRx) (x : SlbIn), Brings s c m f x ∧ slbRules13 m x = none ∧ (slbFields
      x.bytes).sync = true ∧ (s.ch c).slb.state = SlbSt.listen) ∧
    (∃ (s : State) (c : Ch) (m : Port) (f : SlbRx) (x : SlbIn), Brings s c m f x ∧ slbRules13 m x = none ∧ (s.ch
      c).slb.state = SlbSt.coldstart ∧ ((s.ch c).slb.med m).tx = [] ∧ (slbFields x.bytes).sync = true ∧ (slbFields
      x.bytes).cold = true ∧ (slbFields x.bytes).id < (s.ch c).syncSlot) ∧
    (∃ (s : State) (c : Ch) (m : Port) (f : SlbRx) (x : SlbIn), Brings s c m f x ∧ (s.ch c).slb.state.timed = true ∧
      ((s.ch c).slb.med m).tx ≠ [] ∧ (x.coded = true ∧ x.bytes = ((s.ch c).slb.med m).tx)) ∧
    (∃ (s : State) (c : Ch) (m : Port) (f : SlbRx) (x : SlbIn), Brings s c m f x ∧ (s.ch c).slb.state.timed = true ∧
      ((s.ch c).slb.med m).tx ≠ [] ∧ (¬(x.coded = true ∧ x.bytes = ((s.ch c).slb.med m).tx)) ∧ (s.ch c).slb.state =
      SlbSt.coldstart) ∧
    (∃ (s : State) (c : Ch) (m : Port) (f : SlbRx) (x : SlbIn), Brings s c m f x ∧ (s.ch c).slb.state.timed = true ∧
      ((s.ch c).slb.med m).tx ≠ [] ∧ (¬(x.coded = true ∧ x.bytes = ((s.ch c).slb.med m).tx)) ∧ (s.ch c).slb.state ≠
      SlbSt.coldstart) ∧
    (∃ (s : State) (c : Ch) (m : Port) (f : SlbRx), (s.ch c).live pgSLB = false ∨ (s.ch c).slMed m = false ∨ (s.ch
      c).slb.state = SlbSt.config ∨ (s.ch c).slbIn ((s.node c).rxd f.samples) f.at0 f.stamp = none) ∧
    (∃ (s : State) (c : Ch), (s.ch c).live pgSLB = true ∧ (s.ch c).slb.dynamic = false ∧ ((s.ch c).slb.state =
      SlbSt.active ∨ (s.ch c).slb.state = SlbSt.coldstart ∧ ownSlot (s.ch c) = true)) ∧
    (∃ (s : State) (c : Ch), (s.ch c).live pgSLB = true ∧ (s.ch c).slb.dynamic = false ∧ ((s.ch c).slb.state =
      SlbSt.active ∨ (s.ch c).slb.state = SlbSt.coldstart ∧ ownSlot (s.ch c) = true)) ∧
    (∃ (s : State) (c : Ch), (s.ch c).live pgSLB = false ∨ (s.ch c).slb.dynamic = true ∨ (s.ch c).slb.state ≠
      SlbSt.active ∧ ((s.ch c).slb.state ≠ SlbSt.coldstart ∨ ownSlot (s.ch c) = false)) ∧
    (∃ (s : State) (c : Ch), (s.ch c).live pgSLB = true ∧ (s.ch c).slb.sched = true ∧ (s.ch c).slb.dynamic = false ∧
      (s.ch c).slb.medA.slot ≠ 0 ∧ (s.ch c).slb.medA.slot ≤ 1023) ∧
    (∃ (s : State) (c : Ch), (s.ch c).live pgSLB = true ∧ (s.ch c).slb.sched = true ∧ (s.ch c).slb.dynamic = false ∧
      (s.ch c).slb.medA.slot ≠ 0 ∧ (s.ch c).slb.medA.slot ≤ 1023) ∧
    (∃ (s : State) (c : Ch), (s.ch c).live pgSLB = false ∨ (s.ch c).slb.sched = false ∨ (s.ch c).slb.dynamic = true ∨
      (s.ch c).slb.medA.slot = 0) ∧
    (∃ (s : State) (c : Ch) (b : Nat), (s.ch c).live pgSLB = true ∧ (s.ch c).slb.sched = true ∧ (s.ch c).slb.dynamic =
      false ∧ (s.ch c).slb.medA.slot ≠ 0 ∧ (∀ (b : Nat), ((s.ch c).slbBuf b).ready = false) ∧ (s.ch c).slbMatch false
      (s.ch c).slb.medA.slot (s.ch c).slb.cycle Port.a = some b ∧ (s.ch c).slbMatch false (s.ch c).slb.medB.slot (s.ch
      c).slb.cycle Port.b = some b ∧ (((s.ch c).slMed Port.a && (s.ch c).slb.medA.seen.valid) = true ∨ ((s.ch c).slMed
      Port.b && (s.ch c).slb.medB.seen.valid) = true) ∧ (Storable (s.ch c) b (if ((s.ch c).slMed Port.a && (s.ch
      c).slb.medA.seen.valid) = true then (s.ch c).slb.medA.seen else (s.ch c).slb.medB.seen).payload.length)) ∧
    (∃ (s : State) (c : Ch) (m : Port) (b : Nat), (s.ch c).live pgSLB = true ∧ (s.ch c).slb.sched = true ∧ (s.ch
      c).slb.dynamic = true ∧ ((s.ch c).slb.med m).mini < (s.ch c).mSlots ∧ (∀ (b : Nat), ((s.ch c).slbBuf b).ready =
      false) ∧ (s.ch c).slbMatch false ((s.ch c).slb.med m).slot (s.ch c).slb.cycle m = some b ∧ (s.ch c).slMed m = true
      ∧ ((s.ch c).slb.med m).seen.valid = true ∧ Storable (s.ch c) b ((s.ch c).slb.med m).seen.payload.length) ∧
    (∃ (s : State) (c : Ch) (m : Port) (b : Nat), (s.ch c).live pgSLB = true ∧ (s.ch c).slb.sched = true ∧ (s.ch
      c).slb.dynamic = false ∧ (s.ch c).slb.medA.slot ≠ 0 ∧ ((s.ch c).slbBuf b).ready = true ∧ b < 128 ∧ ((s.ch
      c).slb.med m).pend = some b ∧ ((s.ch c).slb.med m).tx ≠ [] ∧ (((s.ch c).slb.med m.other).pend = some b ∧ ((s.ch
      c).slb.med m.other).tx ≠ [] ∨ ((s.ch c).slb.med m.other).pend = none ∧ (s.ch c).bufOn b m.other = false)) ∧
    (∃ (s : State) (c : Ch) (m : Port) (b : Nat), (s.ch c).live pgSLB = true ∧ (s.ch c).slb.sched = true ∧ (s.ch
      c).slb.dynamic = false ∧ (s.ch c).slb.medA.slot ≠ 0 ∧ (s.ch c).slb.medA.slot < (s.ch c).stSlots ∧ (s.ch
      c).slb.state = SlbSt.active ∧ ((s.ch c).slSync = false ∨ (s.ch c).syncSlot ≠ (s.ch c).slb.medA.slot + 1) ∧ (∀ (m :
      Port), ((s.ch c).slb.med m).tx = [] ∧ ((s.ch c).slb.med m).seen.valid = false) ∧ (s.ch c).slbMatch true ((s.ch
      c).slb.medA.slot + 1) (s.ch c).slb.cycle m = some b ∧ (s.ch c).bufDue b m = true ∧ (∀ (b' : Nat), ((s.ch c).slbBuf
      b').ready = true → b' = b) ∧ (s.ch c).ecc = Ecc.reset ∧ Unwatched (s.ch c) ∧ ((s.ch c).stPlen = 0 ∨ (s.ch
      c).settled mSLB ((s.ch c).bufAt b + 16) (s.ch c).stPlen false ≠ Grant.refused)) ∧
    (∃ (s : State) (c : Ch) (m : Port), (s.ch c).live pgSLB = true ∧ (s.ch c).slb.sched = true ∧ (s.ch c).slb.dynamic =
      true ∧ ((s.ch c).slb.med m).mini < (s.ch c).mSlots) ∧
    (∃ (s : State) (c : Ch) (m : Port), (s.ch c).live pgSLB = true ∧ (s.ch c).slb.sched = true ∧ (s.ch c).slb.dynamic =
      true ∧ ((s.ch c).slb.med m).mini < (s.ch c).mSlots) ∧
    (∃ (s : State) (c : Ch) (m : Port), (s.ch c).live pgSLB = true ∧ (s.ch c).slb.sched = true ∧ (s.ch c).slb.dynamic =
      true ∧ ((s.ch c).slb.med m).mini < (s.ch c).mSlots) ∧
    (∃ (s : State) (c : Ch) (m : Port), (s.ch c).live pgSLB = false ∨ (s.ch c).slb.sched = false ∨ (s.ch c).slb.dynamic
      = false ∨ (s.ch c).mSlots ≤ ((s.ch c).slb.med m).mini) ∧
    (∃ (s : State) (c : Ch) (m : Port) (b : Nat), (s.ch c).live pgSLB = true ∧ (s.ch c).slb.sched = true ∧ (s.ch
      c).slb.dynamic = true ∧ ((s.ch c).slb.med m).mini + 1 < (s.ch c).mSlots ∧ (s.ch c).slb.state = SlbSt.active ∧
      ((s.ch c).slb.med m).tx = [] ∧ ((s.ch c).slb.med m).seen.valid = false ∧ ((s.ch c).slb.med m).seen.invalid = false
      ∧ ((s.ch c).slb.med m).slot + 1 < 2047 ∧ (s.ch c).slbMatch true (((s.ch c).slb.med m).slot + 1) (s.ch c).slb.cycle
      m = some b ∧ (s.ch c).bufDue b m = true ∧ (s.ch c).mtAt ((s.ch c).miniAt (((s.ch c).slb.med m).mini + 1) + (s.ch
      c).dapo) + ↑((s.ch c).dynBits (((s.ch c).bufCfg b 1).field 0 8) * (s.ch c).slTb) < (s.ch c).mtAt ((s.ch c).miniAt
      (s.ch c).mSlots) ∧ (s.ch c).ecc = Ecc.reset ∧ Unwatched (s.ch c) ∧ (((s.ch c).bufCfg b 1).field 0 8 = 0 ∨ (s.ch
      c).settled mSLB ((s.ch c).bufAt b + 16) (((s.ch c).bufCfg b 1).field 0 8) false ≠ Grant.refused)) ∧
    (∃ (s : State) (c : Ch) (m : Port) (b : Nat), (s.ch c).live pgSLB = true ∧ (s.ch c).slb.sched = true ∧ (s.ch
      c).slb.dynamic = true ∧ ((s.ch c).slb.med m).mini + 1 < (s.ch c).mSlots ∧ (s.ch c).slb.state = SlbSt.active ∧
      ((s.ch c).slb.med m).tx = [] ∧ ((s.ch c).slb.med m).seen.valid = false ∧ ((s.ch c).slb.med m).seen.invalid = false
      ∧ ((s.ch c).slb.med m).slot + 1 < 2047 ∧ (s.ch c).slbMatch true (((s.ch c).slb.med m).slot + 1) (s.ch c).slb.cycle
      m = some b ∧ (s.ch c).bufDue b m = true ∧ (¬(s.ch c).mtAt ((s.ch c).miniAt (((s.ch c).slb.med m).mini + 1) + (s.ch
      c).dapo) + ↑((s.ch c).dynBits (((s.ch c).bufCfg b 1).field 0 8) * (s.ch c).slTb) < (s.ch c).mtAt ((s.ch c).miniAt
      (s.ch c).mSlots))) ∧
    (∃ (s : State) (c : Ch), (s.ch c).live pgSLB = true ∧ (s.ch c).slb.state.timed = true ∧ (s.ch c).slb.cycle % 2 = 1) ∧
    (∃ (s : State) (c : Ch), (s.ch c).live pgSLB = true ∧ (s.ch c).slb.state.timed = true ∧ (s.ch c).slb.cycle % 2 = 1) ∧
    (∃ (s : State) (c : Ch), (s.ch c).live pgSLB = true ∧ (s.ch c).slb.state.timed = true ∧ (s.ch c).slb.cycle % 2 = 1) ∧
    (∃ (s : State) (c : Ch), (s.ch c).live pgSLB = false ∨ (s.ch c).slb.state.timed = false ∨ (s.ch c).slb.cycle % 2 =
      0) ∧
    (∃ (s : State) (c : Ch), (s.ch c).live pgSLB = true ∧ (s.ch c).slb.sched = true ∧ (s.ch c).slb.cycle % 2 = 1) ∧
    (∃ (s : State) (c : Ch), (s.ch c).live pgSLB = true ∧ (s.ch c).slb.sched = true ∧ (s.ch c).slb.cycle % 2 = 1) ∧
    (∃ (s : State) (c : Ch), (s.ch c).live pgSLB = true ∧ (s.ch c).slb.sched = true ∧ (s.ch c).slb.cycle % 2 = 1) ∧
    (∃ (s : State) (c : Ch), (s.ch c).live pgSLB = false ∨ (s.ch c).slb.sched = false ∨ (s.ch c).slb.cycle % 2 = 0) ∧
    (∃ (s : State) (c : Ch), (s.ch c).live pgSLB = true ∧ (s.ch c).slb.sched = true) ∧
    (∃ (s : State) (c : Ch), (s.ch c).live pgSLB = true ∧ (s.ch c).slb.sched = true) ∧
    (∃ (s : State) (c : Ch), (s.ch c).live pgSLB = false ∨ (s.ch c).slb.sched = false) ∧
    (∃ (s : State) (c : Ch), (s.ch c).live pgSLB = true ∧ (s.ch c).slb.state = SlbSt.listen ∧ (s.ch c).slCold = true) ∧
    (∃ (s : State) (c : Ch), (s.ch c).live pgSLB = false ∨ (s.ch c).slb.state ≠ SlbSt.listen ∨ (s.ch c).slCold = false) ∧
    (∃ (s : State) (c : Ch) (silent : Bool), (s.ch c).live pgSLB = true ∧ (s.ch c).slb.state = SlbSt.listen ∧ (s.ch
      c).slb.cold = true ∧ (silent = false ∨ (s.node c).fieldUp = false)) ∧
    (∃ (s : State) (c : Ch) (silent : Bool), (s.ch c).live pgSLB = true ∧ (s.ch c).slb.state = SlbSt.listen ∧ (s.ch
      c).slb.cold = true ∧ silent = true ∧ (s.node c).fieldUp = true) ∧
    (∃ (s : State) (c : Ch), (s.ch c).live pgSLB = false ∨ (s.ch c).slb.state ≠ SlbSt.listen ∨ (s.ch c).slb.cold =
      false) ∧
    (∃ (s : State) (c : Ch) (i : Fin 8), (s.ch c).live pgSLB = true ∧ (s.ch c).slb.sched = true ∧ ((s.ch c).reg pgSLB
      (256 + 4 * i.val)).bit 31 = true ∧ cycleFilter (s.ch c).slb.cycle (((s.ch c).reg pgSLB (256 + 4 * i.val)).field 16
      6) (((s.ch c).reg pgSLB (256 + 4 * i.val)).field 22 3) = true) ∧
    (∃ (s : State) (c : Ch) (i : Fin 8), ¬((s.ch c).live pgSLB = true ∧ (s.ch c).slb.sched = true ∧ ((s.ch c).reg pgSLB
      (256 + 4 * i.val)).bit 31 = true ∧ cycleFilter (s.ch c).slb.cycle (((s.ch c).reg pgSLB (256 + 4 * i.val)).field 16
      6) (((s.ch c).reg pgSLB (256 + 4 * i.val)).field 22 3) = true)) :=
  ⟨⟨5, 3, [0x12, 0x34], by decide +kernel⟩,
   ⟨5, 3, [0x12, 0x34], by decide +kernel⟩,
   ⟨5, 2, [0x12, 0x34], by decide +kernel⟩,
   ⟨5, 6, [0x12, 0x34], by decide +kernel⟩,
   ⟨5, 6, [0xFF, 0x00], by decide +kernel⟩,
   ⟨act id, .ch0, .a, fr .a true 1, seen (act id) (fr .a true 1), by simp only [Brings, slbIn_eq]; decide +kernel⟩,
   ⟨act id, .ch0, .b, fr .b false 1, seen (act id) (fr .b false 1), by simp only [Brings, slbIn_eq]; decide +kernel⟩,
   ⟨free, .ch0, .a, fr .a true 1, seen free (fr .a true 1), by simp only [Brings, slbIn_eq]; decide +kernel⟩,
   ⟨act id, .ch0, .a, cut, seen (act id) cut, 2, by simp only [Brings, slbIn_eq]; decide +kernel⟩,
   ⟨act id, .ch0, .b, bent 4, seen (act id) (bent 4), 4, by simp only [Brings, slbIn_eq]; decide +kernel⟩,
   ⟨act id, .ch0, .b, bent 6, seen (act id) (bent 6), 6, by simp only [Brings, slbIn_eq]; decide +kernel⟩,
   ⟨lis, .ch0, .a, fr .a false 1, seen lis (fr .a false 1), by simp only [Brings, slbIn_eq]; decide +kernel⟩,
   ⟨asleep, .ch0, .a, fr .a true 1, seen asleep (fr .a true 1), by simp only [Brings, slbIn_eq]; decide +kernel⟩,
   ⟨lis, .ch0, .a, fr .a true 2, seen lis (fr .a true 2), by simp only [Brings, slbIn_eq]; decide +kernel⟩,
   ⟨drift, .ch0, .a, fr .a true 1, seen drift (fr .a true 1), by simp only [Brings, slbIn_eq]; decide +kernel⟩,
   ⟨drift.k0 fun k => { k with slb := { k.slb with cycle := 6 } }, .ch0, .a, fr .a true 1, seen drift (fr .a true 1),
     by simp only [Brings, slbIn_eq]; decide +kernel⟩,
   ⟨cold id, .ch0, .a, start1, seen (cold id) start1, by simp only [Brings, slbIn_eq]; decide +kernel⟩,
   ⟨act (own (slbFrame .a true true false 1 5 [1, 2])), .ch0, .a, start1, seen (act id) start1,
     by simp only [Brings, slbIn_eq]; decide +kernel⟩,
   ⟨cold (own [1]), .ch0, .a, start1, seen (cold id) start1, by simp only [Brings, slbIn_eq]; decide +kernel⟩,
   ⟨act (own [1]), .ch0, .a, start1, seen (act id) start1, by simp only [Brings, slbIn_eq]; decide +kernel⟩,
   ⟨demo, .ch0, .a, start1, by decide +kernel⟩,
   ⟨bcf 0 (act fun x => { x with medA := { x.medA with pend := some 0, pay := [1, 2] } }), .ch0, by decide +kernel⟩,
   ⟨act fun x =>
     { x with medA := { x.medA with slot := 2, pend := some 0, pay := [1, 2] }, medB := { x.medB with slot := 2 } },
     .ch0, by decide +kernel⟩,
   ⟨demo, .ch0, by decide +kernel⟩,
   ⟨act id, .ch0, by decide +kernel⟩,
   ⟨act fun x =>
     { x with medA := { x.medA with slot := 2, data := true, back := true }, medB := { x.medB with slot := 2 } },
     .ch0, by decide +kernel⟩,
   ⟨demo, .ch0, by decide +kernel⟩,
   ⟨rcv 1 both, .ch0, 3, by decide +kernel, by decide +kernel, by decide +kernel, by decide +kernel, fun _ => rfl, by
     decide +kernel, by decide +kernel, by decide +kernel, by decide +kernel⟩,
   ⟨rcv 9 (dynm fun x => { x with medA := { x.medA with seen := sn [1, 2, 3] } }), .ch0, .a, 3, by decide +kernel, by
     decide +kernel, by decide +kernel, by decide +kernel, fun _ => rfl, by decide +kernel, by decide +kernel, by
     decide +kernel, by decide +kernel⟩,
   ⟨sentA 0, .ch0, .a, 0, by decide +kernel⟩,
   ⟨tbuf 2 id, .ch0, .a, 0, by decide +kernel, by decide +kernel, by decide +kernel, by decide +kernel, by
     decide +kernel, by decide +kernel, by decide +kernel, fun m => by cases m <;> decide +kernel, by
     decide +kernel, by decide +kernel, tbuf_ready, by decide +kernel, by decide +kernel, by decide +kernel⟩,
   ⟨act (dynm id), .ch0, .a, by decide +kernel⟩,
   ⟨act (dynm fun x => { x with medB := { x.medB with tx := [1, 2, 3] } }), .ch0, .b, by decide +kernel⟩,
   ⟨act (dynm fun x => { x with medB := { x.medB with seen := { sn [1, 2, 3] with fes := 9000 } } }), .ch0, .b, by
     decide +kernel⟩,
   ⟨demo, .ch0, .b, by decide +kernel⟩,
   ⟨tbuf 10 (dynm id), .ch0, .a, 0, by decide +kernel⟩,
   ⟨tbuf 10 (dynm fun x => { x with medA := { x.medA with mini := 57 } }), .ch0, .a, 0, by decide +kernel⟩,
   ⟨act (meas id), .ch0, by decide +kernel⟩,
   ⟨act (meas fun x => { x with measOdd := [⟨1, some 400, some 600⟩, ⟨2, some 900, none⟩] }), .ch0, by decide +kernel⟩,
   ⟨act id, .ch0, by decide +kernel⟩,
   ⟨demo, .ch0, by decide +kernel⟩,
   ⟨act (meas id), .ch0, by decide +kernel⟩,
   ⟨cold (meas fun x => { x with cycle := 3, other := true }), .ch0, by decide +kernel⟩,
   ⟨act (meas fun x => { x with state := .integrate, pairs := 1 }), .ch0, by decide +kernel⟩,
   ⟨demo, .ch0, by decide +kernel⟩,
   ⟨act fun x => { x with rateNext := 3 }, .ch0, by decide +kernel⟩,
   ⟨act fun x => { x with cycle := 63, sleepReq := true }, .ch0, by decide +kernel⟩,
   ⟨demo, .ch0, by decide +kernel⟩,
   ⟨lis, .ch0, by decide +kernel⟩,
   ⟨demo, .ch0, by decide +kernel⟩,
   ⟨waiting, .ch0, false, by decide +kernel⟩,
   ⟨waiting, .ch0, true, by decide +kernel⟩,
   ⟨demo, .ch0, by decide +kernel⟩,
   ⟨(act id).k0 (regs [(0x50, 0x108, BitVec.ofNat 32 (0x80000000+1*65536+2*4194304))]), .ch0, 2, by decide +kernel⟩,
   ⟨demo, .ch0, 2, by decide +kernel⟩⟩

end SlotSide

/-! ## Channels apart -/

namespace Apart

theorem witness_OtherChannelsAreUntouched :
    ∃ (i : Instr) (c d : Ch) (s t : State), chanOf i = some c ∧ d ≠ c ∧ exec i s = Host.Outcome.next t :=
  ⟨.waitEnd .ch0, .ch0, .ch1, demo, _, rfl, by decide, rfl⟩

end Apart

end Sys2Proof.Tests
end

/-! # The debugger's JTAG (04 R128, R129; 07 R222; 18 R486) -/

namespace Sys2Proof.Machine

/-! ## Reads that leave the machine -/

/-- A channel's view put back untouched is the machine as it was. -/
theorem State.put_node (s : State) (c : Ch) : s.put c (s.node c) = s :=
  (State.put_onK s c (s.ch c)).trans (s.setCh_ch c)

/-- An operation that answers a word and leaves its channel's view leaves the machine. -/
theorem State.withinR_of_unchanged (s : State) (c : Ch) {f : Rd} (h : (f (s.node c)).1 = s.node c) :
    s.withinR c f = (s, (f (s.node c)).2) := by
  simp only [State.withinR, h, State.node_evs, List.foldl_nil, State.put_node]

/-- A header register of a page answers the PF whether or not a block reset is in progress (03 R73). -/
theorem Node.pageRead_pf_header (n : Node) {page off : Nat} (hp : page ∈ chanPages) (ho : off < 0x040) :
    n.pageRead .pf page off = (n, n.k.headerRead page off) := by
  have hreg : ¬ 0x040 ≤ off := by omega
  simp [Node.pageRead, Node.readAccess, hp, ho, hreg]

/-! ## When the port hears its clock -/

theorem State.jtagReady_eq_false_iff (s : State) :
    s.jtagReady = false ↔ s.dev.phase = .held ∨ s.bankUp 16 = false := by
  simp only [State.jtagReady, Bool.and_eq_false_iff, decide_eq_false_iff_not, ne_eq, Decidable.not_not]

theorem exec_jtagAttach (s : State) : exec .jtagAttach s = execJtagAttach s := rfl

theorem exec_jtagAccess (op : JtagOp) (s : State) : exec (.jtagAccess op) s = execJtagAccess op s := rfl

/-- A port that hears its clock reports the attachment. -/
theorem exec_jtagAttach_of_ready {s : State} (h : s.jtagReady = true) :
    exec .jtagAttach s = .next ((s.onDev fun d => { d with jtag := true }).raiseDev dvJTAG_ATTACH) := by
  simp [exec_jtagAttach, execJtagAttach, h]

theorem exec_jtagAttach_of_not_ready {s : State} (h : s.jtagReady = false) : exec .jtagAttach s = .next s := by
  simp [exec_jtagAttach, execJtagAttach, h]

/-- A port that hears its clock makes the debugger's access. -/
theorem exec_jtagAccess_of_ready {s : State} (op : JtagOp) (h : s.jtagReady = true) :
    exec (.jtagAccess op) s = .next (s.jtagOp op) := by
  simp [exec_jtagAccess, execJtagAccess, h]

theorem exec_jtagAccess_of_not_ready {s : State} (op : JtagOp) (h : s.jtagReady = false) :
    exec (.jtagAccess op) s = .next s := by
  simp [exec_jtagAccess, execJtagAccess, h]

/-! ## What each access does -/

theorem Channel.running_eq_true_iff (k : Channel) : k.running = true ↔ k.boot = .run := by simp [Channel.running]

theorem State.jtagOp_read_of_locked {s : State} (c : Ch) (off : Nat) (h : s.dev.otp.locked = true) :
    s.jtagOp (.read c off) = s.raiseDev dvDBG_DENY := by simp [State.jtagOp, h]

theorem State.jtagOp_write_of_locked {s : State} (c : Ch) (off : Nat) (v : Word) (h : s.dev.otp.locked = true) :
    s.jtagOp (.write c off v) = s.raiseDev dvDBG_DENY := by simp [State.jtagOp, h]

theorem State.jtagOp_write_of_not_running {s : State} {c : Ch} (off : Nat) (v : Word) (h : s.dev.otp.locked = false)
    (hrun : (s.ch c).boot ≠ .run) : s.jtagOp (.write c off v) = s := by
  simp [State.jtagOp, h, Channel.running_eq_true_iff, hrun]

/-- Without the lock a write acts as the PF's write of ROOKDBG. -/
theorem State.jtagOp_write_of_running {s : State} {c : Ch} {off : Nat} (v : Word) (h : s.dev.otp.locked = false)
    (hrun : (s.ch c).boot = .run) (ho : off < 0x1000) :
    s.jtagOp (.write c off v) = s.within c fun n => n.pageWrite .pf pgROOKDBG off v := by
  simp [State.jtagOp, h, (Channel.running_eq_true_iff _).2 hrun, Nat.mod_eq_of_lt ho]

/-- Without the lock a header register of ROOKDBG is read as it stands, and nothing else changes. -/
theorem State.jtagOp_read_header {s : State} {c : Ch} {off : Nat} (h : s.dev.otp.locked = false)
    (hrun : (s.ch c).boot = .run) (ho : off < 0x040) :
    s.jtagOp (.read c off) = s.jtagRead ((s.ch c).headerRead pgROOKDBG off) := by
  have hread : (s.node c).pageRead .pf pgROOKDBG off = (s.node c, (s.ch c).headerRead pgROOKDBG off) :=
    Node.pageRead_pf_header _ (by decide) ho
  have hoff : off % 0x1000 = off := Nat.mod_eq_of_lt (by omega)
  have hwithin : s.withinR c (fun n => n.pageRead .pf pgROOKDBG off) = (s, (s.ch c).headerRead pgROOKDBG off) := by
    rw [State.withinR_of_unchanged s c (by rw [hread]), hread]
  simp only [State.jtagOp, h, (Channel.running_eq_true_iff _).2 hrun, hoff, hwithin, Bool.not_true, Bool.false_eq_true,
    if_false]

/-- IDCODE is judged by no lock and changes only what the debugger reads and the count of free values. -/
theorem State.jtagOp_idcode_frame (s : State) :
    { s.jtagOp .idcode with
      freeCtr := s.freeCtr, dev := { (s.jtagOp .idcode).dev with jtagOut := s.dev.jtagOut } } = s := rfl

/-! ## The obligation -/

/-- Settles O23: each clause is the access's own lemma, behind the port's readiness. -/
theorem jtagAccess : Obligations.JtagAccess := by
  unfold Obligations.JtagAccess
  refine ⟨fun s hr => exec_jtagAttach_of_ready hr, fun s c off v hr hl => ⟨?_, ?_⟩, fun s c off v hr hl hrun ho => ?_,
    fun s c off v hr hl hrun => ?_, fun s c off hr hl hrun ho => ?_, fun s hr => ?_, fun s op hdown => ?_⟩
  · rw [exec_jtagAccess_of_ready _ hr, State.jtagOp_read_of_locked c off hl]
  · rw [exec_jtagAccess_of_ready _ hr, State.jtagOp_write_of_locked c off v hl]
  · rw [exec_jtagAccess_of_ready _ hr, State.jtagOp_write_of_running v hl hrun ho]
  · rw [exec_jtagAccess_of_ready _ hr, State.jtagOp_write_of_not_running off v hl hrun]
  · rw [exec_jtagAccess_of_ready _ hr, State.jtagOp_read_header hl hrun ho]; rfl
  · exact ⟨s.jtagOp .idcode, exec_jtagAccess_of_ready _ hr, s.jtagOp_idcode_frame⟩
  · have hr := s.jtagReady_eq_false_iff.2 hdown
    exact ⟨exec_jtagAttach_of_not_ready hr, exec_jtagAccess_of_not_ready op hr⟩

end Sys2Proof.Machine

/-! # Bits and fields of a word -/

namespace Sys2Proof

/-- A bit of a word after a field of it is set. -/
theorem Word.bit_setField (w : Word) (lo len v : Nat) {i : Nat} (hi : i < 32) :
    (w.setField lo len v).bit i = if lo ≤ i ∧ i < lo + len then v.testBit (i - lo) else w.bit i := by
  have hmask : (BitVec.ofNat 32 ((2 ^ len - 1) <<< lo)).getLsbD i = (decide (lo ≤ i) && decide (i - lo < len)) := by
    simp only [BitVec.getLsbD_ofNat, hi, Nat.testBit_shiftLeft, Nat.testBit_two_pow_sub_one, decide_true, Bool.true_and]
  have hval : (BitVec.ofNat 32 (v <<< lo)).getLsbD i = (decide (lo ≤ i) && v.testBit (i - lo)) := by
    simp only [BitVec.getLsbD_ofNat, hi, Nat.testBit_shiftLeft, decide_true, Bool.true_and]
  simp only [Word.bit, Word.setField, BitVec.getLsbD_or, BitVec.getLsbD_and, BitVec.getLsbD_not, hmask, hval, hi]
  by_cases hlo : lo ≤ i
  · have hlen : i - lo < len ↔ i < lo + len := by omega
    by_cases h : i < lo + len <;> simp [hlo, hlen, h]
  · simp [hlo]

/-- Setting a field above a bit leaves the bit. -/
theorem Word.bit_setField_above (w : Word) {lo len v i : Nat} (hi : i < 32) (h : i < lo) :
    (w.setField lo len v).bit i = w.bit i := by
  rw [Word.bit_setField w lo len v hi, if_neg (by omega)]

/-- A field of one bit reads as it is set. -/
theorem Word.bit_setField_one (w : Word) (v : Nat) {i : Nat} (hi : i < 32) :
    (w.setField i 1 v).bit i = v.testBit 0 := by
  rw [Word.bit_setField w i 1 v hi, if_pos (by omega), Nat.sub_self]

theorem Word.bit_setBit (w : Word) (b : Bool) {i : Nat} (hi : i < 32) : (w.setBit i b).bit i = b := by
  rw [Word.setBit, Word.bit_setField_one w _ hi]
  cases b <;> rfl

theorem Word.testBit_field (w : Word) (lo len i : Nat) :
    (w.field lo len).testBit i = (decide (i < len) && w.bit (lo + i)) := by
  simp only [Word.field, Word.bit, BitVec.getLsbD, Nat.testBit_mod_two_pow, Nat.testBit_shiftRight]

end Sys2Proof

/-! # What commands on registers and walks of the classifier are made of -/

namespace Sys2Proof.Machine
open Sys2Proof.Claims

/-! ## A channel's view put back -/

theorem State.node_setCh (s : State) (c : Ch) (k : Channel) : (s.setCh c k).node c = { s.node c with k := k } := by
  cases c <;> rfl

theorem State.put_setCh (s : State) (c : Ch) (k : Channel) (n : Node) : (s.setCh c k).put c n = s.put c n := by
  cases c <;> rfl

/-- An operation that makes the same of two versions of a channel makes the same machine of them. -/
theorem State.within_setCh (s : State) (c : Ch) {f : Node → Node} {k : Channel}
    (h : f { s.node c with k := k } = f (s.node c)) : (s.setCh c k).within c f = s.within c f := by
  simp only [State.within, State.node_setCh, State.put_setCh, h]

/-- Operations that agree on a channel's view agree on the machine. -/
theorem State.within_congr (s : State) (c : Ch) {f g : Node → Node} (h : f (s.node c) = g (s.node c)) :
    s.within c f = s.within c g := by simp only [State.within, h]

/-- An operation that leaves its channel's view leaves the machine. -/
theorem State.within_of_unchanged (s : State) (c : Ch) {f : Node → Node} (h : f (s.node c) = s.node c) :
    s.within c f = s := by rw [State.within_local s c f (s.ch c) h, State.setCh_ch]

/-! ## A register command of the Rook or the PF -/

/-- A register write command of an owner on a free page does the page's own operation (05 R137, 03 R73). -/
theorem State.regCmd_own {s : State} {snd : Sender} {c : Ch} {page : Nat} (off : Nat) (f : Node → Node)
    (hr : s.reaches snd c) (ho : Own snd) (hf : Free s c page) : s.regCmd snd c page off f = s.within c f := by
  have hpf4 : snd ≠ .pf4 := by rcases ho with rfl | rfl <;> decide
  have hf : (s.ch c).busy page = false := hf
  rw [State.regCmd, State.chanWrite_reaches s _ _ hr hpf4]
  apply State.within_congr
  rcases ho with rfl | rfl <;> simp [Node.access, hf]

/-! ## The record of a fault, in the terms of the statements -/

/-- A view's operation that moves registers alone, said of its channel. -/
theorem Node.RegsOnly.channel {n n' : Node} (h : n.RegsOnly n') : Claims.RegsOnly n.k n'.k := h.2.2.2.2

theorem Node.RegsOnly.sram_eq {n n' : Node} (h : n.RegsOnly n') : n'.k.sram = n.k.sram :=
  (congrArg Channel.sram h.2.2.2.2 :)

theorem Node.RegsOnly.cls_eq {n n' : Node} (h : n.RegsOnly n') : n'.k.cls = n.k.cls :=
  (congrArg Channel.cls h.2.2.2.2 :)

theorem Node.RegsOnly.evs_eq {n n' : Node} (h : n.RegsOnly n') : n'.evs = n.evs := h.2.1

/-- A fault records itself in its page (03 R92, R94). -/
theorem Node.recorded_fault (n : Node) (page code snd : Nat) (addr : Word) :
    Recorded n.k (n.fault page code snd addr).k page code snd addr := by
  unfold Recorded
  by_cases h : (n.k.reg page 0x00C).bit 31 = true
  · have haddr : regKey page 0x010 ≠ regKey page 0x00C := regKey_ne (by decide) (by decide) (.inr (by decide))
    rw [if_pos h, Node.fault_again n page code snd addr h]
    simp only [Node.countSat, Node.reg, show (2 : Nat) ^ 8 = 256 from rfl]
    split
    · exact ⟨Channel.reg_setReg _ _ _ _, Channel.reg_setReg_ne _ _ haddr⟩
    · exact ⟨rfl, rfl⟩
  · rw [if_neg h]
    exact Node.fault_first n page code snd addr (by simpa using h)

/-- A fault leaves everything but its page's record and the EVT page. -/
theorem Node.faultOnly_fault (n : Node) (page code snd : Nat) (addr : Word) :
    FaultOnly n.k (n.fault page code snd addr).k page :=
  ⟨(n.regsOnly_fault page code snd addr).channel, fun _ _ ho hp hne => Node.fault_reg n page code snd addr ho hp hne⟩

/-- A command that its page refuses only leaves the record of the fault. -/
theorem State.within_regFault (s : State) (c : Ch) {f : Node → Node} {snd : Sender} {page off code : Nat}
    (h : f (s.node c) = (s.node c).regFault snd page off code) :
    FaultOnly (s.ch c) ((s.within c f).ch c) page ∧
      Recorded (s.ch c) ((s.within c f).ch c) page code snd.id (regAddr page off) := by
  have hevs : (f (s.node c)).evs = [] := by rw [h, Node.regFault, Node.fault_evs, State.node_evs]
  rw [State.within_ch s c f hevs, h, Node.regFault]
  exact ⟨(s.node c).faultOnly_fault page code snd.id _, (s.node c).recorded_fault page code snd.id _⟩

/-! ## Registers whose fields are all RW, an EN bit first -/

/-- Fields that a write sets, all above bit 0. -/
def AboveEn (fs : List Field) : Prop := ∀ f ∈ fs, f.acc = .rw ∧ 0 < f.lo

theorem writeField_rw_shOk (k : Channel) (w : Word) (x : Wr) {f : Field} (h : f.acc = .rw) :
    (writeField k w x f).shOk = x.shOk := by
  simp only [writeField, h]; split <;> rfl

theorem writeField_rw_bit_zero (k : Channel) (w : Word) (x : Wr) {f : Field} (h : f.acc = .rw) (hlo : 0 < f.lo) :
    (writeField k w x f).act.bit 0 = x.act.bit 0 := by
  simp only [writeField, h]
  split
  · exact Word.bit_setField_above _ (by decide) hlo
  · rfl

/-- Fields above EN leave bit 0 of what a write makes, and reach no shadow set. -/
theorem foldl_writeField_aboveEn (k : Channel) (w : Word) {fs : List Field} (h : AboveEn fs) (x : Wr) :
    (fs.foldl (writeField k w) x).shOk = x.shOk ∧ (fs.foldl (writeField k w) x).act.bit 0 = x.act.bit 0 := by
  induction fs generalizing x with
  | nil => exact ⟨rfl, rfl⟩
  | cons f fs ih =>
    obtain ⟨hacc, hlo⟩ := h f List.mem_cons_self
    obtain ⟨hsh, hbit⟩ := ih (fun g hg => h g (List.mem_cons_of_mem _ hg)) (writeField k w x f)
    exact ⟨hsh.trans (writeField_rw_shOk k w x hacc), hbit.trans (writeField_rw_bit_zero k w x hacc hlo)⟩

/-- A write of a register of an EN bit and fields above it sets the register, EN as written, and perhaps records a
rejected field. -/
theorem Node.writeFields_en (n : Node) (snd : Sender) {page off : Nat} (w : Word) {rst : Word} {fs : List Field}
    (hreg : chanReg page off = some ⟨rst, fRW 0 1 :: fs⟩) (hfs : AboveEn fs) :
    ∃ v : Word, v.bit 0 = w.bit 0 ∧ (n.writeFields snd page off w = n.setReg page off v ∨
      n.writeFields snd page off w = (n.setReg page off v).regFault snd page off cRSVD) := by
  obtain ⟨hsh, hbit⟩ := foldl_writeField_aboveEn n.k w hfs
    (writeField n.k w ⟨n.k.reg page off, n.k.shad page off, false, false⟩ (fRW 0 1))
  have hen : (writeField n.k w ⟨n.k.reg page off, n.k.shad page off, false, false⟩ (fRW 0 1)).act.bit 0 = w.bit 0 := by
    simp only [writeField, fRW, if_true, Word.bit_setField_one _ _ (show (0 : Nat) < 32 by decide), Word.testBit_field]
    simp
  refine ⟨_, hbit.trans hen, ?_⟩
  have hsh' := hsh.trans (writeField_rw_shOk n.k w _ rfl)
  simp only [Node.writeFields, Node.writeAt, hreg, List.foldl_cons, hsh', Bool.false_eq_true, if_false]
  split
  · exact .inr rfl
  · exact .inl rfl

section
variable (n : Node) (snd : Sender) {page off : Nat} (w : Word) {rst : Word} {fs : List Field}
  (hreg : chanReg page off = some ⟨rst, fRW 0 1 :: fs⟩) (hfs : AboveEn fs)
include hreg hfs

theorem Node.regsOnly_writeFields_en : n.RegsOnly (n.writeFields snd page off w) := by
  obtain ⟨v, -, h | h⟩ := n.writeFields_en snd w hreg hfs <;> rw [h]
  · exact n.regsOnly_setReg _ _ _
  · exact (n.regsOnly_setReg _ _ _).trans (Node.regsOnly_fault _ _ _ _ _)

theorem Node.writeFields_en_bit_zero (hp : page ≠ pgEVT) (hoff : off < 0x1000) (hoff' : 0x040 ≤ off) :
    ((n.writeFields snd page off w).k.reg page off).bit 0 = w.bit 0 := by
  have hset : ∀ v : Word, (n.setReg page off v).k.reg page off = v := fun v => Channel.reg_setReg _ _ _ _
  obtain ⟨v, hv, h | h⟩ := n.writeFields_en snd w hreg hfs <;> rw [h, ← hv]
  · rw [hset]
  · rw [Node.regFault, Node.fault_reg _ _ _ _ _ hoff hp (.inr (by omega)), hset]

/-- The write leaves the other registers of a block. -/
theorem Node.writeFields_en_reg_ne {off' : Nat} (hp : page ≠ pgEVT) (hoff : off < 0x1000) (ho : off' < 0x1000)
    (ho' : 0x040 ≤ off') (hne : off' ≠ off) : (n.writeFields snd page off w).k.reg page off' = n.k.reg page off' := by
  have hset : ∀ v : Word, (n.setReg page off v).k.reg page off' = n.k.reg page off' := fun v =>
    Channel.reg_setReg_ne _ _ (regKey_ne ho hoff (.inr hne))
  obtain ⟨v, -, h | h⟩ := n.writeFields_en snd w hreg hfs <;> rw [h]
  · exact hset v
  · rw [Node.regFault, Node.fault_reg _ _ _ _ _ ho hp (.inr (by omega)), hset]

end

end Sys2Proof.Machine

/-! # The classifier's memory as firmware sets it up (12 R330, R331, R339, R340) -/

namespace Sys2Proof.Machine
open Sys2Proof.Claims

/-! ## The exception ring's consumer index (12 R330) -/

/-- Whether a CONS value lies in the ring and not beyond PROD, counted from CONS. -/
def Channel.takesExcCons (k : Channel) (v : Nat) : Prop :=
  v < k.excSize ∧ (v + k.excSize - k.excCons) % k.excSize ≤ (k.excProd + k.excSize - k.excCons) % k.excSize

theorem Node.excCons_of_takes (n : Node) (snd : Sender) {v : Word} (h : n.k.takesExcCons (v.field 0 12)) :
    n.excCons snd v = n.setReg pgCLS 0x078 (BitVec.ofNat 32 (v.field 0 12)) := by
  simp [Node.excCons, h.1, h.2]

theorem Node.excCons_of_not_takes (n : Node) (snd : Sender) {v : Word} (h : ¬ n.k.takesExcCons (v.field 0 12)) :
    n.excCons snd v = n.regFault snd pgCLS 0x078 cRSVD := by
  unfold Channel.takesExcCons at h
  simp only [Node.excCons, Bool.and_eq_true, decide_eq_true_eq, if_neg h]

/-! ## Buffers (12 R314, R339) -/

theorem Channel.fwHolds_of_bufIdx {k : Channel} {a i : Nat} (h : k.bufIdx a = some i) :
    k.fwHolds a = k.cls.fwHeld.contains i := by simp [Channel.fwHolds, h]

/-- The pool with buffer i free. -/
def Classifier.freed (x : Classifier) (i : Nat) : Classifier :=
  { x with free := if x.free.contains i then x.free else x.free ++ [i], fwHeld := x.fwHeld.filter (· ≠ i) }

theorem Classifier.freed_free (x : Classifier) (i : Nat) :
    (x.freed i).free = if x.free.contains i then x.free else x.free ++ [i] := rfl

theorem Classifier.contains_free_freed (x : Classifier) (i : Nat) : (x.freed i).free.contains i = true := by
  rw [Classifier.freed_free]
  split
  · assumption
  · simp

theorem Node.freeBuf_of_bufIdx {n : Node} {a i : Nat} (h : n.k.bufIdx a = some i) :
    n.freeBuf a = n.onCls fun x => x.freed i := by simp [Node.freeBuf, h, Classifier.freed]

theorem Node.bufFree_of_held (n : Node) (snd : Sender) {v : Word} {i : Nat} (hi : n.k.bufIdx v.toNat = some i)
    (hheld : n.k.cls.fwHeld.contains i = true) : n.bufFree snd v = n.onCls fun x => x.freed i := by
  rw [Node.bufFree, if_pos (by rw [Channel.fwHolds_of_bufIdx hi, hheld]), Node.freeBuf_of_bufIdx hi]

theorem Node.bufFree_of_not_held (n : Node) (snd : Sender) {v : Word} (h : n.k.fwHolds v.toNat = false) :
    n.bufFree snd v = n.regFault snd pgCLS 0x088 0x11 := by simp [Node.bufFree, h]

/-! ## The exception ring enabled and disabled (12 R331, R340) -/

/-- The exception ring lies in SRAM, aligned to its size. -/
def Channel.excFits (k : Channel) : Prop :=
  inSram ((k.reg pgCLS 0x06C).toNat / 32 * 32) (Sys2Proof.Machine.excSize k) = true ∧
    (k.reg pgCLS 0x06C).toNat / 32 * 32 % Sys2Proof.Machine.excSize k = 0

/-- EXCCFG is EN and a LOG2N above it. -/
theorem chanReg_exccfg : ∃ rst fs, chanReg pgCLS 0x070 = some ⟨rst, fRW 0 1 :: fs⟩ ∧ AboveEn fs :=
  ⟨_, _, rfl, by simp [AboveEn, fRWif]⟩

/-- The ring's fields written with EN left 0. -/
def Node.excSetUp (n : Node) (snd : Sender) (v : Word) : Node := n.writeFields snd pgCLS 0x070 (v.setBit 0 false)

theorem Node.regsOnly_excSetUp (n : Node) (snd : Sender) (v : Word) : n.RegsOnly (n.excSetUp snd v) := by
  obtain ⟨_, _, hreg, hfs⟩ := chanReg_exccfg
  exact n.regsOnly_writeFields_en snd _ hreg hfs

theorem Node.excSetUp_en (n : Node) (snd : Sender) (v : Word) :
    ((n.excSetUp snd v).k.reg pgCLS 0x070).bit 0 = false := by
  obtain ⟨_, _, hreg, hfs⟩ := chanReg_exccfg
  exact (n.writeFields_en_bit_zero snd _ hreg hfs (by decide) (by decide) (by decide)).trans
    (Word.bit_setBit v false (by decide))

theorem Node.excSetUp_reg_ne (n : Node) (snd : Sender) (v : Word) {off : Nat} (ho : off < 0x1000) (ho' : 0x040 ≤ off)
    (hne : off ≠ 0x070) : (n.excSetUp snd v).k.reg pgCLS off = n.k.reg pgCLS off := by
  obtain ⟨_, _, hreg, hfs⟩ := chanReg_exccfg
  exact n.writeFields_en_reg_ne snd _ hreg hfs (by decide) (by decide) ho ho' hne

/-- A ring enabled: EN set, PROD and CONS 0. -/
def Node.excEnable (n : Node) : Node := ((n.setField pgCLS 0x070 0 1 1).setReg pgCLS 0x074 0).setReg pgCLS 0x078 0

theorem Node.regsOnly_excEnable (n : Node) : n.RegsOnly n.excEnable :=
  ((n.regsOnly_setReg _ _ _).trans (Node.regsOnly_setReg _ _ _ _)).trans (Node.regsOnly_setReg _ _ _ _)

theorem Node.excEnable_excCons (n : Node) : n.excEnable.k.excCons = 0 := by
  rw [Channel.excCons, Node.excEnable, Node.setReg_k, Channel.reg_setReg]
  rfl

theorem Node.excEnable_excProd (n : Node) : n.excEnable.k.excProd = 0 := by
  rw [Channel.excProd, Node.excEnable, Node.setReg_k, Channel.reg_setReg_ne _ _ (by decide), Node.setReg_k,
    Channel.reg_setReg]
  rfl

theorem Node.excEnable_en (n : Node) : (n.excEnable.k.reg pgCLS 0x070).bit 0 = true := by
  rw [Node.excEnable, Node.setReg_k, Channel.reg_setReg_ne _ _ (by decide), Node.setReg_k,
    Channel.reg_setReg_ne _ _ (by decide), Node.setField, Node.setReg_k, Channel.reg_setReg,
    Word.bit_setField_one _ _ (by decide)]
  rfl

theorem Node.excCfg_of_fits {n : Node} (snd : Sender) {v : Word} (hoff : (n.k.reg pgCLS 0x070).bit 0 = false)
    (hv : v.bit 0 = true) (h : (n.excSetUp snd v).k.excFits) : n.excCfg snd v = (n.excSetUp snd v).excEnable := by
  obtain ⟨hin, hal⟩ := h
  simp only [Node.excSetUp] at hin hal
  simp [Node.excCfg, Node.reg, hoff, hv, hin, hal, Node.excSetUp, Node.excEnable]

theorem Node.excCfg_of_not_fits {n : Node} (snd : Sender) {v : Word} (hoff : (n.k.reg pgCLS 0x070).bit 0 = false)
    (hv : v.bit 0 = true) (h : ¬ (n.excSetUp snd v).k.excFits) :
    n.excCfg snd v = (n.excSetUp snd v).regFault snd pgCLS 0x070 cRSVD := by
  simp only [Channel.excFits, Node.excSetUp] at h
  simp [Node.excCfg, Node.reg, hoff, hv, h, Node.excSetUp]

theorem Node.excCfg_of_resize {n : Node} (snd : Sender) {v : Word} (hon : (n.k.reg pgCLS 0x070).bit 0 = true)
    (h : (v ^^^ n.k.reg pgCLS 0x070) &&& 0xF0 ≠ 0) : n.excCfg snd v = n.regFault snd pgCLS 0x070 cSTATE := by
  simp only [Node.excCfg, Node.reg, hon, if_true]
  exact if_pos h

theorem Node.excCfg_of_same_size {n : Node} (snd : Sender) {v : Word} (hon : (n.k.reg pgCLS 0x070).bit 0 = true)
    (h : (v ^^^ n.k.reg pgCLS 0x070) &&& 0xF0 = 0) : n.excCfg snd v = n.setField pgCLS 0x070 0 1 (v.field 0 1) := by
  simp only [Node.excCfg, Node.reg, hon, if_true]
  exact if_neg (not_not_intro h)

/-! ## The pool enabled and disabled (12 R331, R340) -/

/-- POOLCFG is EN, BUFSZ and LOG2N. -/
theorem chanReg_poolcfg : ∃ rst fs, chanReg pgCLS 0x080 = some ⟨rst, fRW 0 1 :: fs⟩ ∧ AboveEn fs :=
  ⟨_, _, rfl, by simp [AboveEn, fRWif, fRW]⟩

/-- The pool's fields written with EN left 0. -/
def Node.poolSetUp (n : Node) (snd : Sender) (v : Word) : Node := n.writeFields snd pgCLS 0x080 (v.setBit 0 false)

theorem Node.regsOnly_poolSetUp (n : Node) (snd : Sender) (v : Word) : n.RegsOnly (n.poolSetUp snd v) := by
  obtain ⟨_, _, hreg, hfs⟩ := chanReg_poolcfg
  exact n.regsOnly_writeFields_en snd _ hreg hfs

theorem Node.poolSetUp_poolEn (n : Node) (snd : Sender) (v : Word) : (n.poolSetUp snd v).k.poolEn = false := by
  obtain ⟨_, _, hreg, hfs⟩ := chanReg_poolcfg
  exact (n.writeFields_en_bit_zero snd _ hreg hfs (by decide) (by decide) (by decide)).trans
    (Word.bit_setBit v false (by decide))

/-- The pool that its set-up registers describe fits (12 R331). -/
def Channel.poolSetFits (k : Channel) : Bool := k.poolFits ((k.reg pgCLS 0x080).field 8 4) ((k.reg pgCLS 0x080).field 1 2)

/-- EN of POOLCFG written, the buffers in a new order. -/
def Node.poolSwitch (n : Node) (en : Bool) (free : List Nat) : Node :=
  (n.setField pgCLS 0x080 0 1 en.toNat).onCls fun x => { x with free := free, fwHeld := [] }

theorem Node.poolSwitch_poolEn (n : Node) (en : Bool) (free : List Nat) : (n.poolSwitch en free).k.poolEn = en := by
  have hreg : (n.poolSwitch en free).k.reg pgCLS 0x080 = (n.reg pgCLS 0x080).setField 0 1 en.toNat :=
    Channel.reg_setReg n.k pgCLS 0x080 _
  rw [Channel.poolEn, hreg, Word.bit_setField_one _ _ (by decide)]
  cases en <;> rfl

@[simp] theorem Node.poolSwitch_evs (n : Node) (en : Bool) (free : List Nat) : (n.poolSwitch en free).evs = n.evs := rfl
@[simp] theorem Node.poolSwitch_sram (n : Node) (en : Bool) (free : List Nat) :
    (n.poolSwitch en free).k.sram = n.k.sram := rfl
@[simp] theorem Node.poolSwitch_free (n : Node) (en : Bool) (free : List Nat) :
    (n.poolSwitch en free).k.cls.free = free := rfl

/-- The buffers the pool has when it is enabled. -/
def Node.poolAll (n : Node) : List Nat := List.range (poolCount (n.setField pgCLS 0x080 0 1 1).k)

theorem Node.poolAll_eq (n : Node) (free : List Nat) : n.poolAll = List.range (poolCount (n.poolSwitch true free).k) := rfl

theorem Node.poolCfg_of_fits {n : Node} (snd : Sender) {v : Word} (hoff : n.k.poolEn = false) (hv : v.bit 0 = true)
    (h : (n.poolSetUp snd v).k.poolSetFits = true) :
    n.poolCfg snd v = (n.poolSetUp snd v).poolSwitch true (n.poolSetUp snd v).poolAll := by
  simp only [Channel.poolEn] at hoff
  simp only [Channel.poolSetFits, Node.poolSetUp] at h
  simp only [Node.poolCfg, Node.reg, hoff, hv, h, Bool.false_eq_true, Bool.not_true, if_false]
  rfl

theorem Node.poolCfg_of_not_fits {n : Node} (snd : Sender) {v : Word} (hoff : n.k.poolEn = false) (hv : v.bit 0 = true)
    (h : (n.poolSetUp snd v).k.poolSetFits = false) :
    n.poolCfg snd v = (n.poolSetUp snd v).regFault snd pgCLS 0x080 cRSVD := by
  simp only [Channel.poolEn] at hoff
  simp only [Channel.poolSetFits, Node.poolSetUp] at h
  simp only [Node.poolCfg, Node.reg, hoff, hv, h, Bool.false_eq_true, Bool.not_true, Bool.not_false, if_false, if_true]
  rfl

section
variable {n : Node} (snd : Sender) {v : Word} (hon : n.k.poolEn = true)
include hon

/-- An enabled pool keeps its size, and stays enabled while a buffer is out (12 R340). -/
theorem Node.poolCfg_of_refused
    (h : (v ^^^ n.k.reg pgCLS 0x080) &&& 0xF06 ≠ 0 ∨ (v.bit 0 = false ∧ n.k.allFree = false)) :
    n.poolCfg snd v = n.regFault snd pgCLS 0x080 cSTATE := by
  simp only [Channel.poolEn] at hon
  simp only [Node.poolCfg, Node.reg, hon, if_true]
  rcases h with hsize | ⟨hv, hall⟩
  · exact if_pos hsize
  · simp only [hv, hall, Bool.false_eq_true, Bool.not_false, if_true, if_false, ite_self]

theorem Node.poolCfg_of_still_enabled (hsize : (v ^^^ n.k.reg pgCLS 0x080) &&& 0xF06 = 0) (hv : v.bit 0 = true) :
    n.poolCfg snd v = n := by
  simp only [Channel.poolEn] at hon
  simp only [Node.poolCfg, Node.reg, hon, hv, if_true]
  exact if_neg (not_not_intro hsize)

theorem Node.poolCfg_of_disabled (hsize : (v ^^^ n.k.reg pgCLS 0x080) &&& 0xF06 = 0) (hv : v.bit 0 = false)
    (hall : n.k.allFree = true) : n.poolCfg snd v = n.poolSwitch false [] := by
  simp only [Channel.poolEn] at hon
  simp only [Node.poolCfg, Node.reg, hon, hv, hall, Bool.false_eq_true, Bool.not_true, if_true, if_false]
  exact if_neg (not_not_intro hsize)

end

/-! ## The commands -/

section
variable {s : State} {snd : Sender} {c : Ch} (v : Word) (hr : s.reaches snd c) (ho : Own snd) (hf : Free s c pgCLS)
include hr ho hf

theorem exec_clsExcconsWrite_own : exec (.clsExcconsWrite snd c v) s = .next (s.within c fun n => n.excCons snd v) :=
  congrArg _ (State.regCmd_own _ _ hr ho hf)

theorem exec_clsBuffree_own : exec (.clsBuffree snd c v) s = .next (s.within c fun n => n.bufFree snd v) :=
  congrArg _ (State.regCmd_own _ _ hr ho hf)

theorem exec_clsExccfgEn_own : exec (.clsExccfgEn snd c v) s = .next (s.within c fun n => n.excCfg snd v) :=
  congrArg _ (State.regCmd_own _ _ hr ho hf)

theorem exec_clsPoolcfgEn_own : exec (.clsPoolcfgEn snd c v) s = .next (s.within c fun n => n.poolCfg snd v) :=
  congrArg _ (State.regCmd_own _ _ hr ho hf)

/-! ## The clauses of the statement -/

theorem clsExcconsWrite_takes (h : (s.ch c).takesExcCons (v.field 0 12)) :
    exec (.clsExcconsWrite snd c v) s =
      .next (s.setCh c ((s.ch c).setReg pgCLS 0x078 (BitVec.ofNat 32 (v.field 0 12)))) := by
  rw [exec_clsExcconsWrite_own v hr ho hf]
  exact congrArg _ (State.within_local s c _ _ ((s.node c).excCons_of_takes snd h))

theorem clsExcconsWrite_refuses (h : ¬ (s.ch c).takesExcCons (v.field 0 12)) :
    ∃ t, exec (.clsExcconsWrite snd c v) s = .next t ∧ RegsOnly (s.ch c) (t.ch c) ∧
      Recorded (s.ch c) (t.ch c) pgCLS cRSVD snd.id (regAddr pgCLS 0x078) ∧ (t.ch c).excCons = (s.ch c).excCons := by
  obtain ⟨⟨honly, hregs⟩, hrec⟩ :=
    s.within_regFault c (f := fun n => n.excCons snd v) ((s.node c).excCons_of_not_takes snd h)
  exact ⟨_, exec_clsExcconsWrite_own v hr ho hf, honly, hrec,
    congrArg (Word.field · 0 12) (hregs pgCLS 0x078 (by decide) (by decide) (.inr (by decide)))⟩

theorem clsBuffree_frees {i : Nat} (hi : (s.ch c).bufIdx v.toNat = some i)
    (hheld : (s.ch c).cls.fwHeld.contains i = true) :
    exec (.clsBuffree snd c v) s = .next (s.setCh c { s.ch c with cls := (s.ch c).cls.freed i }) := by
  rw [exec_clsBuffree_own v hr ho hf]
  exact congrArg _ (State.within_local s c _ _ ((s.node c).bufFree_of_held snd hi hheld))

theorem clsBuffree_refuses (h : (s.ch c).fwHolds v.toNat = false) :
    ∃ t, exec (.clsBuffree snd c v) s = .next t ∧ FaultOnly (s.ch c) (t.ch c) pgCLS ∧
      Recorded (s.ch c) (t.ch c) pgCLS 0x11 snd.id (regAddr pgCLS 0x088) :=
  ⟨_, exec_clsBuffree_own v hr ho hf, s.within_regFault c ((s.node c).bufFree_of_not_held snd h)⟩

theorem clsExccfgEn_enables (hoff : ((s.ch c).reg pgCLS 0x070).bit 0 = false) (hv : v.bit 0 = true)
    (h : ((s.node c).excSetUp snd v).k.excFits) :
    ∃ t, exec (.clsExccfgEn snd c v) s = .next t ∧ RegsOnly (s.ch c) (t.ch c) ∧
      ((t.ch c).reg pgCLS 0x070).bit 0 = true ∧ (t.ch c).excProd = 0 ∧ (t.ch c).excCons = 0 := by
  have hop : (s.node c).excCfg snd v = ((s.node c).excSetUp snd v).excEnable := Node.excCfg_of_fits snd hoff hv h
  have honly : (s.node c).RegsOnly ((s.node c).excCfg snd v) :=
    hop ▸ ((s.node c).regsOnly_excSetUp snd v).trans (Node.regsOnly_excEnable _)
  have hch := State.within_ch s c (fun n => n.excCfg snd v) honly.evs_eq
  refine ⟨_, exec_clsExccfgEn_own v hr ho hf, ?_⟩
  rw [hch]
  exact ⟨honly.channel, hop ▸ Node.excEnable_en _, hop ▸ Node.excEnable_excProd _, hop ▸ Node.excEnable_excCons _⟩

theorem clsExccfgEn_refuses (hoff : ((s.ch c).reg pgCLS 0x070).bit 0 = false) (hv : v.bit 0 = true)
    (h : ¬ ((s.node c).excSetUp snd v).k.excFits) :
    ∃ t, exec (.clsExccfgEn snd c v) s = .next t ∧ RegsOnly (s.ch c) (t.ch c) ∧
      ((t.ch c).reg pgCLS 0x070).bit 0 = false ∧ (t.ch c).excProd = (s.ch c).excProd ∧
      (t.ch c).excCons = (s.ch c).excCons ∧
      Recorded ((s.node c).excSetUp snd v).k (t.ch c) pgCLS cRSVD snd.id (regAddr pgCLS 0x070) := by
  have hop : (s.node c).excCfg snd v = ((s.node c).excSetUp snd v).fault pgCLS cRSVD snd.id (regAddr pgCLS 0x070) :=
    Node.excCfg_of_not_fits snd hoff hv h
  have honly : (s.node c).RegsOnly ((s.node c).excCfg snd v) :=
    hop ▸ ((s.node c).regsOnly_excSetUp snd v).trans (Node.regsOnly_fault _ _ _ _ _)
  have hch := State.within_ch s c (fun n => n.excCfg snd v) honly.evs_eq
  have hkept : ∀ off, 0x070 ≤ off → off < 0x1000 → ((s.node c).excCfg snd v).k.reg pgCLS off =
      ((s.node c).excSetUp snd v).k.reg pgCLS off := fun off hlo hhi => by
    rw [hop]; exact Node.fault_reg _ _ _ _ _ hhi (by decide) (.inr (by omega))
  have hidx : ∀ off, 0x070 < off → off < 0x1000 → ((s.node c).excCfg snd v).k.reg pgCLS off = (s.ch c).reg pgCLS off :=
    fun off hlo hhi => (hkept off (by omega) hhi).trans ((s.node c).excSetUp_reg_ne snd v hhi (by omega) (by omega))
  refine ⟨_, exec_clsExccfgEn_own v hr ho hf, ?_⟩
  rw [hch]
  refine ⟨honly.channel, ?_, ?_, ?_, hop ▸ Node.recorded_fault _ _ _ _ _⟩
  · rw [hkept 0x070 (by decide) (by decide), Node.excSetUp_en]
  · rw [Channel.excProd, hidx 0x074 (by decide) (by decide), Channel.excProd]
  · rw [Channel.excCons, hidx 0x078 (by decide) (by decide), Channel.excCons]

theorem clsExccfgEn_resize (hon : ((s.ch c).reg pgCLS 0x070).bit 0 = true)
    (h : (v ^^^ (s.ch c).reg pgCLS 0x070) &&& 0xF0 ≠ 0) :
    ∃ t, exec (.clsExccfgEn snd c v) s = .next t ∧ FaultOnly (s.ch c) (t.ch c) pgCLS ∧
      Recorded (s.ch c) (t.ch c) pgCLS cSTATE snd.id (regAddr pgCLS 0x070) :=
  ⟨_, exec_clsExccfgEn_own v hr ho hf, s.within_regFault c (Node.excCfg_of_resize (n := s.node c) snd hon h)⟩

theorem clsExccfgEn_same_size (hon : ((s.ch c).reg pgCLS 0x070).bit 0 = true)
    (h : (v ^^^ (s.ch c).reg pgCLS 0x070) &&& 0xF0 = 0) :
    exec (.clsExccfgEn snd c v) s =
      .next (s.setCh c ((s.ch c).setReg pgCLS 0x070 (((s.ch c).reg pgCLS 0x070).setField 0 1 (v.field 0 1)))) := by
  rw [exec_clsExccfgEn_own v hr ho hf]
  exact congrArg _ (State.within_local s c _ _ (Node.excCfg_of_same_size (n := s.node c) snd hon h))

theorem clsPoolcfgEn_enables (hoff : (s.ch c).poolEn = false) (hv : v.bit 0 = true)
    (h : ((s.node c).poolSetUp snd v).k.poolSetFits = true) :
    ∃ t, exec (.clsPoolcfgEn snd c v) s = .next t ∧ (t.ch c).poolEn = true ∧
      (t.ch c).cls.free = List.range (poolCount (t.ch c)) ∧ (t.ch c).cls.fwHeld = [] ∧
      (t.ch c).sram = (s.ch c).sram := by
  have hop := Node.poolCfg_of_fits (n := s.node c) snd hoff hv h
  have honly := (s.node c).regsOnly_poolSetUp snd v
  have hevs : ((s.node c).poolCfg snd v).evs = [] := by rw [hop, Node.poolSwitch_evs, honly.evs_eq, State.node_evs]
  refine ⟨_, exec_clsPoolcfgEn_own v hr ho hf, ?_⟩
  rw [State.within_ch s c (fun n => n.poolCfg snd v) hevs, hop, Node.poolSwitch_sram, Node.poolSwitch_free]
  exact ⟨Node.poolSwitch_poolEn _ _ _, Node.poolAll_eq _ _, rfl, honly.sram_eq⟩

theorem clsPoolcfgEn_refuses (hoff : (s.ch c).poolEn = false) (hv : v.bit 0 = true)
    (h : ((s.node c).poolSetUp snd v).k.poolSetFits = false) :
    ∃ t, exec (.clsPoolcfgEn snd c v) s = .next t ∧ (t.ch c).poolEn = false ∧ (t.ch c).cls = (s.ch c).cls ∧
      Recorded ((s.node c).poolSetUp snd v).k (t.ch c) pgCLS cRSVD snd.id (regAddr pgCLS 0x080) := by
  have hop : (s.node c).poolCfg snd v = ((s.node c).poolSetUp snd v).fault pgCLS cRSVD snd.id (regAddr pgCLS 0x080) :=
    Node.poolCfg_of_not_fits snd hoff hv h
  have honly := ((s.node c).regsOnly_poolSetUp snd v).trans
    (Node.regsOnly_fault _ pgCLS cRSVD snd.id (regAddr pgCLS 0x080))
  have hevs : ((s.node c).poolCfg snd v).evs = [] := hop ▸ honly.evs_eq
  refine ⟨_, exec_clsPoolcfgEn_own v hr ho hf, ?_⟩
  rw [State.within_ch s c (fun n => n.poolCfg snd v) hevs, hop]
  refine ⟨?_, honly.cls_eq, Node.recorded_fault _ _ _ _ _⟩
  rw [Channel.poolEn, Node.fault_reg _ _ _ _ _ (by decide) (by decide) (.inr (by decide))]
  exact Node.poolSetUp_poolEn _ _ _

theorem clsPoolcfgEn_refuses_enabled (hon : (s.ch c).poolEn = true)
    (h : (v ^^^ (s.ch c).reg pgCLS 0x080) &&& 0xF06 ≠ 0 ∨ (v.bit 0 = false ∧ (s.ch c).allFree = false)) :
    ∃ t, exec (.clsPoolcfgEn snd c v) s = .next t ∧ FaultOnly (s.ch c) (t.ch c) pgCLS ∧
      Recorded (s.ch c) (t.ch c) pgCLS cSTATE snd.id (regAddr pgCLS 0x080) :=
  ⟨_, exec_clsPoolcfgEn_own v hr ho hf, s.within_regFault c (Node.poolCfg_of_refused (n := s.node c) snd hon h)⟩

theorem clsPoolcfgEn_still_enabled (hon : (s.ch c).poolEn = true)
    (hsize : (v ^^^ (s.ch c).reg pgCLS 0x080) &&& 0xF06 = 0) (hv : v.bit 0 = true) :
    exec (.clsPoolcfgEn snd c v) s = .next s := by
  rw [exec_clsPoolcfgEn_own v hr ho hf]
  exact congrArg _ (s.within_of_unchanged c (Node.poolCfg_of_still_enabled (n := s.node c) snd hon hsize hv))

theorem clsPoolcfgEn_disables (hon : (s.ch c).poolEn = true)
    (hsize : (v ^^^ (s.ch c).reg pgCLS 0x080) &&& 0xF06 = 0) (hv : v.bit 0 = false) (hall : (s.ch c).allFree = true) :
    ∃ t, exec (.clsPoolcfgEn snd c v) s = .next t ∧ (t.ch c).poolEn = false ∧ (t.ch c).cls.free = [] ∧
      (t.ch c).cls.fwHeld = [] ∧ (t.ch c).sram = (s.ch c).sram := by
  have hop := Node.poolCfg_of_disabled (n := s.node c) snd hon hsize hv hall
  have hevs : ((s.node c).poolCfg snd v).evs = [] := by rw [hop]; rfl
  refine ⟨_, exec_clsPoolcfgEn_own v hr ho hf, ?_⟩
  rw [State.within_ch s c (fun n => n.poolCfg snd v) hevs, hop]
  exact ⟨Node.poolSwitch_poolEn _ _ _, rfl, rfl, rfl⟩

end

/-- The second half of O51: each clause is a command's own lemma. -/
theorem classifierMemory : ClassifierMemory := by
  refine ⟨fun s snd c v hr ho hf => ⟨fun hlt hle => ?_, fun h => ?_⟩,
    fun s snd c v hr ho hf => ⟨fun i hi hheld => ?_, clsBuffree_refuses v hr ho hf⟩,
    fun s snd c v hr ho hf hoff hv => ⟨clsExccfgEn_enables v hr ho hf hoff hv, clsExccfgEn_refuses v hr ho hf hoff hv⟩,
    fun s snd c v hr ho hf hon => ⟨clsExccfgEn_resize v hr ho hf hon, clsExccfgEn_same_size v hr ho hf hon⟩,
    fun s snd c v hr ho hf hoff hv =>
      ⟨clsPoolcfgEn_enables v hr ho hf hoff hv, clsPoolcfgEn_refuses v hr ho hf hoff hv⟩,
    fun s snd c v hr ho hf hon => ⟨clsPoolcfgEn_refuses_enabled v hr ho hf hon,
      clsPoolcfgEn_still_enabled v hr ho hf hon, clsPoolcfgEn_disables v hr ho hf hon⟩⟩
  · exact clsExcconsWrite_takes v hr ho hf ⟨hlt, hle⟩
  · refine clsExcconsWrite_refuses v hr ho hf fun ⟨hlt, hle⟩ => ?_
    rcases h with h | h <;> omega
  · refine ⟨_, clsBuffree_frees v hr ho hf hi hheld, ?_⟩
    rw [State.setCh_ch_self]
    exact ⟨Classifier.contains_free_freed _ i, rfl, rfl⟩

end Sys2Proof.Machine

/-! # Memory that meets no error (06 R190, R191) -/

namespace Sys2Proof.Machine
open Sys2Proof.Claims

theorem eccIn_nil (kind : MemKind) (a len : Nat) : eccIn [] kind a len = [] := rfl

theorem Node.correct_of_clean {n : Node} (h : n.k.ecc = Ecc.reset) (kind : MemKind) (a len : Nat) :
    n.correct kind a len = n := by
  simp only [Node.correct, h, Ecc.reset, eccIn_nil, List.foldl_nil]

/-- A change that keeps an empty error list keeps a channel without errors. -/
theorem Node.onEcc_of_clean {n : Node} (h : n.k.ecc = Ecc.reset) {g : Ecc → Ecc} (hg : g Ecc.reset = Ecc.reset) :
    n.onEcc g = n := by
  have hecc : g n.k.ecc = n.k.ecc := by rw [h, hg]
  show { n with k := { n.k with ecc := g n.k.ecc } } = n
  rw [hecc]

theorem Node.sramFetch_of_clean {n : Node} (h : n.k.ecc = Ecc.reset) (snd a len : Nat) :
    n.sramFetch snd a len = (n, .ok (n.k.sram.read a len)) := by
  have hue : eccIn n.k.ecc.ue .sram a len = [] := by rw [h]; rfl
  simp only [Node.sramFetch, hue, Node.correct_of_clean h]

/-- Bytes of SRAM written, and nothing else changed. -/
def Node.stored (n : Node) (a : Nat) (data : List (Option Byte)) : Node :=
  n.onK fun k => { k with sram := k.sram.write a data }

section
variable (n : Node) (a : Nat) (data : List (Option Byte))

@[simp] theorem Node.stored_evs : (n.stored a data).evs = n.evs := rfl
@[simp] theorem Node.stored_sram : (n.stored a data).k.sram = n.k.sram.write a data := rfl
@[simp] theorem Node.stored_excProd : (n.stored a data).k.excProd = n.k.excProd := rfl
@[simp] theorem Node.stored_excCons : (n.stored a data).k.excCons = n.k.excCons := rfl
@[simp] theorem Node.stored_excSize : (n.stored a data).k.excSize = n.k.excSize := rfl

end

/-- Without errors a write stores its bytes, and nothing else changes. -/
theorem Node.sramStore_of_clean {n : Node} (h : n.k.ecc = Ecc.reset) (snd a : Nat) (data : List (Option Byte)) :
    n.sramStore snd a data false = (n.stored a data, .ok []) := by
  have hue : eccIn n.k.ecc.ue .sram a data.length = [] := by rw [h]; rfl
  have htag : (blocksOf a data.length).find? (fun b => n.k.ecc.ueTag.contains b &&
      !(false && covers a data (SRAM0 + b * 64) 64)) = none := by simp [h, Ecc.reset]
  have hctag : (blocksOf a data.length).filter (fun b => n.k.ecc.ceTag.contains b) = [] := by simp [h, Ecc.reset]
  have hnewTag : (blocksOf a data.length).filter (fun _ => false) = [] :=
    List.filter_eq_nil_iff.2 fun _ _ => Bool.false_ne_true
  simp only [Node.sramStore, hue, List.find?_nil, htag]
  rw [Node.onEcc_of_clean h (by rfl), Node.correct_of_clean h, hctag]
  simp only [Bool.false_and, hnewTag, List.foldl_nil, List.filter_nil]
  rw [Node.onEcc_of_clean h (by simp [Ecc.reset]), Node.stored]

theorem Node.put_of_clean {n : Node} (h : n.k.ecc = Ecc.reset) {m a len : Nat} {bs : List Byte}
    (hlen : bs.length = len) (hg : n.k.settled m a len true ≠ .refused) :
    n.put m a bs = (n.stored a (bs.map some), .ok []) := by
  subst hlen
  rw [Node.put, Node.sramWrite, List.length_map, if_neg hg, Node.sramStore_of_clean h]

theorem Node.canSeen_of_unwatched {n : Node} (h : Unwatched n.k) (a len : Nat) : n.canSeen a len = n := by
  simp [Node.canSeen, Node.canSeen1, h.1, h.2]

theorem Node.getBy_of_clean {n : Node} (h : n.k.ecc = Ecc.reset) (hu : Unwatched n.k) {m a len : Nat}
    (hg : n.k.settled m a len false ≠ .refused) : n.getBy m a len = (n, .ok (n.k.sram.read a len)) := by
  simp only [Node.getBy, Node.get, Node.sramRead, if_neg hg, Node.sramFetch_of_clean h, Node.canSeen_of_unwatched hu]

/-- An access that is not refused lies in SRAM. -/
theorem Channel.inSram_of_settled {k : Channel} {m a len : Nat} {wr : Bool} (h : k.settled m a len wr ≠ .refused) :
    inSram a len = true := by
  cases hin : inSram a len
  · exact absurd (by simp only [Channel.settled, joinGrants, hin, Bool.not_false, if_true]) h
  · rfl

/-! # The classifier's walks (12 R314 to R338) -/

/-! ## The start of a walk (12 R320, R322) -/

/-- The walk of a frame that enters the classifier. -/
def Channel.firstWalk (k : Channel) (fr : RxFrame) : Walk :=
  ⟨fr, k.cls.version, k.walkCfg, ⟨k.walkCfg.root, 0, List.replicate 16 0, 0, k.walkCfg.root, false, none⟩, false,
    none⟩

theorem Node.walkStart_of_backlog {n : Node} {fr : RxFrame} {rest : List RxFrame} (hl : n.k.live pgCLS = true)
    (hw : n.k.cls.walk = none) (hb : n.k.cls.backlog = fr :: rest) :
    n.walkStart = (n.onCls fun x => { x with backlog := rest, walk := some (n.k.firstWalk fr) }).clsCount 0 := by
  simp only [Node.walkStart, hw, hb, hl, Bool.not_true, Bool.false_eq_true, if_false]
  rfl

theorem Node.walkStart_of_idle {n : Node} (h : n.k.live pgCLS = false ∨ n.k.cls.walk ≠ none ∨ n.k.cls.backlog = []) :
    n.walkStart = n := by
  unfold Node.walkStart
  split
  next fr rest hw hb =>
    have hl : n.k.live pgCLS = false := h.resolve_right (by simp [hw, hb])
    simp [hl]
  next => rfl

/-! ## The visits of a walk (12 R320, R337) -/

/-- Where a move leaves the walk. -/
def Move.pos : Move → WalkAt
  | .goto w | .fin _ w | .later _ w => w

/-- A count of visits that has gone up from `v`, not beyond 24. -/
abbrev Visited (v v' : Nat) : Prop := v ≤ v' ∧ v' ≤ max v 24

theorem visited_self (v : Nat) : Visited v v := ⟨Nat.le_refl v, Nat.le_max_left v 24⟩

theorem Node.visits_chain (n : Node) (c : WalkCfg) (key : List Byte) (prof : Nat) (f : Nat) (e : List Byte) (v : Nat) :
    Visited v (n.chain c key prof f e v).2.2 := by
  induction f generalizing n e v with
  | zero => exact visited_self v
  | succ f ih =>
    have hself := visited_self v
    simp only [Node.chain]
    split
    · exact hself
    · split
      · exact hself
      · next hv =>
        split
        · exact hself
        · split
          · exact ⟨Nat.le_succ v, by simp only; omega⟩
          · next n' e' _ _ =>
            obtain ⟨hlo, hhi⟩ := ih n' e' (v + 1)
            exact ⟨by omega, by omega⟩

theorem Node.visits_lookup (n : Node) (c : WalkCfg) (key : List Byte) (prof v : Nat) :
    Visited v (n.lookup c key prof v).2.2 := by
  have hself := visited_self v
  simp only [Node.lookup]
  split
  · exact hself
  · split
    · exact hself
    · split
      · exact hself
      · exact Node.visits_chain _ _ _ _ _ _ _

/-- The selector of a node copied into the key where KEN says so (12 R316). -/
def WalkAt.keyed (w : WalkAt) (win nd : List Byte) : WalkAt :=
  let w0 := wordAt nd 0
  let width := 2 ^ w0.field 2 2
  let kpos := (wordAt nd 8).field 24 4
  if w0.bit 6 then
    { w with key := w.key.take kpos ++ slice win (w.cur + w0.field 8 7) width ++ w.key.drop (kpos + width) }
  else w

/-- On to another node with the cursor advanced, or the end where the length byte lies beyond the window. -/
def WalkAt.moveOn (w : WalkAt) (win nd : List Byte) (node : Nat) : Move :=
  match advance win w.cur ((wordAt nd 0).field 4 2) ((wordAt nd 0).field 16 7) ((wordAt nd 0).field 24 8) with
  | none => .fin wWINDOW w
  | some cur => .goto { w with cur := cur, node := node }

/-- What a LOOKUP node makes of the end of its lookup. -/
def Node.afterLookup (n : Node) (c : WalkCfg) (win nd : List Byte) (w : WalkAt) : Look → Node × Move
  | .stop e => (n, .fin e w)
  | .hit a =>
    (n.clsCount 1, match w.moveOn win nd 0 with
      | .fin e w => .fin e w
      | _ => .fin (.act a 0) w)
  | .miss =>
    (n.clsCount 2, match w.moveOn win nd ((wordAt nd 8).field 16 8) with
      | .fin e w => .fin e w
      | m => if (wordAt nd 12).bit 24 then .fin (.act c.defact 2) w else m)

/-- The node that a PARSE node's compare leads to. -/
def parseNext (win nd : List Byte) (cur : Nat) : Nat :=
  let w1 := wordAt nd 4
  let w2 := wordAt nd 8
  let v := ofBytesBE (slice win (cur + (wordAt nd 0).field 8 7) (2 ^ (wordAt nd 0).field 2 2)) % 65536 &&&
    (wordAt nd 12).field 0 16
  if v = w1.field 0 16 then w2.field 0 8 else if v = w1.field 16 16 then w2.field 8 8 else w2.field 16 8

/-- A node's own rules in their parts: its selector's place, its key, its lookup or its compare. -/
theorem Node.nodeRest_eq (n : Node) (c : WalkCfg) (win nd : List Byte) (w : WalkAt) :
    n.nodeRest c win nd w =
      if (!decide ((wordAt nd 0).field 0 2 = 1) || (wordAt nd 0).bit 6) &&
          decide (128 < w.cur + (wordAt nd 0).field 8 7 + 2 ^ (wordAt nd 0).field 2 2) then (n, .fin wWINDOW w)
      else if (wordAt nd 0).field 0 2 = 1 then
        let l := n.lookup c (w.keyed win nd).key ((wordAt nd 8).field 28 4) (w.keyed win nd).visits
        l.1.afterLookup c win nd { w.keyed win nd with visits := l.2.2 } l.2.1
      else (n, (w.keyed win nd).moveOn win nd (parseNext win nd w.cur)) := by rfl

@[simp] theorem WalkAt.keyed_visits (w : WalkAt) (win nd : List Byte) : (w.keyed win nd).visits = w.visits := by
  simp only [WalkAt.keyed]; split <;> rfl

@[simp] theorem WalkAt.moveOn_visits (w : WalkAt) (win nd : List Byte) (node : Nat) :
    (w.moveOn win nd node).pos.visits = w.visits := by
  simp only [WalkAt.moveOn]; split <;> rfl

theorem Node.afterLookup_visits (n : Node) (c : WalkCfg) (win nd : List Byte) (w : WalkAt) (r : Look) :
    (n.afterLookup c win nd w r).2.pos.visits = w.visits := by
  cases r with
  | stop e => rfl
  | hit a =>
    simp only [Node.afterLookup]
    split
    next h => exact (congrArg (fun m => m.pos.visits) h).symm.trans (w.moveOn_visits win nd 0)
    next => rfl
  | miss =>
    have hmove := w.moveOn_visits win nd ((wordAt nd 8).field 16 8)
    simp only [Node.afterLookup]
    split
    next h => exact (congrArg (fun m => m.pos.visits) h).symm.trans hmove
    next =>
      split
      · rfl
      · exact hmove

/-- After its own rules a node leaves the visits but for those of its lookup's chain. -/
theorem Node.visits_nodeRest (n : Node) (c : WalkCfg) (win nd : List Byte) (w : WalkAt) :
    Visited w.visits (n.nodeRest c win nd w).2.pos.visits := by
  have hself := visited_self w.visits
  rw [Node.nodeRest_eq]
  split
  · exact hself
  · split
    · rw [Node.afterLookup_visits, ← w.keyed_visits win nd]
      exact Node.visits_lookup _ _ _ _ _
    · rw [WalkAt.moveOn_visits, WalkAt.keyed_visits]
      exact hself

/-- A FRAG node's own rules, before those it shares with PARSE (12 R325 to R327). -/
def Node.fragVisit (n : Node) (c : WalkCfg) (p : Port) (win nd : List Byte) (w : WalkAt) : Node × Move :=
  let h := w.cur + (wordAt nd 0).field 16 7
  let hw := ofBytesBE (slice win (h + 6) 2)
  if 128 < h + 8 then (n, .fin wWINDOW w)
  else if !decide (hw / 8192 % 2 = 1) && decide (hw % 8192 = 0) then n.nodeRest c win nd w
  else if c.except then (n, .fin (.exc 4 0 stOK.toNat 0) { w with frag := true })
  else if 128 < h + 20 then (n, .fin wWINDOW { w with frag := true })
  else if hw % 8192 ≠ 0 then (n, .later (fragKey win h p) { w with frag := true })
  else n.nodeRest c win nd { w with frag := true, store := some (fragKey win h p) }

/-- A visit of a node that has been read. -/
def Node.nodeVisit (n : Node) (c : WalkCfg) (p : Port) (win nd : List Byte) (w : WalkAt) : Node × Move :=
  let w0 := wordAt nd 0
  if w0.field 0 2 = 2 then (n, .fin (.exc 1 ((wordAt nd 12).field 16 8) stOK.toNat 0) w)
  else if w0.field 2 2 = 3 || w0.field 4 2 = 3 || (w0.bit 6 && 16 < (wordAt nd 8).field 24 4 + 2 ^ w0.field 2 2) then
    (n, .fin wBADNODE w)
  else if w0.field 0 2 = 3 then n.fragVisit c p win nd w
  else n.nodeRest c win nd w

theorem Node.visit_of_spent (n : Node) (c : WalkCfg) (p : Port) (win : List Byte) {w : WalkAt} (h : 24 ≤ w.visits) :
    n.visit c p win w = (n, .fin wBUDGET w) := if_pos h

theorem Node.visit_of_refused {n n' : Node} {c : WalkCfg} (p : Port) (win : List Byte) {w : WalkAt} {r : WalkEnd}
    (h : w.visits < 24) (hread : n.walkRead (c.graph + 16 * w.node) 16 = (n', .inr r)) :
    n.visit c p win w = (n', .fin r w) := by
  simp only [Node.visit, if_neg (Nat.not_le.2 h), hread]

theorem Node.visit_of_read {n n' : Node} {c : WalkCfg} (p : Port) (win : List Byte) {w : WalkAt} {nd : List Byte}
    (h : w.visits < 24) (hread : n.walkRead (c.graph + 16 * w.node) 16 = (n', .inl nd)) :
    n.visit c p win w = n'.nodeVisit c p win nd { w with visits := w.visits + 1, last := w.node } := by
  simp only [Node.visit, if_neg (Nat.not_le.2 h), hread]
  rfl

theorem Node.visits_fragVisit (n : Node) (c : WalkCfg) (p : Port) (win nd : List Byte) (w : WalkAt) :
    Visited w.visits (n.fragVisit c p win nd w).2.pos.visits := by
  have hself := visited_self w.visits
  have hrest : ∀ w' : WalkAt, w'.visits = w.visits → Visited w.visits (n.nodeRest c win nd w').2.pos.visits :=
    fun w' h => h ▸ n.visits_nodeRest c win nd w'
  simp only [Node.fragVisit]
  split
  · exact hself
  · split
    · exact hrest w rfl
    · split
      · exact hself
      · split
        · exact hself
        · split
          · exact hself
          · exact hrest _ rfl

theorem Node.visits_nodeVisit (n : Node) (c : WalkCfg) (p : Port) (win nd : List Byte) (w : WalkAt) :
    Visited w.visits (n.nodeVisit c p win nd w).2.pos.visits := by
  have hself := visited_self w.visits
  simp only [Node.nodeVisit]
  split
  · exact hself
  · split
    · exact hself
    · split
      · exact Node.visits_fragVisit _ _ _ _ _ _
      · exact Node.visits_nodeRest _ _ _ _ _

/-- What a visit makes of the count of visits: it does not pass 24, and a walk that goes on has made one more. -/
theorem Node.visits_visit (n : Node) (c : WalkCfg) (p : Port) (win : List Byte) (w : WalkAt) :
    (n.visit c p win w).2.pos.visits ≤ max w.visits 24 ∧
      ∀ w', (n.visit c p win w).2 = .goto w' → w.visits < w'.visits ∧ w'.visits ≤ 24 := by
  have hstay : w.visits ≤ max w.visits 24 := Nat.le_max_left _ _
  by_cases h : w.visits < 24
  · rcases hread : n.walkRead (c.graph + 16 * w.node) 16 with ⟨n', nd | r⟩
    · obtain ⟨hlo, hhi⟩ : Visited (w.visits + 1) _ :=
        n'.visits_nodeVisit c p win nd { w with visits := w.visits + 1, last := w.node }
      rw [Node.visit_of_read p win h hread]
      refine ⟨by omega, fun w' hw' => ?_⟩
      rw [hw'] at hlo hhi
      simp only [Move.pos] at hlo hhi
      exact ⟨hlo, by omega⟩
    · rw [Node.visit_of_refused p win h hread]
      exact ⟨hstay, fun _ hgo => nomatch hgo⟩
  · rw [Node.visit_of_spent n c p win (Nat.not_lt.1 h)]
    exact ⟨hstay, fun _ hgo => nomatch hgo⟩

/-- A visit of a walk that goes on ends it, or makes one visit more, up to 24. -/
theorem Node.visits_walkVisit (n : Node) (w : Walk) :
    (n.walkVisit w).2.pos.visits ≤ max w.pos.visits 24 ∧
      ((n.walkVisit w).2.res.isSome = true ∨
        (w.pos.visits < (n.walkVisit w).2.pos.visits ∧ (n.walkVisit w).2.pos.visits ≤ 24)) := by
  by_cases hres : w.res.isSome = true
  · simp only [Node.walkVisit, hres, if_true, true_or, and_true]
    exact Nat.le_max_left _ _
  · obtain ⟨hmax, hgo⟩ := n.visits_visit w.cfg w.frame.port w.frame.win w.pos
    simp only [Node.walkVisit, hres, Bool.false_eq_true, if_false]
    generalize n.visit w.cfg w.frame.port w.frame.win w.pos = r at hmax hgo ⊢
    obtain ⟨n', m⟩ := r
    cases m with
    | goto pos => exact ⟨hmax, .inr (hgo pos rfl)⟩
    | fin e pos => exact ⟨hmax, .inl rfl⟩
    | later key pos =>
      simp only [Node.walkMoved]
      split
      · exact ⟨hmax, .inl rfl⟩
      · exact ⟨hmax, .inl rfl⟩

theorem Node.walkVisit_of_ended (n : Node) {w : Walk} (h : w.res.isSome = true) : n.walkVisit w = (n, w) := by
  simp only [Node.walkVisit, h, if_true]

theorem Node.walkGo_succ (n : Node) (w : Walk) (f : Nat) :
    n.walkGo w (f + 1) = (n.walkVisit w).1.walkGo (n.walkVisit w).2 f := rfl

theorem Node.walkGo_of_ended (n : Node) {w : Walk} (h : w.res.isSome = true) (f : Nat) : n.walkGo w f = (n, w) := by
  induction f with
  | zero => rfl
  | succ f ih => rw [Node.walkGo_succ, Node.walkVisit_of_ended n h, ih]

/-- No walk visits more than 24 nodes (12 R337). -/
theorem Node.visits_walkGo (n : Node) (w : Walk) (f : Nat) (h : w.pos.visits ≤ 24) :
    (n.walkGo w f).2.pos.visits ≤ 24 := by
  induction f generalizing n w with
  | zero => exact h
  | succ f ih =>
    have hmax := (n.visits_walkVisit w).1
    exact ih (n.walkVisit w).1 (n.walkVisit w).2 (by omega)

/-- A walk with enough visits ahead of it ends. -/
theorem Node.walkGo_ends (n : Node) (w : Walk) (f : Nat) (h : 24 ≤ w.pos.visits + f) :
    (n.walkGo w (f + 1)).2.res.isSome = true := by
  induction f generalizing n w with
  | zero =>
    rcases (n.visits_walkVisit w).2 with hend | ⟨hlo, hhi⟩
    · exact hend
    · omega
  | succ f ih =>
    rcases (n.visits_walkVisit w).2 with hend | ⟨hlo, hhi⟩
    · rw [Node.walkGo_succ, Node.walkGo_of_ended _ hend]
      exact hend
    · exact ih (n.walkVisit w).1 (n.walkVisit w).2 (by omega)

/-! ## What the classifier's operations leave -/

@[simp] theorem Node.onCls_k (n : Node) (g : Classifier → Classifier) :
    (n.onCls g).k = { n.k with cls := g n.k.cls } := rfl
@[simp] theorem Node.onCls_evs (n : Node) (g : Classifier → Classifier) : (n.onCls g).evs = n.evs := rfl
@[simp] theorem Node.onCls_reg (n : Node) (g : Classifier → Classifier) (p o : Nat) :
    (n.onCls g).k.reg p o = n.k.reg p o := rfl
@[simp] theorem Node.clsCount_k (n : Node) (i : Nat) :
    (n.clsCount i).k = n.k.setReg pgCLS (0x100 + 4 * i) (n.k.reg pgCLS (0x100 + 4 * i) + 1) := rfl
@[simp] theorem Node.clsCount_evs (n : Node) (i : Nat) : (n.clsCount i).evs = n.evs := rfl

@[simp] theorem Node.shapeCount_k (n : Node) (i : Nat) :
    (n.shapeCount i).k = n.k.setReg pgSHAPE (0x500 + 4 * i) (n.k.reg pgSHAPE (0x500 + 4 * i) + 1) := rfl

/-- A counter counts. -/
theorem Node.counted_clsCount (n : Node) (i : Nat) : Counted n.k (n.clsCount i).k pgCLS i :=
  Channel.reg_setReg n.k pgCLS _ _

/-- A counter of the page is none of its other registers. -/
theorem Node.clsCount_reg_ne (n : Node) {i off : Nat} (ho : off < 0x100) :
    (n.clsCount i).k.reg pgCLS off = n.k.reg pgCLS off :=
  Channel.reg_setReg_ne _ _ (by unfold regKey; omega)

theorem Node.onCls_clsCount_cls (n : Node) (g : Classifier → Classifier) (i : Nat) :
    ((n.onCls g).clsCount i).k.cls = g n.k.cls := by
  rw [Node.clsCount_k, Channel.setReg_cls, Node.onCls_k]

/-- A change of the classifier and a count leave the rest of the channel but for its registers. -/
theorem Node.regsOnly_onCls_clsCount (n : Node) (g : Classifier → Classifier) (i : Nat) :
    Claims.RegsOnly { n.k with cls := ((n.onCls g).clsCount i).k.cls } ((n.onCls g).clsCount i).k := by
  rw [Node.onCls_clsCount_cls, Node.clsCount_k]
  exact (Channel.withRegs_setReg (n.onCls g).k _ _ _ _).trans rfl

/-- The pool's registers say which buffer starts at an address. -/
theorem Channel.bufIdx_congr {k k' : Channel} (hbase : k'.reg pgCLS 0x07C = k.reg pgCLS 0x07C)
    (hcfg : k'.reg pgCLS 0x080 = k.reg pgCLS 0x080) (a : Nat) : k'.bufIdx a = k.bufIdx a := by
  have hen : k'.poolEn = k.poolEn := congrArg (Word.bit · 0) hcfg
  have hbase : k'.poolBase = k.poolBase := congrArg (fun v : Word => v.toNat / 2048 * 2048) hbase
  have hsize : poolBufSize k' = poolBufSize k := congrArg (fun v : Word => 2048 * 2 ^ v.field 1 2) hcfg
  have hcount : poolCount k' = poolCount k := congrArg (fun v : Word => 2 ^ v.field 8 4) hcfg
  simp only [Channel.bufIdx, hen, hbase, hsize, hcount]

@[simp] theorem Node.onCls_bufIdx (n : Node) (g : Classifier → Classifier) (a : Nat) :
    (n.onCls g).k.bufIdx a = n.k.bufIdx a := Channel.bufIdx_congr rfl rfl a

@[simp] theorem Node.clsCount_bufIdx (n : Node) (i a : Nat) : (n.clsCount i).k.bufIdx a = n.k.bufIdx a :=
  Channel.bufIdx_congr (n.clsCount_reg_ne (by decide)) (n.clsCount_reg_ne (by decide)) a

@[simp] theorem Node.shapeCount_bufIdx (n : Node) (i a : Nat) : (n.shapeCount i).k.bufIdx a = n.k.bufIdx a := by
  have hother : ∀ off, off < 0x1000 → (n.shapeCount i).k.reg pgCLS off = n.k.reg pgCLS off := fun off ho =>
    Channel.reg_setReg_ne _ _ (by unfold regKey; simp only [pgCLS, pgSHAPE]; omega)
  exact Channel.bufIdx_congr (hother _ (by decide)) (hother _ (by decide)) a

/-! ## The end of a walk -/

/-- The classifier once walk w has ended. -/
def Classifier.walkDone (x : Classifier) (w : Walk) : Classifier :=
  { x with walk := none, oldBusy := if w.old then false else x.oldBusy }

/-- The channel with its classifier once walk w has ended. -/
def Node.walkDone (n : Node) (w : Walk) : Node := n.onCls fun x => x.walkDone w

@[simp] theorem Node.walkDone_evs (n : Node) (w : Walk) : (n.walkDone w).evs = n.evs := rfl
@[simp] theorem Node.walkDone_sram (n : Node) (w : Walk) : (n.walkDone w).k.sram = n.k.sram := rfl
@[simp] theorem Node.walkDone_reg (n : Node) (w : Walk) (p o : Nat) : (n.walkDone w).k.reg p o = n.k.reg p o := rfl
@[simp] theorem Node.walkDone_excProd (n : Node) (w : Walk) : (n.walkDone w).k.excProd = n.k.excProd := rfl
@[simp] theorem Node.walkDone_excCons (n : Node) (w : Walk) : (n.walkDone w).k.excCons = n.k.excCons := rfl
@[simp] theorem Node.walkDone_excSize (n : Node) (w : Walk) : (n.walkDone w).k.excSize = n.k.excSize := rfl
@[simp] theorem Node.walkDone_bufIdx (n : Node) (w : Walk) (a : Nat) : (n.walkDone w).k.bufIdx a = n.k.bufIdx a :=
  n.onCls_bufIdx _ a

theorem Node.walkEnd_of_ended {n : Node} {w : Walk} {r : WalkEnd} (hw : n.k.cls.walk = some w) (hr : w.res = some r) :
    n.walkEnd = (n.walkDone w).walkAct w r := by
  simp only [Node.walkEnd, hw, Node.walkGo_of_ended n (w := w) (by rw [hr]; rfl), hr]
  rfl

theorem Node.walkEnd_of_no_walk {n : Node} (h : n.k.cls.walk = none) : n.walkEnd = n := by
  simp only [Node.walkEnd, h]

/-- A walk whose next visit ends it ends as one that has made that visit. -/
theorem Node.walkEnd_of_last_visit {n : Node} {w w' : Walk} {r : WalkEnd} (hw : n.k.cls.walk = some w)
    (hv : n.walkVisit w = (n, w')) (hr : w'.res = some r) :
    n.walkEnd = (n.onCls fun x => { x with walk := some w' }).walkEnd := by
  have hend : w'.res.isSome = true := by rw [hr]; rfl
  have hgo : n.walkGo w 25 = (n, w') := by rw [Node.walkGo_succ, hv, Node.walkGo_of_ended n hend]
  rw [Node.walkEnd_of_ended (n := n.onCls fun x => { x with walk := some w' }) rfl hr]
  simp only [Node.walkEnd, hw, hgo, hr]
  rfl

theorem exec_walkEnd_of_running {s : State} {c : Ch} (h : (s.ch c).boot = .run) :
    exec (.walkEnd c) s = .next (s.within c Node.walkEnd) :=
  congrArg _ (State.within_congr s c (if_pos (by simp [Channel.running, h])))

theorem exec_walkEnd_of_idle {s : State} {c : Ch} (h : (s.ch c).boot ≠ .run ∨ (s.ch c).cls.walk = none) :
    exec (.walkEnd c) s = .next s := by
  refine congrArg _ (State.within_of_unchanged s c ?_)
  rcases h with hb | hw
  · simp [Channel.running, hb]
  · simp [Node.walkEnd_of_no_walk (n := s.node c) hw]

/-- A walk that has ended acts on the channel's view. -/
theorem exec_walkEnd_of_ended {s : State} {c : Ch} {w : Walk} {r : WalkEnd} (hb : (s.ch c).boot = .run)
    (hw : (s.ch c).cls.walk = some w) (hr : w.res = some r) :
    exec (.walkEnd c) s = .next (s.within c fun n => (n.walkDone w).walkAct w r) := by
  rw [exec_walkEnd_of_running hb]
  exact congrArg _ (State.within_congr s c (Node.walkEnd_of_ended (n := s.node c) hw hr))

/-! ## An EXCEPT node (12 R317) -/

/-- The walk that an EXCEPT node has ended. -/
def Walk.excepted (w : Walk) (nd : List Byte) : Walk :=
  { w with pos := { w.pos with visits := w.pos.visits + 1, last := w.pos.node },
           res := some (.exc 1 ((wordAt nd 12).field 16 8) 0 0) }

theorem Node.walkRead_of_clean {n : Node} (h : n.k.ecc = Ecc.reset) (hu : Unwatched n.k) {a len : Nat}
    (hg : n.k.settled mCLS a len false ≠ .refused) : n.walkRead a len = (n, .inl (n.k.sram.read a len)) := by
  simp only [Node.walkRead, Channel.inSram_of_settled hg, Bool.not_true, Bool.false_eq_true, if_false,
    Node.getBy_of_clean h hu hg]

theorem Node.walkVisit_of_except {n : Node} {w : Walk} {nd : List Byte} (hr : w.res = none) (hv : w.pos.visits < 24)
    (hread : n.walkRead (w.cfg.graph + 16 * w.pos.node) 16 = (n, .inl nd)) (htyp : (wordAt nd 0).field 0 2 = 2) :
    n.walkVisit w = (n, w.excepted nd) := by
  simp only [Node.walkVisit, hr, Option.isSome_none, Bool.false_eq_true, if_false,
    Node.visit_of_read w.frame.port w.frame.win hv hread, Node.nodeVisit, htyp, if_true]
  rfl

theorem walkEnd_except {s : State} {c : Ch} {w : Walk} {nd : List Byte} (hb : (s.ch c).boot = .run)
    (hw : (s.ch c).cls.walk = some w) (hr : w.res = none) (hv : w.pos.visits < 24) (hecc : (s.ch c).ecc = Ecc.reset)
    (hu : Unwatched (s.ch c)) (hg : (s.ch c).settled mCLS (w.cfg.graph + 16 * w.pos.node) 16 false ≠ .refused)
    (hnd : (s.ch c).sram.read (w.cfg.graph + 16 * w.pos.node) 16 = nd) (htyp : (wordAt nd 0).field 0 2 = 2) :
    exec (.walkEnd c) s = exec (.walkEnd c) (s.setCh c
      { s.ch c with cls := { (s.ch c).cls with walk := some (w.excepted nd) } }) := by
  have hread : (s.node c).walkRead (w.cfg.graph + 16 * w.pos.node) 16 = (s.node c, .inl nd) := by
    rw [Node.walkRead_of_clean (n := s.node c) hecc hu hg]; exact congrArg (fun l => (s.node c, Sum.inl l)) hnd
  have hvisit := Node.walkVisit_of_except (n := s.node c) hr hv hread htyp
  rw [exec_walkEnd_of_running hb, exec_walkEnd_of_running (by rw [State.setCh_ch_self]; exact hb)]
  exact congrArg _ (State.within_setCh s c (Node.walkEnd_of_last_visit (n := s.node c) hw hvisit rfl).symm).symm

/-! ## The action of a rule (12 R319) -/

section
variable (n : Node) (w : Walk) {a : Action} (r : Nat) (hpol : a.polen = false)
include hpol

theorem Node.deliver_drop (hd : a.dest = 0) : n.deliver w a r = (n.clsCount 3).freeBuf w.frame.buf := by
  simp only [Node.deliver, hpol, hd, Bool.false_eq_true, if_false]

/-- A class queue with room takes the frame. -/
theorem Node.deliver_queue (hd : a.dest = 1) (hroom : n.k.qRoom a.port a.cls = true) :
    n.deliver w a r = (n.clsCount 4).setQueue a.port a.cls
      (n.k.queue a.port a.cls ++ [⟨.classifier, w.frame.buf, w.frame.len⟩]) := by
  have hroom' : (n.clsCount 4).k.qRoom a.port a.cls = true := hroom
  simp only [Node.deliver, hpol, hd, Bool.false_eq_true, if_false, Node.enq, hroom', if_true]
  rfl

theorem Node.deliver_full (hd : a.dest = 1) (hfull : n.k.qRoom a.port a.cls = false) :
    n.deliver w a r =
      ((n.clsCount 4).shapeCount (8 + 8 * a.port.num + a.cls % 8)).freeBuf w.frame.buf := by
  have hfull' : (n.clsCount 4).k.qRoom a.port a.cls = false := hfull
  simp only [Node.deliver, hpol, hd, Bool.false_eq_true, if_false, Node.enq, hfull']

end

theorem Node.walkAct_of_act (n : Node) {w : Walk} (hstore : w.pos.store = none) (a : Action) (r : Nat) :
    n.walkAct w (.act a r) = n.deliver w a r := by
  simp only [Node.walkAct, hstore]

/-- What joins a queue stands at its end. -/
theorem Node.setQueue_queue (n : Node) (p : Port) (cl : Nat) (q : List QFrame) :
    (n.setQueue p cl q).k.queue p cl = q := by
  have hlt : qIdx p cl < 16 := by unfold qIdx; cases p <;> simp only [Port.num] <;> omega
  simp [Node.setQueue, Channel.queue, Vector.getD, hlt]

/-! ## An event raised -/

/-- Outside EVT an event sets its bit of its page's PG_EVENTS alone (03 R80). -/
theorem Node.raise_reg_ne (n : Node) (e : Nat) {p o : Nat} (ho : o < 0x1000) (hp : p ≠ pgEVT)
    (hne : regKey p o ≠ regKey (evtHome e).1 0x014) : (n.raise e).k.reg p o = n.k.reg p o :=
  (Node.evtOnly_notify _ _ _ _ p o ho hp).trans (Channel.reg_setReg_ne _ _ hne)

theorem Node.raise_event (n : Node) (e : Nat) (hp : (evtHome e).1 ≠ pgEVT) (hb : (evtHome e).2 < 32) :
    ((n.raise e).k.reg (evtHome e).1 0x014).bit (evtHome e).2 = true := by
  have hset : (n.setBit (evtHome e).1 0x014 (evtHome e).2).k.reg (evtHome e).1 0x014 =
      (n.reg (evtHome e).1 0x014).setBit (evtHome e).2 true := Channel.reg_setReg _ _ _ _
  rw [Node.raise, Node.evtOnly_notify _ _ _ _ _ _ (by decide) hp, hset, Word.bit_setBit _ _ hb]

theorem Node.regsOnly_raiseIf (n : Node) (b : Bool) (e : Nat) : n.RegsOnly (n.raiseIf b e) :=
  Node.regsOnly_ite (n.regsOnly_raise e) (.refl n)

theorem Node.raiseIf_reg_ne (n : Node) (b : Bool) (e : Nat) {p o : Nat} (ho : o < 0x1000) (hp : p ≠ pgEVT)
    (hne : regKey p o ≠ regKey (evtHome e).1 0x014) : (n.raiseIf b e).k.reg p o = n.k.reg p o := by
  cases b
  · rfl
  · exact n.raise_reg_ne e ho hp hne

/-! ## The exception path (12 R328, R329) -/

theorem length_bytesLE (n v : Nat) : (bytesLE n v).length = n := by
  induction n generalizing v with
  | zero => rfl
  | succ n ih => rw [bytesLE, List.length_cons, ih]

theorem length_excEntry (w : Walk) (reason code status faddr cls : Nat) :
    (excEntry w reason code status faddr cls).length = 32 := by
  simp [excEntry, length_bytesLE]

@[simp] theorem Node.giveFw_evs (n : Node) (a : Nat) : (n.giveFw a).evs = n.evs := by
  unfold Node.giveFw; split <;> rfl

@[simp] theorem Node.giveFw_reg (n : Node) (a p o : Nat) : (n.giveFw a).k.reg p o = n.k.reg p o := by
  unfold Node.giveFw; split <;> rfl

@[simp] theorem Node.giveFw_sram (n : Node) (a : Nat) : (n.giveFw a).k.sram = n.k.sram := by
  unfold Node.giveFw; split <;> rfl

/-- The classifier with a buffer in the firmware's hands, where it has one. -/
def Classifier.given (x : Classifier) : Option Nat → Classifier
  | none => x
  | some i => { x with fwHeld := i :: x.fwHeld.filter (· ≠ i) }

theorem Node.giveFw_cls (n : Node) (a : Nat) : (n.giveFw a).k.cls = n.k.cls.given (n.k.bufIdx a) := by
  unfold Node.giveFw; split <;> simp [Classifier.given, *]

theorem Classifier.given_eq (x : Classifier) (i : Option Nat) : x.given i = { x with fwHeld := (x.given i).fwHeld } := by
  cases i <;> rfl

/-- PROD advanced, and the exception counted, also against its tick. -/
def Node.excAdvance (n : Node) : Node :=
  ((n.setReg pgCLS 0x074 (BitVec.ofNat 32 ((n.k.excProd + 1) % n.k.excSize))).onCls fun x =>
    { x with excused := x.excused + 1 }).clsCount 6

/-- The same with the frame's buffer in the firmware's hands, and the event of a ring that was empty. -/
def Node.excTake (n : Node) (buf : Nat) : Node :=
  (n.excAdvance.giveFw buf).raiseIf (n.k.excProd = n.k.excCons) evCLS_EXCEPTION

theorem Node.excAdvance_evs (n : Node) : n.excAdvance.evs = n.evs := by
  rw [Node.excAdvance, Node.clsCount_evs, Node.onCls_evs, Node.setReg_evs]

theorem Node.excAdvance_sram (n : Node) : n.excAdvance.k.sram = n.k.sram := by
  rw [Node.excAdvance, Node.clsCount_k, Channel.setReg_sram, Node.onCls_k, Node.setReg_k]
  rfl

theorem Node.excAdvance_cls (n : Node) : n.excAdvance.k.cls = { n.k.cls with excused := n.k.cls.excused + 1 } := by
  rw [Node.excAdvance, Node.onCls_clsCount_cls, Node.setReg_k, Channel.setReg_cls]

section
variable (n : Node) (buf : Nat)

theorem Node.regsOnly_excTake : (n.excAdvance.giveFw buf).RegsOnly (n.excTake buf) := Node.regsOnly_raiseIf _ _ _

theorem Node.excTake_evs : (n.excTake buf).evs = n.evs := by
  rw [(n.regsOnly_excTake buf).evs_eq, Node.giveFw_evs, Node.excAdvance_evs]

theorem Node.excTake_sram : (n.excTake buf).k.sram = n.k.sram := by
  rw [(n.regsOnly_excTake buf).sram_eq, Node.giveFw_sram, Node.excAdvance_sram]

theorem Node.excTake_cls : (n.excTake buf).k.cls =
    { n.k.cls with excused := n.k.cls.excused + 1 }.given (n.excAdvance.k.bufIdx buf) := by
  rw [(n.regsOnly_excTake buf).cls_eq, Node.giveFw_cls, Node.excAdvance_cls]

theorem Node.excTake_prod : (n.excTake buf).k.reg pgCLS 0x074 = BitVec.ofNat 32 ((n.k.excProd + 1) % n.k.excSize) := by
  rw [Node.excTake, Node.raiseIf_reg_ne _ _ _ (by decide) (by decide) (by decide), Node.giveFw_reg, Node.excAdvance,
    Node.clsCount_reg_ne _ (by decide), Node.onCls_reg, Node.setReg_k, Channel.reg_setReg]

theorem Node.excTake_event (h : n.k.excProd = n.k.excCons) : ((n.excTake buf).k.reg pgCLS 0x014).bit 0 = true := by
  rw [Node.excTake, Node.raiseIf, if_pos (decide_eq_true h)]
  exact Node.raise_event _ evCLS_EXCEPTION (by decide) (by decide)

end

section
variable {n : Node} (w : Walk) (r code st fa cls : Nat)

theorem Node.exception_off_or_full
    (h : (n.k.reg pgCLS 0x070).bit 0 = false ∨ (n.k.excProd + 1) % n.k.excSize = n.k.excCons) :
    n.exception w r code st fa cls = (n.freeBuf w.frame.buf).clsCount 8 := by
  have hcond : (!(n.k.reg pgCLS 0x070).bit 0 || decide ((n.k.excProd + 1) % n.k.excSize = n.k.excCons)) = true := by
    simpa using h
  simp only [Node.exception, hcond, if_true]

variable (hon : (n.k.reg pgCLS 0x070).bit 0 = true) (hroom : (n.k.excProd + 1) % n.k.excSize ≠ n.k.excCons)
include hon hroom

theorem Node.exception_rate (hrate : n.k.cls.excused = (n.k.reg pgCLS 0x054).field 0 10) :
    n.exception w r code st fa cls = (n.freeBuf w.frame.buf).clsCount 7 := by
  simp only [Node.exception, hon, hroom, hrate, Bool.not_true, decide_false, Bool.or_self, Bool.false_eq_true, if_false,
    if_true]

theorem Node.exception_written (hrate : n.k.cls.excused ≠ (n.k.reg pgCLS 0x054).field 0 10) (hecc : n.k.ecc = Ecc.reset)
    (hg : n.k.settled mCLS ((n.k.reg pgCLS 0x06C).toNat / 32 * 32 + 32 * n.k.excProd) 32 true ≠ .refused) :
    n.exception w r code st fa cls =
      (n.stored ((n.k.reg pgCLS 0x06C).toNat / 32 * 32 + 32 * n.k.excProd)
        ((excEntry w r code st fa cls).map some)).excTake w.frame.buf := by
  simp only [Node.exception, hon, hroom, hrate, Bool.not_true, decide_false, Bool.or_self, Bool.false_eq_true, if_false,
    Node.put_of_clean hecc (length_excEntry w r code st fa cls) hg, Node.excTake, Node.excAdvance]

end

theorem Node.walkAct_of_exc (n : Node) (w : Walk) {r : Nat} (code st fa : Nat) (hr : r < 5) :
    n.walkAct w (.exc r code st fa) = n.exception w r code st fa 0 := by
  simp only [Node.walkAct, if_neg (show ¬ 5 ≤ r by omega)]

/-! ## The clauses of the statement -/

/-- What a walk that has ended leaves of its channel, where its action raises no device event. -/
theorem exec_walkEnd_view {s : State} {c : Ch} {w : Walk} {r : WalkEnd} {n : Node} (hb : (s.ch c).boot = .run)
    (hw : (s.ch c).cls.walk = some w) (hr : w.res = some r) (hn : ((s.node c).walkDone w).walkAct w r = n)
    (hevs : n.evs = []) : ∃ t, exec (.walkEnd c) s = .next t ∧ t.ch c = n.k := by
  subst hn
  exact ⟨_, exec_walkEnd_of_ended hb hw hr, State.within_ch s c _ hevs⟩

theorem walkStart_enters {s : State} {c : Ch} {fr : RxFrame} {rest : List RxFrame} (hl : (s.ch c).live pgCLS = true)
    (hw : (s.ch c).cls.walk = none) (hq : (s.ch c).cls.backlog = fr :: rest) :
    ∃ t, exec (.walkStart c) s = .next t ∧
      (t.ch c).cls = { (s.ch c).cls with backlog := rest, walk := some ((s.ch c).firstWalk fr) } ∧
      RegsOnly { s.ch c with cls := (t.ch c).cls } (t.ch c) ∧ Counted (s.ch c) (t.ch c) pgCLS 0 := by
  have hop := Node.walkStart_of_backlog (n := s.node c) hl hw hq
  refine ⟨_, rfl, ?_⟩
  have hevs : (s.node c).walkStart.evs = [] := by rw [hop, Node.clsCount_evs, Node.onCls_evs, State.node_evs]
  rw [State.within_ch s c Node.walkStart hevs, hop]
  exact ⟨Node.onCls_clsCount_cls _ _ 0, Node.regsOnly_onCls_clsCount (s.node c) _ 0, Node.counted_clsCount _ 0⟩

theorem walkStart_idle {s : State} {c : Ch}
    (h : (s.ch c).live pgCLS = false ∨ (s.ch c).cls.walk ≠ none ∨ (s.ch c).cls.backlog = []) :
    exec (.walkStart c) s = .next s :=
  congrArg _ (State.within_of_unchanged s c (Node.walkStart_of_idle (n := s.node c) h))

section
variable {s : State} {c : Ch} {w : Walk} {a : Action} {r i : Nat} (hb : (s.ch c).boot = .run)
  (hw : (s.ch c).cls.walk = some w) (hres : w.res = some (.act a r)) (hpol : a.polen = false)
  (hstore : w.pos.store = none)
include hb hw hres hpol hstore

theorem walkEnd_drops (hi : (s.ch c).bufIdx w.frame.buf = some i) (hd : a.dest = 0) :
    ∃ t, exec (.walkEnd c) s = .next t ∧ (t.ch c).cls.walk = none ∧
      (t.ch c).cls.free = (if (s.ch c).cls.free.contains i then (s.ch c).cls.free else (s.ch c).cls.free ++ [i]) ∧
      Counted (s.ch c) (t.ch c) pgCLS 3 := by
  have hi' : (((s.node c).walkDone w).clsCount 3).k.bufIdx w.frame.buf = some i := by
    rw [Node.clsCount_bufIdx, Node.walkDone_bufIdx]; exact hi
  obtain ⟨t, ht, hk⟩ := exec_walkEnd_view hb hw hres
    ((Node.walkAct_of_act _ hstore a r).trans ((Node.deliver_drop _ w r hpol hd).trans (Node.freeBuf_of_bufIdx hi'))) rfl
  refine ⟨t, ht, ?_⟩
  rw [hk]
  exact ⟨rfl, rfl, Node.counted_clsCount ((s.node c).walkDone w) 3⟩

theorem walkEnd_queues (hd : a.dest = 1) (hroom : (s.ch c).qRoom a.port a.cls = true) :
    ∃ t, exec (.walkEnd c) s = .next t ∧ (t.ch c).cls.walk = none ∧ (t.ch c).cls.free = (s.ch c).cls.free ∧
      Counted (s.ch c) (t.ch c) pgCLS 4 ∧
      (t.ch c).queue a.port a.cls = (s.ch c).queue a.port a.cls ++ [⟨.classifier, w.frame.buf, w.frame.len⟩] := by
  obtain ⟨t, ht, hk⟩ := exec_walkEnd_view hb hw hres
    ((Node.walkAct_of_act _ hstore a r).trans (Node.deliver_queue _ w r hpol hd hroom)) rfl
  refine ⟨t, ht, ?_⟩
  rw [hk]
  exact ⟨rfl, rfl, Node.counted_clsCount ((s.node c).walkDone w) 4, Node.setQueue_queue _ _ _ _⟩

theorem walkEnd_queue_full (hi : (s.ch c).bufIdx w.frame.buf = some i) (hd : a.dest = 1)
    (hfull : (s.ch c).qRoom a.port a.cls = false) :
    ∃ t, exec (.walkEnd c) s = .next t ∧ (t.ch c).cls.walk = none ∧ (t.ch c).cls.free.contains i = true ∧
      (t.ch c).queues = (s.ch c).queues := by
  have hi' : ((((s.node c).walkDone w).clsCount 4).shapeCount (8 + 8 * a.port.num + a.cls % 8)).k.bufIdx w.frame.buf =
      some i := by
    rw [Node.shapeCount_bufIdx, Node.clsCount_bufIdx, Node.walkDone_bufIdx]; exact hi
  have hop := (Node.deliver_full ((s.node c).walkDone w) w r hpol hd hfull).trans (Node.freeBuf_of_bufIdx hi')
  obtain ⟨t, ht, hk⟩ := exec_walkEnd_view hb hw hres ((Node.walkAct_of_act _ hstore a r).trans hop) rfl
  refine ⟨t, ht, ?_⟩
  rw [hk]
  exact ⟨rfl, Classifier.contains_free_freed _ i, by simp [Node.walkDone]⟩

end

section
variable {s : State} {c : Ch} {w : Walk} {r code st fa : Nat} (hb : (s.ch c).boot = .run)
  (hw : (s.ch c).cls.walk = some w) (hres : w.res = some (.exc r code st fa)) (hr : r < 5)
include hb hw hres hr

/-- An exception that finds no place drops its frame: the buffer is free and counter j counts. -/
theorem walkEnd_exception_drops {i j : Nat} (hi : (s.ch c).bufIdx w.frame.buf = some i)
    (hop : ((s.node c).walkDone w).exception w r code st fa 0 =
      (((s.node c).walkDone w).freeBuf w.frame.buf).clsCount j) :
    ∃ t, exec (.walkEnd c) s = .next t ∧ (t.ch c).cls.walk = none ∧ (t.ch c).cls.free.contains i = true ∧
      (t.ch c).sram = (s.ch c).sram ∧ Counted (s.ch c) (t.ch c) pgCLS j := by
  have hi' : ((s.node c).walkDone w).k.bufIdx w.frame.buf = some i := hi
  rw [Node.freeBuf_of_bufIdx hi'] at hop
  obtain ⟨t, ht, hk⟩ := exec_walkEnd_view hb hw hres ((Node.walkAct_of_exc _ w code st fa hr).trans hop)
    (by rw [Node.clsCount_evs, Node.onCls_evs, Node.walkDone_evs, State.node_evs])
  have hcount := Node.counted_clsCount (((s.node c).walkDone w).onCls fun x => x.freed i) j
  refine ⟨t, ht, ?_⟩
  rw [hk, Node.onCls_clsCount_cls]
  refine ⟨rfl, Classifier.contains_free_freed _ i, ?_, hcount⟩
  rw [Node.clsCount_k, Channel.setReg_sram, Node.onCls_k, Node.walkDone_sram]
  rfl

theorem walkEnd_exception_writes (hon : ((s.ch c).reg pgCLS 0x070).bit 0 = true)
    (hroom : ((s.ch c).excProd + 1) % (s.ch c).excSize ≠ (s.ch c).excCons)
    (hrate : (s.ch c).cls.excused ≠ ((s.ch c).reg pgCLS 0x054).field 0 10) (hecc : (s.ch c).ecc = Ecc.reset)
    (hg : (s.ch c).settled mCLS (((s.ch c).reg pgCLS 0x06C).toNat / 32 * 32 + 32 * (s.ch c).excProd) 32 true ≠ .refused) :
    ∃ t, exec (.walkEnd c) s = .next t ∧ (t.ch c).cls.walk = none ∧
      (t.ch c).sram = (s.ch c).sram.write (((s.ch c).reg pgCLS 0x06C).toNat / 32 * 32 + 32 * (s.ch c).excProd)
        ((excEntry w r code st fa 0).map some) ∧
      (t.ch c).reg pgCLS 0x074 = BitVec.ofNat 32 (((s.ch c).excProd + 1) % (s.ch c).excSize) ∧
      (t.ch c).cls.excused = (s.ch c).cls.excused + 1 ∧ (t.ch c).cls.free = (s.ch c).cls.free ∧
      ((s.ch c).excProd = (s.ch c).excCons → ((t.ch c).reg pgCLS 0x014).bit 0 = true) := by
  have hop := Node.exception_written (n := (s.node c).walkDone w) w r code st fa 0 hon hroom hrate hecc hg
  obtain ⟨t, ht, hk⟩ := exec_walkEnd_view hb hw hres ((Node.walkAct_of_exc _ w code st fa hr).trans hop)
    (by rw [Node.excTake_evs, Node.stored_evs, Node.walkDone_evs, State.node_evs])
  refine ⟨t, ht, ?_⟩
  rw [hk, Node.excTake_cls, Classifier.given_eq]
  refine ⟨rfl, ?_, ?_, rfl, rfl, ?_⟩
  · rw [Node.excTake_sram, Node.stored_sram, Node.walkDone_sram, Node.walkDone_reg, Node.walkDone_excProd,
      State.node_k]
  · rw [Node.excTake_prod, Node.stored_excProd, Node.stored_excSize, Node.walkDone_excProd, Node.walkDone_excSize,
      State.node_k]
  · refine fun hempty => Node.excTake_event _ _ ?_
    rw [Node.stored_excProd, Node.stored_excCons, Node.walkDone_excProd, Node.walkDone_excCons, State.node_k, hempty]

end

/-- The first half of O51: each clause is a command's own lemma. -/
theorem walks : Walks := by
  refine ⟨fun s c fr rest hl hw hq => walkStart_enters hl hw hq, fun s c h => walkStart_idle h,
    fun n w f => ⟨n.visits_walkGo w f, n.walkGo_ends w 24 (by omega)⟩,
    fun s c w nd hb hw hr hv hecc hu hg hnd htyp => walkEnd_except hb hw hr hv hecc hu hg hnd htyp,
    fun s c w a r i hb hw hres hpol hstore hi => ⟨walkEnd_drops hb hw hres hpol hstore hi,
      walkEnd_queues hb hw hres hpol hstore, walkEnd_queue_full hb hw hres hpol hstore hi⟩,
    fun s c w r code st fa hb hw hres hr hon hroom hrate hecc hg =>
      walkEnd_exception_writes hb hw hres hr hon hroom hrate hecc hg,
    fun s c w r code st fa i hb hw hres hr hi => ⟨fun h => ?_, fun hon hroom hrate => ?_⟩,
    fun s c h => exec_walkEnd_of_idle h⟩
  · exact walkEnd_exception_drops hb hw hres hr hi (Node.exception_off_or_full w r code st fa 0 h)
  · exact walkEnd_exception_drops hb hw hres hr hi (Node.exception_rate w r code st fa 0 hon hroom hrate)

/-- Settles O51: the classifier's walks and its memory, each clause by its command's own lemma. -/
theorem classifierWalks : Obligations.ClassifierWalks := ⟨walks, classifierMemory⟩

end Sys2Proof.Machine
